-- ==== Sys2Proof/Word.lean ====
section
/-! DEFINITION. The words of Chakor (00 R7 to R9): bytes, 64-bit registers and quads, and the plainest reading of bit
ranges. Bit 0 is the least significant bit and bytes are little-endian (R8). -/

namespace Sys2Proof

/-- One byte. -/
abbrev Byte := BitVec 8

/-- One register or one instruction quad (R10, R9). -/
abbrev Quad := BitVec 64

/-- A context number, C0 to C7. -/
abbrev CtxId := Fin 8

/-- A 16-bit sequence number (06 R190). -/
abbrev Seq := BitVec 16

/-- Bits `hi:lo` of a number, `hi` included, as the manual writes bit ranges. -/
def bitsOf (v hi lo : Nat) : Nat := (v >>> lo) % 2 ^ (hi + 1 - lo)

/-- Bit `i` of a number. -/
def bitOf (v i : Nat) : Bool := v.testBit i

/-- Bits `hi:lo` of a quad as a number. -/
def Quad.bits (q : Quad) (hi lo : Nat) : Nat := bitsOf q.toNat hi lo

/-- Bit `i` of a quad. -/
def Quad.bit (q : Quad) (i : Nat) : Bool := q.getLsbD i

/-- A Boolean as the number 0 or 1. -/
def b2n (b : Bool) : Nat := if b then 1 else 0

/-- The 32-bit half of a two's complement number of `w` bits, read as an integer. -/
def signedOf (v w : Nat) : Int := if v.testBit (w - 1) then (v % 2 ^ w : Nat) - (2 ^ w : Nat) else (v % 2 ^ w : Nat)

/-- The number whose bytes, lowest first, are `bs` (R8). -/
def leNat : List Byte → Nat
  | [] => 0
  | b :: r => b.toNat + 256 * leNat r

/-- The `n` bytes, lowest first, of a number (R8). -/
def leBytes : Nat → Nat → List Byte
  | 0, _ => []
  | n + 1, v => BitVec.ofNat 8 v :: leBytes n (v / 256)

end Sys2Proof
end

