-- ==== Sys2Proof/Syntax.lean ====
section
/-! DEFINITION. The commands of Chakor: one constructor of `Instr` for each row of spec/opcode_table.json, with the operands
that the row's rule gives it. Commands that stand for a step of the block's own name the window instruction they belong to by
its context and sequence number; commands that write a register carry the source of the access (14 R444). -/

namespace Sys2Proof

/-- Where a register access comes from: an eddy command with its domain tag, or a context's sequencer (14 R444). -/
inductive Source where
  | eddy (dom : BitVec 8)
  | sequencer (c : CtxId)
  deriving DecidableEq, Repr

/-- A 64-bit access, or an aligned 32-bit access of bits 31:0 or 63:32 (00 R10). -/
inductive Part where
  | whole
  | low
  | high
  deriving DecidableEq, Repr

/-- The two kinds of lease register (06 R183). -/
inductive LeaseKind where
  | tile (n : Fin 8)
  | vat (n : Fin 2)
  deriving DecidableEq, Repr

/-- Where an error is found: the WHERE field of 12 R396. -/
inductive Where where
  | tileFile
  | vatOrLane
  | fabric
  | memory
  | port
  | screen
  | sequencerSpace
  deriving DecidableEq, Repr

/-- What the protection of the stores and paths reports during one unit of work (12 R390, R391). `unit` and `loc` are the
UNIT and LOC fields of R396. (log 15: DEDUCED.) -/
inductive Detect where
  | clean
  | corrected (w : Where) (unit : Fin 128) (loc : BitVec 48)
  | uncorrectable (w : Where) (unit : Fin 128) (loc : BitVec 48)
  deriving DecidableEq, Repr

/-- What an eddy command meets inside the block: the level of FRONT_GO (10 R338), and what the protection of the stores
reports of the bytes it reads (12 R390). (log 15: DEDUCED.) -/
structure Conditions where
  goLow : Bool
  report : Detect
  deriving DecidableEq, Repr

/-- The units that have a self-test (12 R392); engines by physical number (16 R476). -/
inductive TestUnit where
  | engine (p : Fin 68)
  | plane (p : Fin 5)
  | macroOf (seg : Fin 16) (m : Fin 16)
  | screen
  | cacheSlice (p : Fin 16)
  deriving DecidableEq, Repr

/-- The outcome of a self-test (12 R393, R402, R403): what failed, where a rule treats parts of a unit apart. `badSlice` is a slice of the
Screen's sorter, or with `path` of its address path; `badWays` are line ways of a row cache slice. -/
inductive TestOutcome where
  | pass
  | fail
  | badLine (sub : Fin 256) (bit : Fin 32)
  | badLane (lane : Fin 256)
  | badSlice (path : Bool)
  | badWays (ways : List Nat)
  deriving DecidableEq, Repr

/-- The filtered sideband inputs (11 R386). -/
inductive SideInput where
  | frontGo
  | tamper
  | lcState
  | coolClass
  | throttle
  | qpwrOk (q : Fin 4)
  deriving DecidableEq, Repr

/-- One Korni record, as 10 R344 and R345 lay it out. -/
structure KorniRec where
  typ : BitVec 8
  ctx : CtxId
  len : BitVec 16
  arg : BitVec 32
  ord : BitVec 64
  payload : List Quad
  deriving DecidableEq, Repr

/-- A beat as it stands on a port's channel: how many bytes it carries, CNT and one, and the bytes of the channel (11 R370, R376). -/
structure Beat where
  count : Nat
  data : List Byte
  deriving DecidableEq, Repr

/-- A channel of the block's ports whose beats transfer one by one: a stream or race port's, or the eddy port's response channel (11 R369,
R376, R381). -/
inductive Channel where
  | port (p : Fin 12)
  | eddy
  deriving DecidableEq, Repr

/-- Whose write a target acknowledges: an instruction's, or one that the block makes for the Korni ring (11 R358, R373, R375). -/
inductive Writer where
  | insn (n : Seq)
  | ring
  deriving DecidableEq, Repr

/-- The bytes that a beat carries. -/
def Beat.bytes (b : Beat) : List Byte := b.data.take b.count

/-- The commands. -/
inductive Instr where
  -- issue and fetch
  | issue (c : CtxId) (tag : BitVec 8) (long : Bool) (data : BitVec 256) (par : BitVec 4)
  | sequencerFetch (c : CtxId) (d : Detect)
  -- setup and control
  | setpat (c : CtxId) (n : Seq)
  | setfmt (c : CtxId) (n : Seq)
  | fence (c : CtxId) (n : Seq)
  | loopSet (c : CtxId)
  | loopCount (c : CtxId)
  | br (c : CtxId)
  | halt (c : CtxId)
  -- tiles
  | tld (c : CtxId) (n : Seq)
  | tldG (c : CtxId) (n : Seq)
  | tst (c : CtxId) (n : Seq)
  | tmov (c : CtxId) (n : Seq)
  | trel (c : CtxId) (n : Seq)
  | tsave (c : CtxId) (n : Seq)
  | trestore (c : CtxId) (n : Seq)
  -- permutation and gather
  | perm (c : CtxId) (n : Seq)
  | permX (c : CtxId) (n : Seq)
  | sperm (c : CtxId) (n : Seq)
  | gath (c : CtxId) (n : Seq)
  | scat (c : CtxId) (n : Seq)
  -- press and conversion
  | conv (c : CtxId) (n : Seq)
  | mat8 (c : CtxId) (n : Seq)
  | rot2 (c : CtxId) (n : Seq)
  | trans8 (c : CtxId) (n : Seq)
  | matmul (c : CtxId) (n : Seq)
  | hrot (c : CtxId) (n : Seq)
  -- Vat
  | vld (c : CtxId) (n : Seq)
  | vst (c : CtxId) (n : Seq)
  | copy (c : CtxId) (n : Seq)
  | add (c : CtxId) (n : Seq)
  | sub (c : CtxId) (n : Seq)
  | mul (c : CtxId) (n : Seq)
  | fma (c : CtxId) (n : Seq)
  | min (c : CtxId) (n : Seq)
  | max (c : CtxId) (n : Seq)
  | scale (c : CtxId) (n : Seq)
  | cmplt (c : CtxId) (n : Seq)
  | cmpeq (c : CtxId) (n : Seq)
  | rand (c : CtxId) (n : Seq)
  | amax (c : CtxId) (n : Seq)
  | upd (c : CtxId) (n : Seq)
  | commit (c : CtxId) (n : Seq)
  -- Screen
  | sort (c : CtxId) (n : Seq)
  | disp (c : CtxId) (n : Seq)
  | comb (c : CtxId) (n : Seq)
  -- front and watermark
  | front (c : CtxId) (n : Seq)
  | foldWeight (c : CtxId) (n : Seq)
  | foldInput (c : CtxId) (n : Seq)
  | writeWatermark (c : CtxId) (n : Seq)
  | clearDigests (c : CtxId) (n : Seq)
  -- window events
  | scoreboardBegin (c : CtxId) (n : Seq)
  | slotCommit (c : CtxId) (n : Seq) (slot : Nat) (d : Detect)
  | drainEnd (c : CtxId)
  | spanCheck (c : CtxId) (n : Seq) (span : Nat) (planes : BitVec 5) (received : List Quad)
  | screenGrant
  | addressPathGrant
  | screenError (c : CtxId) (n : Seq)
  | laneParityError (c : CtxId) (n : Seq) (unit : Nat)
  -- register writes with a row of their own
  | ctxEnable (src : Source) (c : CtxId)
  | ctxDisable (src : Source) (c : CtxId)
  | start (src : Source) (c : CtxId)
  | resume (src : Source) (c : CtxId)
  | abort (src : Source) (c : CtxId)
  | domainWrite (src : Source) (c : CtxId) (dom : BitVec 8)
  | secureWrite (src : Source) (c : CtxId) (secure : Bool)
  | leaseWrite (src : Source) (c : CtxId) (k : LeaseKind) (p : Part) (v : Quad)
  | leaseClearDone
  | fmtWrite (src : Source) (entry : Fin 32) (p : Part) (v : Quad)
  | scurveWrite (src : Source) (curve : Fin 16) (hi : Bool) (p : Part) (v : Quad)
  | tcurveWrite (src : Source) (reg : Fin 24) (p : Part) (v : Quad)
  | patQuadWrite (src : Source) (c : CtxId) (reg : Fin 32) (quad : Fin 32) (p : Part) (v : Quad)
  | remapWrite (src : Source) (remap : Bool)
  | portReturn (src : Source) (sfail : BitVec 8) (rfail : BitVec 4)
  | frontCalStart (src : Source)
  | korniModeSet (src : Source) (mode : BitVec 2)
  | korniTailWrite (src : Source) (v : Quad)
  | korniHeadWrite (src : Source) (v : Quad)
  | korniReplayRecord (r : KorniRec)
  | go (src : Source)
  | superWrite (src : Source) (c : CtxId)
  | pwrEnWrite (src : Source) (en : Bool)
  | ccack (src : Source)
  | stStart (src : Source) (kind : BitVec 4) (unit : BitVec 8)
  | lock (src : Source)
  | ssizeWrite (src : Source) (size : BitVec 6)
  | freeze (src : Source) (on : Bool)
  | clear (src : Source)
  | debugHalt (src : Source) (mask : BitVec 8)
  | debugStep (src : Source) (mask : BitVec 8)
  | registerWrite (src : Source) (off : BitVec 24) (p : Part) (v : Quad) (goLow : Bool)
  | rscRead (src : Source) (off : BitVec 24) (p : Part)
  | eddyCommand (write : Bool) (addr : BitVec 48) (len : BitVec 6) (id : BitVec 4) (dom : BitVec 8)
      (data : List Byte) (be : List Bool) (w : Conditions)
  -- responses and ports
  | writeAck (c : CtxId) (w : Writer)
  | memoryReadResponse (port : Fin 16) (tag : BitVec 8) (data : List Byte) (stat : BitVec 2)
  | translationResponse (port : Fin 16) (ttag : BitVec 6) (pa : BitVec 36) (fault : Bool) (wperm : Bool)
  | beatTransfer (ch : Channel) (inbound : Bool) (beat : Beat) (par : List Bool)
  | portNak (port : Fin 12)
  | portStall (port : Fin 12)
  | eventTransfer
  -- fronts
  | frontArrivedWritten (ok : Bool)
  | frontGoCount (elapsed : Nat) (vin : BitVec 16) (vpar : Bool)
  | frontExit
  | frontDoneWritten (ok : Bool)
  | strayFrontGo
  | frontGoHeld
  | frontWaitTimeout
  -- sideband, security, life cycle
  | sidebandGlitch (i : SideInput)
  | glitchWindowEnd
  | tamperAssert (noisy : Bool)
  | tamperRelease
  | wipeEnd (cycles : Nat)
  | lifeCycleChange (v : BitVec 2) (par : Bool)
  | coolClassChange (v : BitVec 2)
  | throttleChange (v : BitVec 4)
  | quadrantLost (q : Fin 4)
  | quadrantPowerTimeout (q : Fin 4)
  -- power and clocks
  | powerInterval (readings : List (BitVec 16 × BitVec 8))
  | islandClockChange (n : Fin 91)
  | islandClockStart (n : Fin 91)
  | temperatureSample (temps : List (BitVec 8))
  -- tables, repair
  | tablePatrol
  | scrubRow (found : List Detect)
  | selfTestEnd (u : TestUnit) (o : TestOutcome)
  | spareCopyDone (g : Fin 64) (spareFails : Bool)
  | vatRebuildDone (seg : Fin 16)
  | traceSync
  -- reset and bring-up
  | reset (cycles : Nat)
  | resetRelease (lc : BitVec 2) (cool : BitVec 2)
  | fuseDone (bad : Bool)
  | tableDone (bad : Bool)
  | testDone (failed : List (TestUnit × TestOutcome))
  | clearDone (elapsed : Nat)
  | powerLoss
  | quadrantPowerGood (q : Fin 4)
  | traceRecordOut
  deriving DecidableEq, Repr

end Sys2Proof
end

