-- ==== Sys2Proof/Decode.lean ====
section
/-! DEFINITION. The command that a word spells by the bits of the command table. The table of this block gives no row any bits:
its commands come from outside as writes, beats, events and responses, and instruction words reach the block through ISSUE and
SEQUENCER_FETCH, where Machine/Insn.lean reads their fields (06 R166 to R173). -/

namespace Sys2Proof

/-- No row of the table gives bits, so no word spells a command. -/
def decodeTableWord (nbits w : Nat) : Option Instr :=
  match nbits, w with
  | _, _ => none

end Sys2Proof
end

