-- ==== Sys2Proof/Config.lean ====
section
/-! DEFINITION. What an implementation or a part fixes and the spec does not, and the free values: constants with no body,
so that no proof can see what they are. A free value is applied to the counter `freeCtr` of State, or to the operands it
depends on (the assumption log, entry 4). -/

namespace Sys2Proof.Config

/-- A byte whose value the spec leaves open: the `i`-th byte of the open contents numbered `k`. (log 4: DESIGN CHOICE.) -/
opaque freeByte : Nat → Nat → BitVec 8

/-- A number the spec leaves open: how far the telemetry counter `n` advances for the work numbered `k` (15 R469 counters
that count timing). (log 4: DESIGN CHOICE.) -/
opaque freeCount : Nat → Nat → BitVec 64

/-- Bytes of the boot ROM outside the boot table image (15 R457 gives that image; 11 R351 gives the ROM's place). -/
opaque bootRomByte : Nat → BitVec 8

/-- The memory stack, and so the memory port, in front of which a physical line lies: the stack interleave of the P8 system
manual (01 R32). -/
opaque stackOf : Nat → Fin 16

/-- The memory port whose translation channel carries the request for a virtual page: 11 R373 gives each port such a channel
and no rule says which one an access uses before its physical page is known. -/
opaque xlatPort : Nat → Fin 16

/-- What CK_CTX_FINFO bits 47:0 hold for a VAT_BOUNDS fault whose lowest address does not fit in 48 bits, being negative or 2^48 or more: 06
R199 states it for ROW_FAULT alone. The operand is the address. (log 31: DESIGN CHOICE.) -/
opaque farInfo : Int → BitVec 48

/-- Whether stochastic rounding that overflows gives an infinity when the neighbour it chose is the nearer one and already
lies beyond the largest finite value (02 R57 states no result there): the exact magnitude is the first number over the second.
(log 17: DESIGN CHOICE.) -/
opaque srOverflow : Nat → Nat → Nat → Bool

/-- What a register of a triplicated table reads as while its three copies, the operands, all differ: 12 R405 and R406 state no value for it.
(log 44: DEDUCED.) -/
opaque splitValue : BitVec 64 → BitVec 64 → BitVec 64 → BitVec 64

/-- The rise of LVL for a block power against a budget of 0: 13 R425 divides by the budget and states no result there. -/
opaque riseAtZero : Nat → Nat

end Sys2Proof.Config
end

