-- ==== Sys2Proof/Machine/Digest.lean ====
section
/-! DEFINITION. Digest arithmetic over GF(2^64) (10 R335 to R337), the routing term (05 R156) and SHA-256 of FIPS 180-4
(10 R340). -/

namespace Sys2Proof.Machine

/-- One position of gf_multiply (R335). -/
def gfStep (left right : Nat) (product position : Nat) : Nat :=
  let p := (product * 2) % 2 ^ 64
  let q := if product.testBit 63 then p ^^^ 0x1B else p
  if right.testBit position then q ^^^ left else q

/-- Positions 63 down to 0. -/
def positions64 : List Nat := (List.range 64).reverse

/-- gf_multiply of R335. -/
def gfMul (left right : Nat) : Nat := positions64.foldl (gfStep (left % 2 ^ 64) right) 0

/-- The bit positions of an exponent of 64 bits, from its highest bit that is set down. -/
def exponentBits (exponent : Nat) : List Nat := positions64.dropWhile fun i => !exponent.testBit i

/-- gf_power of R335. The squarings of 1 above the exponent's highest set bit are left out: they give 1. -/
def gfPow (base exponent : Nat) : Nat :=
  (exponentBits exponent).foldl
    (fun r i => let q := gfMul r r; if exponent.testBit i then gfMul q base else q) 1

/-- The digest key of R335. -/
def digestKey : Nat := 0xB4D26E0F39A15C87

/-- digest_term of R335. -/
def digestTerm (message index : Nat) : Nat := gfMul message (gfPow digestKey (index + 1))

/-- A digest of consecutive messages from index `i`, the first at the power `p` of the key: exclusive-or of their terms. -/
def digestRun (p : Nat) : List Nat → Nat
  | [] => 0
  | m :: r => gfMul m p ^^^ digestRun (gfMul p digestKey) r

/-- The sum of digest_term(message, i + j) over the messages j = 0, 1, …. -/
def digestFrom (i : Nat) (ms : List Nat) : Nat := digestRun (gfPow digestKey (i + 1)) ms

/-- The mask of R337 and R349. -/
def digestMask : Nat := 0x2D1F8A63C0E5974B

/-- The words of a byte string, padded with zeros to whole quads (R349). -/
def quadsOfBytes : Nat → List Byte → List Nat
  | 0, _ => []
  | k + 1, bs => match bs with
    | [] => []
    | _ => leNat (bs.take 8) :: quadsOfBytes k (bs.drop 8)

/-- Trail digest of a result stream whose parts are `parts` (R349). (log 24: DEDUCED.) -/
def trailDigest (parts : List (List Byte)) : Nat :=
  let ws := parts.flatMap fun p => quadsOfBytes p.length p
  if ws.isEmpty then 0 else digestFrom 0 (ws.map fun w => w ^^^ digestMask)

/-- route_term of R156. -/
def routeTerm (position word : Nat) : Nat :=
  let v0 := ((position + 1) * 2 ^ 32 + word % 2 ^ 32) % 2 ^ 64
  let v1 := v0 * 0x8E3C51A72D69B4F3 % 2 ^ 64
  let v2 := v1 ^^^ (v1 >>> 29)
  let v3 := v2 * 0x5B2D97C31E84F6A9 % 2 ^ 64
  v3 ^^^ (v3 >>> 32)

/-- The check value of words at positions `q`, q + 1, … (R156). -/
def routeSum (q : Nat) : List Nat → Nat
  | [] => 0
  | w :: r => (routeTerm q w + routeSum (q + 1) r) % 2 ^ 64

/-- Round constants of SHA-256. -/
def shaK : List Nat :=
  [0x428a2f98, 0x71374491, 0xb5c0fbcf, 0xe9b5dba5, 0x3956c25b, 0x59f111f1, 0x923f82a4, 0xab1c5ed5] ++
  [0xd807aa98, 0x12835b01, 0x243185be, 0x550c7dc3, 0x72be5d74, 0x80deb1fe, 0x9bdc06a7, 0xc19bf174] ++
  [0xe49b69c1, 0xefbe4786, 0x0fc19dc6, 0x240ca1cc, 0x2de92c6f, 0x4a7484aa, 0x5cb0a9dc, 0x76f988da] ++
  [0x983e5152, 0xa831c66d, 0xb00327c8, 0xbf597fc7, 0xc6e00bf3, 0xd5a79147, 0x06ca6351, 0x14292967] ++
  [0x27b70a85, 0x2e1b2138, 0x4d2c6dfc, 0x53380d13, 0x650a7354, 0x766a0abb, 0x81c2c92e, 0x92722c85] ++
  [0xa2bfe8a1, 0xa81a664b, 0xc24b8b70, 0xc76c51a3, 0xd192e819, 0xd6990624, 0xf40e3585, 0x106aa070] ++
  [0x19a4c116, 0x1e376c08, 0x2748774c, 0x34b0bcb5, 0x391c0cb3, 0x4ed8aa4a, 0x5b9cca4f, 0x682e6ff3] ++
  [0x748f82ee, 0x78a5636f, 0x84c87814, 0x8cc70208, 0x90befffa, 0xa4506ceb, 0xbef9a3f7, 0xc67178f2]

/-- Initial hash value of SHA-256. -/
def shaInit : List Nat :=
  [0x6a09e667, 0xbb67ae85, 0x3c6ef372, 0xa54ff53a, 0x510e527f, 0x9b05688c, 0x1f83d9ab, 0x5be0cd19]

/-- A right rotation of a 32-bit word. -/
def rotr32 (w n : Nat) : Nat := ((w >>> n) ||| (w <<< (32 - n))) % 2 ^ 32

/-- Big-endian words of a message block. -/
def beWords : Nat → List Byte → List Nat
  | 0, _ => []
  | k + 1, bs => leNat (bs.take 4).reverse :: beWords k (bs.drop 4)

/-- The message schedule, newest word first, extended by `n` words. -/
def shaExtend : Nat → List Nat → List Nat
  | 0, w => w
  | n + 1, w =>
    let a := w.getD 14 0
    let b := w.getD 1 0
    let s0 := rotr32 a 7 ^^^ rotr32 a 18 ^^^ (a >>> 3)
    let s1 := rotr32 b 17 ^^^ rotr32 b 19 ^^^ (b >>> 10)
    shaExtend n ((w.getD 15 0 + s0 + w.getD 6 0 + s1) % 2 ^ 32 :: w)

/-- One round on the eight working variables. -/
def shaRound (v : List Nat) (kw : Nat) : List Nat :=
  match v with
  | [a, b, c, d, e, f, g, h] =>
    let s1 := rotr32 e 6 ^^^ rotr32 e 11 ^^^ rotr32 e 25
    let ch := (e &&& f) ^^^ ((e ^^^ 0xFFFFFFFF) &&& g)
    let t1 := h + s1 + ch + kw
    let s0 := rotr32 a 2 ^^^ rotr32 a 13 ^^^ rotr32 a 22
    let mj := (a &&& b) ^^^ (a &&& c) ^^^ (b &&& c)
    [(t1 + s0 + mj) % 2 ^ 32, a, b, c, (d + t1) % 2 ^ 32, e, f, g]
  | w => w

/-- One block of 64 bytes. -/
def shaBlock (h : List Nat) (blk : List Byte) : List Nat :=
  let w := (shaExtend 48 (beWords 16 blk).reverse).reverse
  let v := (List.zipWith (· + ·) shaK w).foldl shaRound h
  List.zipWith (fun a b => (a + b) % 2 ^ 32) h v

/-- SHA-256 of one 64-byte message (R340): the message is one block and its padding a second. -/
def sha256of64 (msg : List Byte) : List Byte :=
  let pad : List Byte := 0x80 :: (List.replicate 53 0 ++ (List.replicate 8 0 ++ [0x02, 0x00]))
  (shaBlock (shaBlock shaInit msg) pad).flatMap fun w => (leBytes 4 w).reverse

end Sys2Proof.Machine
end

