-- ==== Sys2Proof/Machine/Num.lean ====
section
/-! DEFINITION. Exact values and rounding (02 R44, R54, R55, R57, R63, R64, R69, R72, R73). A value is a NaN, an infinity, or
a sign with an exact nonnegative fraction; arithmetic is exact and rounds once, where the spec rounds. -/

namespace Sys2Proof.Machine

/-- An element's value. `fin neg num den` is num / den, negated when `neg`, den above 0; zero keeps its sign. -/
inductive Val where
  | nan
  | inf (neg : Bool)
  | fin (neg : Bool) (num den : Nat)
  deriving DecidableEq, Repr

/-- m × 2^e with a sign. -/
def valPow (neg : Bool) (m : Nat) (e : Int) : Val :=
  if e < 0 then .fin neg m (2 ^ e.natAbs) else .fin neg (m * 2 ^ e.natAbs) 1

/-- num / den × 2^e as a fraction. -/
def scalePow (num den : Nat) (e : Int) : Nat × Nat :=
  if e < 0 then (num, den * 2 ^ e.natAbs) else (num * 2 ^ e.natAbs, den)

/-- ⌊log2 (num / den)⌋ of a nonzero fraction. -/
def floorLog2 (num den : Nat) : Int :=
  let e : Int := (Nat.log2 num : Int) - (Nat.log2 den : Int)
  let s := scalePow 1 1 e
  if num * s.2 < den * s.1 then e - 1 else e

/-- The value 0 with a sign. -/
def valZero (neg : Bool) : Val := .fin neg 0 1

/-- A value from an integer. -/
def valInt (i : Int) : Val := .fin (decide (i < 0)) i.natAbs 1

def valIsNan : Val → Bool
  | .nan => true
  | _ => false

def valIsFinite : Val → Bool
  | .fin _ _ _ => true
  | _ => false

/-- The value is a zero of either sign. -/
def valIsZero : Val → Bool
  | .fin _ n _ => n == 0
  | _ => false

def valNeg : Val → Val
  | .nan => .nan
  | .inf s => .inf !s
  | .fin s n d => .fin (!s) n d

def valAbs : Val → Val
  | .nan => .nan
  | .inf _ => .inf false
  | .fin _ n d => .fin false n d

/-- The exact product (R73). -/
def valMul : Val → Val → Val
  | .nan, _ => .nan
  | _, .nan => .nan
  | .inf s, .inf t => .inf (s != t)
  | .inf s, .fin t n _ => if n = 0 then .nan else .inf (s != t)
  | .fin s n _, .inf t => if n = 0 then .nan else .inf (s != t)
  | .fin s n d, .fin t m e => .fin (s != t) (n * m) (d * e)

/-- The exact quotient (07 R227, R73). -/
def valDiv : Val → Val → Val
  | .nan, _ => .nan
  | _, .nan => .nan
  | .inf _, .inf _ => .nan
  | .inf s, .fin t _ _ => .inf (s != t)
  | .fin s _ _, .inf t => valZero (s != t)
  | .fin s n d, .fin t m e =>
    if m = 0 then (if n = 0 then .nan else .inf (s != t)) else .fin (s != t) (n * e) (d * m)

/-- The exact sum; `down` is rounding toward −∞, which gives an exact zero sum of opposite operands the sign minus (R64). -/
def valAdd (down : Bool) : Val → Val → Val
  | .nan, _ => .nan
  | _, .nan => .nan
  | .inf s, .inf t => if s = t then .inf s else .nan
  | .inf s, .fin _ _ _ => .inf s
  | .fin _ _ _, .inf t => .inf t
  | .fin s n d, .fin t m e =>
    let a : Int := if s then -(n * e : Nat) else (n * e : Nat)
    let b : Int := if t then -(m * d : Nat) else (m * d : Nat)
    let c := a + b
    if c = 0 then valZero (if s = t then s else down) else .fin (decide (c < 0)) c.natAbs (d * e)

/-- The value times 2^e, exactly. -/
def valShift (v : Val) (e : Int) : Val :=
  match v with
  | .fin s n d => let p := scalePow n d e; .fin s p.1 p.2
  | w => w

/-- A signed comparison key of two finite or infinite values: the order of the values, −0 below +0. -/
def valLt : Val → Val → Bool
  | .nan, _ => false
  | _, .nan => false
  | .inf s, .inf t => s && !t
  | .inf s, .fin _ _ _ => s
  | .fin _ _ _, .inf t => !t
  | .fin s n d, .fin t m e =>
    if n = 0 ∧ m = 0 then s && !t
    else
      let a : Int := if s then -(n * e : Nat) else (n * e : Nat)
      let b : Int := if t then -(m * d : Nat) else (m * d : Nat)
      decide (a < b)

/-- A < B as VOP CMPLT compares: zeros of both signs are equal (07 R237). -/
def valCmpLt (a b : Val) : Bool := if valIsZero a && valIsZero b then false else valLt a b

/-- A = B as VOP CMPEQ compares (07 R237). -/
def valCmpEq : Val → Val → Bool
  | .nan, _ => false
  | _, .nan => false
  | .inf s, .inf t => s == t
  | .inf _, .fin _ _ _ => false
  | .fin _ _ _, .inf _ => false
  | .fin s n d, .fin t m e => (n * e == m * d) && (n == 0 || s == t)

/-- The maximum of R72. -/
def valMax (a b : Val) : Val := if valIsNan a || valIsNan b then .nan else if valLt a b then b else a

/-- The minimum of R72. -/
def valMin (a b : Val) : Val := if valIsNan a || valIsNan b then .nan else if valLt b a then b else a

/-- The maximum absolute value of R72 over a list; +0 for an empty list. -/
def valMaxAbs (vs : List Val) : Val := vs.foldl (fun a v => valMax a (valAbs v)) (valZero false)

/-- A rounding mode (R53), SR with the element's random word. -/
inductive Rnd where
  | rne
  | rtz
  | rup
  | rdn
  | sr (word : Nat)
  deriving DecidableEq, Repr

/-- The integer multiple of the grid step that R63 chooses for the magnitude num / den (in grid steps). -/
def roundMag (m : Rnd) (neg : Bool) (num den : Nat) : Nat :=
  let lo := num / den
  let r := num % den
  if r = 0 then lo
  else
    match m with
    | .rne => if 2 * r < den then lo else if den < 2 * r then lo + 1 else if lo % 2 = 0 then lo else lo + 1
    | .rtz => lo
    | .rup => if neg then lo else lo + 1
    | .rdn => if neg then lo + 1 else lo
    | .sr word => if word < 2 ^ 32 * r / den then lo + 1 else lo

/-- ⌊√n⌋, found bit by bit from bit i − 1 down, above the part r already found. -/
def isqrtFrom (n : Nat) : Nat → Nat → Nat
  | 0, r => r
  | i + 1, r => if (r + 2 ^ i) * (r + 2 ^ i) ≤ n then isqrtFrom n i (r + 2 ^ i) else isqrtFrom n i r

/-- ⌊√n⌋. -/
def isqrt (n : Nat) : Nat := isqrtFrom n (Nat.log2 n / 2 + 1) 0

end Sys2Proof.Machine
end

