-- ==== Sys2Proof/Machine/Format.lean ====
section
/-! DEFINITION. Element formats, their values, and conversion (02 R42 to R73). -/

namespace Sys2Proof.Machine

/-- The kinds of a format table entry (R48). -/
inductive FmtKind where
  | undef
  | float
  | sint
  | uint
  | index
  | scaleExp
  | bit
  | reserved
  deriving DecidableEq, Repr

/-- A format table entry read field by field (R48). `mx` marks INT8 inside an MX block: ISCALE −6 and symmetric saturation
(R61). -/
structure Fmt where
  kind : FmtKind
  width : Nat
  ebits : Nat
  mbits : Nat
  bias : Int
  hasInf : Bool
  nanMode : Nat
  subnorm : Bool
  iscale : Int
  mx : Bool
  deriving DecidableEq, Repr

/-- KIND by its number (R48). -/
def fmtKindOf (n : Nat) : FmtKind :=
  if n = 0 then .undef else if n = 1 then .float else if n = 2 then .sint else if n = 3 then .uint
  else if n = 4 then .index else if n = 5 then .scaleExp else if n = 6 then .bit else .reserved

/-- CK_FMTn_LO field by field (R48). -/
def fmtOfQuad (q : Quad) : Fmt where
  kind := fmtKindOf (q.bits 3 0)
  width := q.bits 13 8
  ebits := q.bits 19 16
  mbits := q.bits 28 24
  bias := signedOf (q.bits 47 32) 16
  hasInf := q.bit 48
  nanMode := q.bits 50 49
  subnorm := q.bit 51
  iscale := signedOf (q.bits 63 56) 8
  mx := false

/-- The fixed entries 0 to 15 as registers (16 R487; R43). -/
def fixedFmtQuad (n : Nat) : Quad :=
  match n with
  | 0 => 0x000B007F17082001
  | 1 => 0x000B007F07081001
  | 2 => 0x000B000F0A051001
  | 3 => 0x000C000703040801
  | 4 => 0x000B000F02050801
  | 5 => 0x0008000302030601
  | 6 => 0x0008000103020601
  | 7 => 0x0008000101020401
  | 8 => 0x0000000000002002
  | 9 => 0x0000000000001002
  | 10 => 0x0000000000000802
  | 11 => 0x0000000000000402
  | 12 => 0x0000000000000803
  | 13 => 0x0000000000002004
  | 14 => 0x0004007F00080805
  | 15 => 0x0000000000000106
  | _ => 0

/-- The register of entry `n` when the programmable entries 16 to 31 are `prog` (R42). -/
def fmtQuad (prog : List Quad) (n : Nat) : Quad := if n < 16 then fixedFmtQuad n else prog.getD (n - 16) 0

/-- Entry `n`. -/
def fmtAt (prog : List Quad) (n : Nat) : Fmt := fmtOfQuad (fmtQuad prog n)

/-- FP32, entry 0. -/
def fp32 : Fmt := fmtOfQuad (fixedFmtQuad 0)

/-- INT8 as an MXINT8 element (R61). -/
def mxInt8 : Fmt := { fmtOfQuad (fixedFmtQuad 10) with iscale := -6, mx := true }

/-- Exponent and mantissa fields of the largest finite value, as one number (R44, R57). -/
def maxFiniteCode (f : Fmt) : Nat :=
  if f.nanMode = 1 then (2 ^ f.ebits - 1) * 2 ^ f.mbits - 1
  else if f.nanMode = 2 then 2 ^ (f.ebits + f.mbits) - 2
  else 2 ^ (f.ebits + f.mbits) - 1

/-- The sign bit's weight: the sign is the most significant bit of the element (R44). -/
def signWeight (f : Fmt) : Nat := 2 ^ (f.ebits + f.mbits)

/-- Whether the format has a NaN encoding (R44, R45). -/
def fmtHasNan (f : Fmt) : Bool := f.nanMode == 1 || f.nanMode == 2

/-- The canonical NaN of R46. -/
def canonicalNan (f : Fmt) : Nat :=
  if f.kind = .scaleExp then 0xFF
  else if f.nanMode = 1 then (2 ^ f.ebits - 1) * 2 ^ f.mbits + 2 ^ (f.mbits - 1)
  else 2 ^ (f.ebits + f.mbits) - 1

/-- The value of a float element (R44). -/
def floatVal (f : Fmt) (x : Nat) : Val :=
  let m := x % 2 ^ f.mbits
  let e := x / 2 ^ f.mbits % 2 ^ f.ebits
  let s := x / signWeight f % 2 == 1
  if f.nanMode = 1 ∧ e = 2 ^ f.ebits - 1 ∧ m ≠ 0 then .nan
  else if f.nanMode = 1 ∧ e = 2 ^ f.ebits - 1 ∧ f.hasInf then .inf s
  else if f.nanMode = 2 ∧ e = 2 ^ f.ebits - 1 ∧ m = 2 ^ f.mbits - 1 then .nan
  else if e = 0 then
    (if f.subnorm then valPow s m (1 - f.bias - (f.mbits : Int)) else valZero s)
  else valPow s (2 ^ f.mbits + m) ((e : Int) - f.bias - (f.mbits : Int))

/-- The value of an element of any format (R44, R45, R59, R61). -/
def elemVal (f : Fmt) (x : Nat) : Val :=
  match f.kind with
  | .float => floatVal f x
  | .sint => valShift (valInt (signedOf x f.width)) f.iscale
  | .uint => valShift (.fin false (x % 2 ^ f.width) 1) f.iscale
  | .index => .fin false (x % 2 ^ 32) 1
  | .scaleExp => if x % 256 = 255 then .nan else valPow false 1 ((x % 256 : Nat) - 127)
  | .bit => .fin false (x % 2) 1
  | .undef => .fin false (x % 2 ^ f.width) 1
  | .reserved => .fin false (x % 2 ^ f.width) 1

/-- The largest finite value's ⌊log2⌋, the emax of R60. -/
def fmtEmax (f : Fmt) : Int :=
  if f.kind = .sint then 0
  else
    match floatVal f (maxFiniteCode f) with
    | .fin _ n d => floorLog2 n d
    | _ => 0

/-- The three selections of an instruction (R53). -/
structure Sel where
  rnd : Nat
  subn : Bool
  ovf : Bool
  deriving DecidableEq, Repr

/-- The selections every internal rounding uses (R54). -/
def selInternal : Sel := ⟨0, false, true⟩

/-- The mode of a selection with the element's random word (R53). -/
def rndOf (n word : Nat) : Rnd :=
  if n = 0 then .rne else if n = 1 then .rtz else if n = 2 then .rup else if n = 3 then .rdn else .sr word

/-- The encoding with a sign bit. -/
def withSign (f : Fmt) (neg : Bool) (code : Nat) : Nat := if neg then signWeight f + code else code

/-- The encoding of an infinity (R44). -/
def infCode (f : Fmt) : Nat := (2 ^ f.ebits - 1) * 2 ^ f.mbits

/-- R57: the result when a finite value has overflowed. `beyond` says that both neighbours lie beyond the largest finite value
and the nearer was chosen, where the text states no result (a free value). -/
def overflowCode (f : Fmt) (m : Rnd) (ovf neg beyond : Bool) (num den : Nat) : Nat :=
  if ovf = false then withSign f neg (maxFiniteCode f)
  else if f.hasInf then
    match m with
    | .rne => withSign f neg (infCode f)
    | .rtz => withSign f neg (maxFiniteCode f)
    | .rup => if neg then withSign f true (maxFiniteCode f) else infCode f
    | .rdn => if neg then withSign f true (infCode f) else maxFiniteCode f
    | .sr word =>
      if beyond then
        (if Config.srOverflow num den word then withSign f neg (infCode f) else withSign f neg (maxFiniteCode f))
      else withSign f neg (infCode f)
  else if fmtHasNan f then canonicalNan f
  else withSign f neg (maxFiniteCode f)

/-- R55 steps 4 to 7 for a nonzero finite magnitude num / den and a float destination. -/
def floatCode (f : Fmt) (m : Rnd) (subn ovf neg : Bool) (num den : Nat) : Nat :=
  let e := floorLog2 num den
  let emin : Int := 1 - f.bias
  let gradual := f.subnorm && !subn
  let q : Int := (if gradual && decide (e < emin) then emin else e) - (f.mbits : Int)
  let s := scalePow num den (-q)
  let n := roundMag m neg s.1 s.2
  if n = 0 then withSign f neg 0
  else
    let top := Nat.log2 n
    let e2 : Int := (top : Int) + q
    if e2 < emin then (if gradual then withSign f neg n else withSign f neg 0)
    else
      let mant := n * 2 ^ f.mbits / 2 ^ top - 2 ^ f.mbits
      let code := (e2 + f.bias).toNat * 2 ^ f.mbits + mant
      if maxFiniteCode f < code then
        overflowCode f m ovf neg (decide (s.1 % s.2 ≠ 0 ∧ n = s.1 / s.2)) num den
      else withSign f neg code

/-- The range of an integer format, least and greatest (R45, R61). -/
def intRange (f : Fmt) : Int × Int :=
  if f.mx then (-127, 127)
  else if f.kind = .sint then (-(2 ^ (f.width - 1) : Nat), (2 ^ (f.width - 1) : Nat) - 1)
  else (0, (2 ^ f.width : Nat) - 1)

/-- An integer saturated to a format's range and encoded (R58). -/
def satCode (f : Fmt) (i : Int) : Nat :=
  let r := intRange f
  let j := if i < r.1 then r.1 else if r.2 < i then r.2 else i
  (j % (2 ^ f.width : Nat)).toNat

/-- R58 for a value and an integer destination. -/
def intCode (f : Fmt) (m : Rnd) : Val → Nat
  | .nan => 0
  | .inf s => satCode f (if s then (intRange f).1 else (intRange f).2)
  | .fin s n d =>
    let p := scalePow n d (-f.iscale)
    let k := roundMag m s p.1 p.2
    satCode f (if s then -(k : Int) else (k : Int))

/-- R59: a value converted to E8M0. -/
def scaleExpCode : Val → Nat
  | .fin _ n d =>
    if n = 0 then 0xFF
    else
      let e := floorLog2 n d
      let c := if e < -127 then -127 else if 127 < e then 127 else e
      (c + 127).toNat
  | _ => 0xFF

/-- A value converted to a destination format under the selections, with the element's random word (R55 to R59). (log 17: DESIGN CHOICE.) -/
def convertVal (f : Fmt) (sel : Sel) (word : Nat) (v : Val) : Nat :=
  match f.kind with
  | .sint => intCode f (rndOf sel.rnd word) v
  | .uint => intCode f (rndOf sel.rnd word) v
  | .index => intCode f (rndOf sel.rnd word) v
  | .scaleExp => scaleExpCode v
  | .bit => if valIsZero v then 0 else 1
  | _ =>
    match v with
    | .nan => if fmtHasNan f then canonicalNan f else 0
    | .inf s =>
      if sel.ovf = false then withSign f s (maxFiniteCode f)
      else if f.hasInf then withSign f s (infCode f)
      else if fmtHasNan f then canonicalNan f
      else withSign f s (maxFiniteCode f)
    | .fin s n d => if n = 0 then withSign f s 0 else floatCode f (rndOf sel.rnd word) sel.subn sel.ovf s n d

/-- A value rounded to FP32 under selections. -/
def toFp32 (sel : Sel) (word : Nat) (v : Val) : Val := floatVal fp32 (convertVal fp32 sel word v)

/-- An internal rounding (R54). -/
def round32 (v : Val) : Val := toFp32 selInternal 0 v

/-- fp32_add, fp32_sub, fp32_mul, fp32_fma and fp32_div as internal roundings. -/
def add32 (a b : Val) : Val := round32 (valAdd false a b)
def sub32 (a b : Val) : Val := round32 (valAdd false a (valNeg b))
def mul32 (a b : Val) : Val := round32 (valMul a b)
def fma32 (a b c : Val) : Val := round32 (valAdd false (valMul a b) c)
def div32 (a b : Val) : Val := round32 (valDiv a b)

/-- fp32_sqrt, correctly rounded: the root of num / den is bracketed at 64 bits below the leading bit, and an inexact root is
placed inside its bracket, where no rounding boundary lies. -/
def sqrt32 : Val → Val
  | .nan => .nan
  | .inf s => if s then .nan else .inf false
  | .fin s n d =>
    if n = 0 then valZero s
    else if s then .nan
    else
      let t : Int := 64 - floorLog2 n d / 2
      let p := scalePow n d (2 * t)
      let k := isqrt (p.1 / p.2)
      let v := if k * k * p.2 = p.1 then (k, 1) else (2 * k + 1, 2)
      let w := scalePow v.1 v.2 (-t)
      round32 (.fin false w.1 w.2)

/-- R69: the fixed reduction tree; one level. -/
def treeLevel (add : Val → Val → Val) : List Val → List Val
  | a :: b :: r => add a b :: treeLevel add r
  | l => l

/-- R69 with `fuel` levels at most. -/
def treeFuel (add : Val → Val → Val) : Nat → List Val → Val
  | _, [] => valZero false
  | _, [a] => a
  | 0, a :: _ => a
  | k + 1, l => treeFuel add k (treeLevel add l)

/-- R69: tree_sum. -/
def treeSum (vs : List Val) : Val := treeFuel add32 vs.length vs

/-- R71 groups: the exact products in groups of 8 consecutive k. `fuel` bounds the number of groups. -/
def groups8 (fuel : Nat) (ps : List Val) : List (List Val) :=
  match fuel with
  | 0 => []
  | k + 1 => match ps with
    | [] => []
    | _ => ps.take 8 :: groups8 k (ps.drop 8)

/-- The result of a sum whose last addition or rounding is the final one: the exact last step (R54, R230). -/
def lastStep (down : Bool) (a b : Val) : Val := valAdd down a b

/-- A group of exact products reduced by the tree, each addition of two exact values but the last rounded internally; the exact
value of the last step (R69, R71). A lone product is returned exact. -/
def groupExact (down : Bool) (ps : List Val) : Val :=
  match ps with
  | [] => valZero false
  | [a] => a
  | _ =>
    let half := (2 ^ Nat.log2 (ps.length - 1))
    lastStep down (treeSum (ps.take half)) (treeSum (ps.drop half))

/-- R71: the dot product of exact products, all but its last rounding done: its last addition (or lone product) is returned
exact, for the final rounding to FP32 to take. `down` is RDN. -/
def dotExact (down : Bool) (ps : List Val) : Val :=
  match (groups8 ps.length ps).reverse with
  | [] => valZero false
  | [g] => groupExact down g
  | g :: rest =>
    let earlier := rest.reverse.map fun h => round32 (groupExact false h)
    match earlier with
    | [] => groupExact down g
    | a :: more => lastStep down (more.foldl add32 a) (round32 (groupExact false g))

/-- R51: a programmable entry is well-formed. -/
def fmtWellFormed (q : Quad) : Bool :=
  let f := fmtOfQuad q
  let reservedZero := q.bits 7 4 == 0 && q.bits 15 14 == 0 && q.bits 23 20 == 0 && q.bits 31 29 == 0 && q.bits 55 52 == 0
  let fpMax := (2 ^ 24 - 1) * 2 ^ 104
  let isFloat :=
    f.kind == .float && (f.width == 4 || f.width == 6 || f.width == 8 || f.width == 16)
    && 1 + f.ebits + f.mbits == f.width && decide (2 ≤ f.ebits) && decide (f.ebits ≤ 8) && decide (1 ≤ f.mbits)
    && (if f.hasInf then f.nanMode == 1 else f.nanMode == 2 || f.nanMode == 0) && f.iscale == 0
    && (match floatVal f (maxFiniteCode f) with
        | .fin _ n d => decide (n ≤ fpMax * d)
        | _ => false)
    && (let least : Int := if f.subnorm then 1 - f.bias - (f.mbits : Int) else 1 - f.bias
        decide (-149 ≤ least))
  let isInt :=
    (f.kind == .sint || f.kind == .uint) && (f.width == 4 || f.width == 8 || f.width == 16 || f.width == 32)
    && f.ebits == 0 && f.mbits == 0 && f.bias == 0 && !f.hasInf && f.nanMode == 0 && !f.subnorm
    && decide (-32 ≤ f.iscale) && decide (f.iscale ≤ 32)
  reservedZero && (isFloat || isInt)

/-- R85 item 1, R51: entry `n` may be named. -/
def fmtNamedOk (prog : List Quad) (n : Nat) : Bool := n < 16 || fmtWellFormed (fmtQuad prog n)

/-- R59: the pairs of formats a conversion is defined for. -/
def convDefined (a b : Fmt) : Bool :=
  let partner (f : Fmt) : Bool :=
    f.kind == .index || (f.kind == .sint && f.width == 32 && f.iscale == 0) || (f.kind == .uint && f.width == 8 && f.iscale == 0)
  if a.kind == .index || b.kind == .index then partner a && partner b else true

/-- R60: a group of exact values quantized: the scale byte and the element codes. `word i` is the random word of the group's
element i; `ovfEntry` says that OVF applies (E4M3, E5M2). -/
def quantizeGroup (f : Fmt) (sel : Sel) (ovfEntry : Bool) (vs : List (Val × Nat)) : Nat × List Nat :=
  if vs.any fun p => !valIsFinite p.1 then (0xFF, vs.map fun _ => 0)
  else
    match valMaxAbs (vs.map Prod.fst) with
    | .fin _ n d =>
      let s : Sel := { sel with ovf := sel.ovf && ovfEntry }
      if n = 0 then (0, vs.map fun p => convertVal f s p.2 p.1)
      else
        let x0 := floorLog2 n d - fmtEmax f
        let x := if x0 < -127 then -127 else if 127 < x0 then 127 else x0
        ((127 + x).toNat, vs.map fun p => convertVal f s p.2 (valShift p.1 (-x)))
    | _ => (0xFF, vs.map fun _ => 0)

/-- R62: an element's value in a block with scale byte `sc`. -/
def blockVal (f : Fmt) (sc x : Nat) : Val :=
  if sc = 0xFF then .nan else valShift (elemVal f x) ((sc : Int) - 127)

end Sys2Proof.Machine
end

