-- ==== Sys2Proof/Machine/Deckle.lean ====
section
/-! DEFINITION. The deckle word: from a shape to the bytes of a tile and of its image (03 R76 to R85, R92), and stream deckles
(07 R220). -/

namespace Sys2Proof.Machine

/-- A deckle word field by field (R76). -/
structure Deckle where
  rows : Nat
  cols : Nat
  fmt : Nat
  layout : Nat
  pack : Nat
  group : Nat
  gaxis : Nat
  deriving DecidableEq, Repr

/-- The fields of a deckle word (R76). -/
def deckleOf (q : Quad) : Deckle where
  rows := q.bits 9 0 + 1
  cols := q.bits 19 10 + 1
  fmt := q.bits 24 20
  layout := q.bits 26 25
  pack := q.bits 28 27
  group := q.bits 31 29
  gaxis := q.bits 32 32

/-- R77: the word is well-formed in its encoding. -/
def deckleWellFormed (q : Quad) : Bool :=
  q.bits 63 33 == 0 && (if q.bits 31 29 = 0 then q.bits 32 32 == 0 else true)

/-- The number of elements. -/
def Deckle.count (d : Deckle) : Nat := d.rows * d.cols

/-- R78: the container width C for an element of `width` bits. -/
def containerBits (pack width : Nat) : Nat :=
  if pack = 0 then width else if pack = 1 then 8 else if pack = 2 then 16 else 32

/-- R79: the number of lines. -/
def Deckle.lines (d : Deckle) : Nat :=
  if d.layout = 0 then d.rows else if d.layout = 1 then d.cols
  else if d.layout = 2 then d.rows / 8 * (d.cols / 8) else d.rows / 32 * (d.cols / 32)

/-- R79: the number N of elements in a line. -/
def Deckle.perLine (d : Deckle) : Nat :=
  if d.layout = 0 then d.cols else if d.layout = 1 then d.rows else if d.layout = 2 then 64 else 1024

/-- R79: the line of element (r, c) and its position in the line. -/
def Deckle.place (d : Deckle) (r c : Nat) : Nat × Nat :=
  if d.layout = 0 then (r, c)
  else if d.layout = 1 then (c, r)
  else if d.layout = 2 then (r / 8 * (d.cols / 8) + c / 8, 8 * (r % 8) + c % 8)
  else (r / 32 * (d.cols / 32) + c / 32, 32 * (r % 32) + c % 32)

/-- R79 read backwards: the element (r, c) at position `j` of line `l`. -/
def Deckle.element (d : Deckle) (l j : Nat) : Nat × Nat :=
  if d.layout = 0 then (l, j)
  else if d.layout = 1 then (j, l)
  else if d.layout = 2 then (8 * (l / (d.cols / 8)) + j / 8, 8 * (l % (d.cols / 8)) + j % 8)
  else (32 * (l / (d.cols / 32)) + j / 32, 32 * (l % (d.cols / 32)) + j % 32)

/-- The element index of position `j` of line `l`. -/
def Deckle.indexAt (d : Deckle) (l j : Nat) : Nat := let p := d.element l j; p.1 * d.cols + p.2

/-- The smallest power of two not less than `b`, for `b` up to 256. -/
def pitchPow (b : Nat) : Nat :=
  if b ≤ 1 then 1 else if b ≤ 2 then 2 else if b ≤ 4 then 4 else if b ≤ 8 then 8 else if b ≤ 16 then 16
  else if b ≤ 32 then 32 else if b ≤ 64 then 64 else if b ≤ 128 then 128 else 256

/-- A deckle with the width of its format: everything the shape rules need. -/
structure Shape where
  d : Deckle
  width : Nat
  deriving DecidableEq, Repr

/-- The container width C. -/
def Shape.c (s : Shape) : Nat := containerBits s.d.pack s.width

/-- R80: the line length b in bytes. -/
def Shape.lineBytes (s : Shape) : Nat := (s.d.perLine * s.c + 7) / 8

/-- R81: the pitch P. -/
def Shape.pitch (s : Shape) : Nat :=
  let b := s.lineBytes
  if b ≤ 256 then pitchPow b else 256 * ((b + 255) / 256)

/-- R81: the element area E. -/
def Shape.area (s : Shape) : Nat := s.d.lines * s.pitch

/-- R82: the group size G; 0 without groups. -/
def Deckle.groupSize (d : Deckle) : Nat :=
  if d.group = 1 then 8 else if d.group = 2 then 16 else if d.group = 3 then 32 else if d.group = 4 then 64 else 0

/-- R82: the group of element (r, c). -/
def Deckle.groupAt (d : Deckle) (r c : Nat) : Nat :=
  let g := d.groupSize
  if d.gaxis = 0 then r * (d.cols / g) + c / g else c * (d.rows / g) + r / g

/-- The group of the element with index k. -/
def Deckle.groupOf (d : Deckle) (k : Nat) : Nat := d.groupAt (k / d.cols) (k % d.cols)

/-- The number of groups. -/
def Deckle.groups (d : Deckle) : Nat := if d.groupSize = 0 then 0 else d.count / d.groupSize

/-- R92: the number of scale lines and the length of one. -/
def Deckle.scaleLines (d : Deckle) : Nat := if d.groupSize = 0 then 0 else if d.gaxis = 0 then d.rows else d.cols
def Deckle.scaleLineBytes (d : Deckle) : Nat := if d.scaleLines = 0 then 0 else (d.groups + d.scaleLines - 1) / d.scaleLines

/-- R82: tile byte of the first scale. -/
def Shape.scaleBase (s : Shape) : Nat := 256 * ((s.area + 255) / 256)

/-- R83: the footprint F. -/
def Shape.footprint (s : Shape) : Nat := if s.d.group = 0 then s.area else s.scaleBase + s.d.groups

/-- R83: the slot count. -/
def Shape.slots (s : Shape) : Nat := (s.footprint + 255) / 256

/-- The shape of a deckle under the programmable entries `prog`. -/
def shapeOf (prog : List Quad) (d : Deckle) : Shape := ⟨d, (fmtAt prog d.fmt).width⟩

/-- R85 item 5: the formats block scales admit. -/
def scaledFmtOk (prog : List Quad) (n : Nat) : Bool :=
  n == 3 || n == 4 || n == 5 || n == 6 || n == 7 || n == 10 ||
  (decide (16 ≤ n) && (fmtAt prog n).kind == .float && decide ((fmtAt prog n).width ≤ 8))

/-- R85: the deckle is legal. -/
def deckleLegal (prog : List Quad) (d : Deckle) : Bool :=
  let s := shapeOf prog d
  fmtNamedOk prog d.fmt &&
  decide (s.width ≤ s.c) &&
  (if d.layout = 2 then d.rows % 8 == 0 && d.cols % 8 == 0
   else if d.layout = 3 then d.rows % 32 == 0 && d.cols % 32 == 0 else true) &&
  decide (d.group < 5) &&
  (if d.group = 0 then true
   else scaledFmtOk prog d.fmt && (if d.gaxis = 0 then d.cols % d.groupSize == 0 else d.rows % d.groupSize == 0)) &&
  decide (s.footprint ≤ 32768)

/-- R220: a stream deckle may be named: items 1 and 2 of R85. -/
def streamLegal (prog : List Quad) (d : Deckle) : Bool :=
  fmtNamedOk prog d.fmt && decide ((fmtAt prog d.fmt).width ≤ containerBits d.pack (fmtAt prog d.fmt).width)

/-- The element type of R87: FMT, GROUP and GAXIS. -/
def Deckle.elemType (d : Deckle) : Nat × Nat × Nat := (d.fmt, d.group, d.gaxis)

/-- The format an element is decoded with: INT8 in a block is MXINT8 (R61). -/
def Deckle.elemFmt (prog : List Quad) (d : Deckle) : Fmt :=
  if d.group ≠ 0 ∧ d.fmt = 10 then mxInt8 else fmtAt prog d.fmt

/-- `c` bits from bit `o` of a little-endian bit string. -/
def bitsAt (img : Array Byte) (o c : Nat) : Nat :=
  let first := o / 8
  let n := (o + c + 7) / 8 - first
  (leNat ((List.range n).map fun i => img.getD (first + i) 0) >>> (o % 8)) % 2 ^ c

/-- The encoding of element `k` of a tile's bytes. -/
def elemCode (s : Shape) (img : Array Byte) (k : Nat) : Nat :=
  let p := s.d.place (k / s.d.cols) (k % s.d.cols)
  bitsAt img (p.1 * s.pitch * 8 + p.2 * s.c) s.c % 2 ^ s.width

/-- The scale byte of group `g`. -/
def scaleCode (s : Shape) (img : Array Byte) (g : Nat) : Nat := (img.getD (s.scaleBase + g) 0).toNat

/-- A run of `c`-bit codes as a little-endian bit string, read as a number. -/
def packBits (c : Nat) : List Nat → Nat
  | [] => 0
  | x :: r => x % 2 ^ c + 2 ^ c * packBits c r

/-- The bytes of one line, padded to the pitch (R80, R81, R84). -/
def lineBytesOf (s : Shape) (codes : Array Nat) (l : Nat) : List Byte :=
  leBytes s.lineBytes (packBits s.c ((List.range s.d.perLine).map fun j => codes.getD (s.d.indexAt l j) 0 % 2 ^ s.width)) ++
    List.replicate (s.pitch - s.lineBytes) 0

/-- The bytes of every slot of a tile that holds the element codes `codes`, by element index, and the scales `scales`, by
group (R80 to R84). (log 21: DEDUCED.) -/
def layTile (s : Shape) (codes scales : Array Nat) : List Byte :=
  let elems := (List.range s.d.lines).flatMap (lineBytesOf s codes)
  let body := if s.d.group = 0 then elems
    else elems ++ (List.replicate (s.scaleBase - s.area) 0 ++
      (List.range s.d.groups).map fun g => BitVec.ofNat 8 (scales.getD g 0))
  body ++ List.replicate (256 * s.slots - s.footprint) 0

/-- R84: a byte of a line with the container bits above the element made zero; `o` is the byte's offset in its line. (log 21: DEDUCED.) -/
def maskContainer (s : Shape) (o : Nat) (b : Byte) : Byte :=
  if s.c ≤ s.width then b
  else
    let keep := s.width - 8 * (o % (s.c / 8))
    BitVec.ofNat 8 (b.toNat % 2 ^ min 8 keep)

/-- One byte of a tile as an image supplies it: the tile byte, whether the image's element area or its scale area holds it, its
line there, and its offset in the line. -/
structure ImgByte where
  tile : Nat
  scale : Bool
  line : Nat
  off : Nat
  deriving DecidableEq, Repr

/-- Tile byte `t`'s place in the image, if it has one: padding has none (R81, R82, R92). -/
def imgByteAt (s : Shape) (t : Nat) : Option ImgByte :=
  if t < s.area then
    let l := t / s.pitch
    let o := t % s.pitch
    if o < s.lineBytes then some ⟨t, false, l, o⟩ else none
  else if s.d.group ≠ 0 ∧ s.scaleBase ≤ t ∧ t < s.footprint then
    let g := t - s.scaleBase
    some ⟨t, true, g / s.d.scaleLineBytes, g % s.d.scaleLineBytes⟩
  else none

/-- The image bytes of slot `k`, in ascending tile byte. -/
def slotImgBytes (s : Shape) (k : Nat) : List ImgByte :=
  (List.range 256).filterMap fun i => imgByteAt s (256 * k + i)

/-- The codes of every element of a tile, by element index. -/
def allCodes (s : Shape) (img : Array Byte) : Array Nat := ((List.range s.d.count).map (elemCode s img)).toArray

/-- The value of element `k` of a tile (R44, R45, R62). -/
def elemValue (prog : List Quad) (s : Shape) (img : Array Byte) (k : Nat) : Val :=
  let f := s.d.elemFmt prog
  if s.d.group = 0 then elemVal f (elemCode s img k)
  else blockVal f (scaleCode s img (s.d.groupOf k)) (elemCode s img k)

end Sys2Proof.Machine
end

