-- ==== Sys2Proof/Machine/Pattern.lean ====
section
/-! DEFINITION. Patterns: links, chains, their checks and their pull maps (04 R110 to R125). A chain is the list of its latched
registers, link 0 first. -/

namespace Sys2Proof.Machine

/-- A latched pattern register: its number and its 32 quads. -/
structure Link where
  reg : Nat
  quads : List Quad
  deriving DecidableEq, Repr

/-- A latched chain: its links, and the link at which it first breaks the length or the repetition rule of R123 (R125, reason 3). -/
structure Chain where
  links : List Link
  broken : Option Nat
  deriving DecidableEq, Repr

def Link.q (l : Link) (i : Nat) : Quad := l.quads.getD i 0
def Link.kind (l : Link) : Nat := (l.q 0).bits 1 0
def Link.inv (l : Link) : Bool := (l.q 0).bit 2
def Link.nextEn (l : Link) : Bool := (l.q 0).bit 4
def Link.next (l : Link) : Nat := (l.q 0).bits 9 5
def Link.nbits (l : Link) : Nat := (l.q 0).bits 21 16
def Link.rank (l : Link) : Nat := (l.q 0).bits 26 24
def Link.nm1 (l : Link) : Nat := (l.q 0).bits 63 32
/-- Extent and stride of dimension `j` (R115). -/
def Link.ext (l : Link) (j : Nat) : Nat := (l.q (1 + j)).bits 31 0 + 1
def Link.stride (l : Link) (j : Nat) : Nat := (l.q (1 + j)).bits 63 32
/-- ORDERm (R115). -/
def Link.order (l : Link) (m : Nat) : Nat := bitsOf (l.q 7).toNat (3 * m + 2) (3 * m)
/-- ROWj and CPL (R118). -/
def Link.row (l : Link) (j : Nat) : Nat := if j % 2 = 0 then (l.q (1 + j / 2)).bits 31 0 else (l.q (1 + j / 2)).bits 63 32
def Link.cpl (l : Link) : Nat := (l.q 17).bits 31 0
/-- ADDR of an index list (R120). -/
def Link.addr (l : Link) : Nat := (l.q 1).bits 47 0

/-- The registers of the chain that begins at `reg`, `fuel` at most, those in `seen` named before (R123). -/
def chainFrom (regs : Nat → List Quad) (fuel : Nat) (seen : List Nat) (reg : Nat) : Chain :=
  match fuel with
  | 0 => ⟨[], none⟩
  | k + 1 =>
    let l : Link := ⟨reg, regs reg⟩
    if l.nextEn = false then ⟨[l], none⟩
    else if k = 0 ∨ (reg :: seen).contains l.next then ⟨[l], some seen.length⟩
    else
      let rest := chainFrom regs k (reg :: seen) l.next
      ⟨l :: rest.links, rest.broken⟩

/-- The chain latched at acceptance (R113). -/
def latchChain (regs : Nat → List Quad) (reg : Nat) : Chain := chainFrom regs 4 [] reg

/-! Matrices over GF(2): lists of columns, each a number. -/

/-- The matrix applied to an index. -/
def matApply : List Nat → Nat → Nat
  | [], _ => 0
  | c :: r, x => (if x % 2 = 1 then c else 0) ^^^ matApply r (x / 2)

/-- A · B. -/
def matMul (a b : List Nat) : List Nat := b.map (matApply a)

/-- The columns 0 to n − 1 of the matrix with rows `rows`. -/
def colsOfRows (n : Nat) (rows : List Nat) : List Nat :=
  (List.range n).map fun j =>
    (List.range rows.length).foldl (fun a i => if (rows.getD i 0).testBit j then a + 2 ^ i else a) 0

/-- Row i of a matrix. -/
def matRow (m : List Nat) (i : Nat) : Nat :=
  (List.range m.length).foldl (fun a j => if (m.getD j 0).testBit i then a + 2 ^ j else a) 0

/-- The bits i to i + n − 1 of every column: rows i to i + n − 1. -/
def matRows (m : List Nat) (i n : Nat) : List Nat := m.map fun c => c / 2 ^ i % 2 ^ n

/-- Removes bit i from a pair by a pivot. -/
def clearBit (i : Nat) (p q : Nat × Nat) : Nat × Nat :=
  if q.1.testBit i then (q.1 ^^^ p.1, q.2 ^^^ p.2) else q

/-- Elimination over the bits of the list: pivots found so far, newest first, and the pairs left. -/
def eliminate : List Nat → List (Nat × Nat) → List (Nat × Nat) → Option (List (Nat × Nat))
  | [], done, _ => some done.reverse
  | i :: is, done, rest =>
    match rest.find? fun p => p.1.testBit i with
    | none => none
    | some p => eliminate is (p :: done.map (clearBit i p)) ((rest.erase p).map (clearBit i p))

/-- The inverse of an n × n matrix, if it has one. -/
def matInv (n : Nat) (m : List Nat) : Option (List Nat) :=
  (eliminate (List.range n) [] (m.zip ((List.range n).map fun j => 2 ^ j))).map fun l => l.map Prod.snd

/-! Link validity (R114 to R120, R125). -/

/-- Quads i to 31 are zero. -/
def Link.zeroFrom (l : Link) (i : Nat) : Bool := (l.quads.drop i).all fun q => q == 0

/-- R125 reason 2: reserved bits and fields that must be zero. -/
def Link.reservedSet (l : Link) : Bool :=
  let h := l.q 0
  let n := l.nbits
  h.bit 3 || h.bits 15 10 != 0 || h.bits 23 22 != 0 || h.bits 31 27 != 0 ||
  (l.kind != 2 && n != 0) || (l.kind != 1 && l.rank != 0) ||
  (if l.kind = 1 then
    (List.range 6).any (fun j => decide (l.rank ≤ j) && l.q (1 + j) != 0) ||
    (List.range 6).any (fun m => decide (l.rank ≤ m) && l.order m != 0) ||
    (l.q 7).bits 63 18 != 0 || !l.zeroFrom 8
  else if l.kind = 2 then
    (List.range 32).any (fun j => if n ≤ j then l.row j != 0 else decide (2 ^ n ≤ l.row j)) ||
    decide (2 ^ n ≤ l.cpl) || (l.q 17).bits 63 32 != 0 || !l.zeroFrom 18
  else if l.kind = 3 then (l.q 1).bits 63 48 != 0 || !l.zeroFrom 2
  else false)

/-- The dimensions of extent above 1, as (stride, extent), in ascending order of stride. -/
def Link.radix (l : Link) : List (Nat × Nat) :=
  (((List.range l.rank).filter fun j => l.ext j != 1).map fun j => (l.stride j, l.ext j)).mergeSort fun a b => decide (a.1 ≤ b.1)

/-- The strides of a sorted radix form a mixed radix from `t` (R117). -/
def mixedRadix (t : Nat) : List (Nat × Nat) → Bool
  | [] => true
  | (s, e) :: r => s == t && mixedRadix (t * e) r

/-- R117. -/
def Link.affineOk (l : Link) : Bool :=
  decide (1 ≤ l.rank) && decide (l.rank ≤ 6) &&
  ((List.range l.rank).all fun k => ((List.range l.rank).any fun m => l.order m == k)) &&
  (List.range l.rank).foldl (fun a j => a * l.ext j) 1 == l.nm1 + 1 &&
  mixedRadix 1 l.radix

/-- The matrix of a bit-matrix link, as columns (R119). -/
def Link.matrix (l : Link) : List Nat := colsOfRows l.nbits ((List.range l.nbits).map l.row)

/-- R125 reason 6 does not hold. -/
def Link.matrixOk (l : Link) : Bool :=
  decide (1 ≤ l.nbits) && decide (l.nbits ≤ 32) && l.nm1 + 1 == 2 ^ l.nbits && (matInv l.nbits l.matrix).isSome

/-- What an instruction accepts of index lists (R122). -/
inductive ListUse where
  | any
  | pushOnly
  deriving DecidableEq, Repr

/-- The link at which a chain holds its second index list. -/
def Chain.secondList (c : Chain) : Option Nat :=
  (((List.range c.links.length).filter fun i => (c.links.getD i ⟨0, []⟩).kind == 3).drop 1).head?

/-- The least reason, 1 to 7, for which link `i` is rejected at acceptance; `n` is the instruction's domain size, none when the
pattern sets it (R125, R139). -/
def linkReason (c : Chain) (use : ListUse) (n : Option Nat) (i : Nat) (l : Link) : Option Nat :=
  let nm1 := (c.links.headD l).nm1
  if l.kind = 0 then some 1
  else if l.reservedSet then some 2
  else if c.broken = some i ∨ c.secondList = some i then some 3
  else if l.nm1 != nm1 || (match n with | some k => l.nm1 + 1 != k | none => false) then some 4
  else if l.kind = 1 ∧ !l.affineOk then some 5
  else if l.kind = 2 ∧ !l.matrixOk then some 6
  else if l.kind = 3 ∧ (l.addr % 4 ≠ 0 ∨ (use = .pushOnly ∧ l.inv = false)) then some 7
  else none

/-- The first rejected link from link `i` on, with its reason. -/
def chainReasonFrom (c : Chain) (use : ListUse) (n : Option Nat) : Nat → List Link → Option (Nat × Nat)
  | _, [] => none
  | i, l :: r =>
    match linkReason c use n i l with
    | some k => some (k, i)
    | none => chainReasonFrom c use n (i + 1) r

/-- R125, reasons 1 to 7: (reason, link). -/
def chainReason (c : Chain) (use : ListUse) (n : Option Nat) : Option (Nat × Nat) := chainReasonFrom c use n 0 c.links

/-- The position and the index of the index-list link, if the chain has one. -/
def Chain.listLink (c : Chain) : Option (Nat × Link) :=
  ((List.range c.links.length).zip c.links).find? fun p => p.2.kind == 3

/-! Pull maps. -/

/-- Coordinates of dimension ORDER(rank − 1), …, ORDER0 of destination index `d`, folded into the source index (R116). -/
def affineForward (l : Link) (d : Nat) : Nat :=
  ((List.range l.rank).reverse.foldl
    (fun (p : Nat × Nat) m => let o := l.order m; (p.1 / l.ext o, p.2 + p.1 % l.ext o * l.stride o)) (d, 0)).2

/-- The destination index of source index `s`: the inverse of R116's map, coordinate by coordinate. -/
def affineBackward (l : Link) (s : Nat) : Nat :=
  (List.range l.rank).foldl
    (fun d m => let o := l.order m; d * l.ext o + (if l.ext o = 1 then 0 else s / l.stride o % l.ext o)) 0

/-- The stated map of a bit-matrix link (R119). -/
def matrixForward (l : Link) (d : Nat) : Nat := matApply l.matrix d ^^^ l.cpl

/-- Its inverse (R124). -/
def matrixBackward (l : Link) (s : Nat) : Nat :=
  matApply ((matInv l.nbits l.matrix).getD []) (s ^^^ l.cpl)

/-- The position of each value in a list of numbers below `n`. -/
def inverseList (n : Nat) (es : List Nat) : Array Nat :=
  ((List.range es.length).zip es).foldl (fun a p => a.setIfInBounds p.2 p.1) (Array.replicate n 0)

/-- A link's pull map; `entries` are the entries of the index list. -/
def linkPull (entries : List Nat) (l : Link) : Nat → Nat :=
  if l.kind = 1 then (if l.inv then affineBackward l else affineForward l)
  else if l.kind = 2 then (if l.inv then matrixBackward l else matrixForward l)
  else
    let a := if l.inv then inverseList (l.nm1 + 1) entries else entries.toArray
    fun d => a.getD d 0

/-- R123: π(d) = π0(π1(… d)). -/
def chainPull (entries : List Nat) : List Link → Nat → Nat
  | [], d => d
  | l :: r, d => linkPull entries l (chainPull entries r d)

/-- A power of two. -/
def isPow2 (n : Nat) : Bool := n != 0 && 2 ^ Nat.log2 n == n

/-- R124: the link is, or becomes, a bit-matrix link. -/
def Link.isLinear (l : Link) : Bool := l.kind == 2 || (l.kind == 1 && (List.range l.rank).all fun j => isPow2 (l.ext j))

/-- R124: the chain is linear. -/
def Chain.isLinear (c : Chain) : Bool := c.links.all Link.isLinear

/-- An affine map over GF(2): its matrix by columns, and its complement. -/
structure Linear where
  cols : List Nat
  cpl : Nat
  deriving DecidableEq, Repr

/-- The affine map that agrees with `f` at 0 and at the unit vectors of `n` bits. -/
def linearOf (n : Nat) (f : Nat → Nat) : Linear :=
  ⟨(List.range n).map fun j => f (2 ^ j) ^^^ f 0, f 0⟩

/-- The value of an affine map. -/
def Linear.apply (a : Linear) (x : Nat) : Nat := matApply a.cols x ^^^ a.cpl

/-- R125, reasons 8 and 9, over entries from position `i` on, below `n`: (reason, position). -/
def listReasonFrom (n : Nat) : Nat → List Nat → Array Bool → Option (Nat × Nat)
  | _, [], _ => none
  | i, e :: r, seen =>
    if n ≤ e then some (8, i)
    else if seen.getD e false then some (9, i)
    else listReasonFrom n (i + 1) r (seen.setIfInBounds e true)

/-- R125, reasons 8 and 9. -/
def listReason (n : Nat) (es : List Nat) : Option (Nat × Nat) := listReasonFrom n 0 es (Array.replicate n false)

end Sys2Proof.Machine
end

