-- ==== Sys2Proof/Machine/Insn.lean ====
section
/-! DEFINITION. The instructions that ISSUE carries and a sequencer fetches: their opcodes, fields and the conditions that make
one malformed (06 R166 to R170, R203, R204; 07 R216 to R220, R258). -/

namespace Sys2Proof.Machine

/-- The opcodes of R216. -/
inductive Op where
  | setpat | setfmt | fence | loop | br | halt
  | tld | tldG | tst | tmov | trel | tsave | trestore
  | perm | permX | sperm | gath | scat
  | conv | press | hrot
  | sort | disp | comb
  | vld | vst | vop | amax | upd | commit
  | front | wmark
  deriving DecidableEq, Repr

/-- An instruction as issued or fetched: one quad or four. -/
structure Insn where
  long : Bool
  quads : List Quad
  deriving DecidableEq, Repr

/-- Quad `n` (R9). -/
def Insn.q (i : Insn) (n : Nat) : Quad := i.quads.getD n 0

/-- OPCODE (R166). -/
def Insn.opcode (i : Insn) : Nat := (i.q 0).bits 11 0

/-- R216: the opcode map. -/
def opOfCode (n : Nat) : Option Op :=
  match n with
  | 0x001 => some .setpat
  | 0x002 => some .setfmt
  | 0x003 => some .fence
  | 0x004 => some .loop
  | 0x005 => some .br
  | 0x006 => some .halt
  | 0x101 => some .tld
  | 0x102 => some .tldG
  | 0x103 => some .tst
  | 0x104 => some .tmov
  | 0x105 => some .trel
  | 0x106 => some .tsave
  | 0x107 => some .trestore
  | 0x201 => some .perm
  | 0x202 => some .permX
  | 0x203 => some .sperm
  | 0x204 => some .gath
  | 0x205 => some .scat
  | 0x301 => some .conv
  | 0x302 => some .press
  | 0x303 => some .hrot
  | 0x401 => some .sort
  | 0x402 => some .disp
  | 0x403 => some .comb
  | 0x501 => some .vld
  | 0x502 => some .vst
  | 0x503 => some .vop
  | 0x504 => some .amax
  | 0x505 => some .upd
  | 0x506 => some .commit
  | 0x601 => some .front
  | 0x602 => some .wmark
  | _ => none

/-- The operation of an instruction. -/
def Insn.op (i : Insn) : Option Op := opOfCode i.opcode

/-! Fields of quad 0 (R167). -/

def Insn.rnd (i : Insn) : Nat := (i.q 0).bits 14 12
def Insn.reint (i : Insn) : Bool := (i.q 0).bit 17
def Insn.lastA (i : Insn) : Bool := (i.q 0).bit 18
def Insn.lastB (i : Insn) : Bool := (i.q 0).bit 19
def Insn.td (i : Insn) : Nat := (i.q 0).bits 28 20
def Insn.ta (i : Insn) : Nat := (i.q 0).bits 37 29
def Insn.tb (i : Insn) : Nat := (i.q 0).bits 46 38
def Insn.pat (i : Insn) : Nat := (i.q 0).bits 51 47
def Insn.port (i : Insn) : Nat := (i.q 0).bits 55 52
def Insn.xf (i : Insn) : Nat := (i.q 0).bits 63 56
/-- The selections of R53. -/
def Insn.sel (i : Insn) : Sel := ⟨i.rnd, (i.q 0).bit 15, (i.q 0).bit 16⟩
/-- The deckle word of quad 1 (R204, R219). -/
def Insn.deckle (i : Insn) : Deckle := deckleOf (i.q 1)
/-- The source deckle of CONV and PRESS operand TA: bits 32:0 of quad 2 (R219). -/
def Insn.deckleA (i : Insn) : Deckle := deckleOf (BitVec.ofNat 64 ((i.q 2).bits 32 0))
/-- The deckle of PRESS operand TB: bits 32:0 of quad 3. -/
def Insn.deckleB (i : Insn) : Deckle := deckleOf (BitVec.ofNat 64 ((i.q 3).bits 32 0))
/-- BASE or ADDR, DESC, AREA: bits 47:0 of quad 2. -/
def Insn.base (i : Insn) : Nat := (i.q 2).bits 47 0
/-- STRIDE of TLD, TST, GATH, SCAT, VLD and VST: bits 31:0 of quad 3. -/
def Insn.stride (i : Insn) : Nat := (i.q 3).bits 31 0
/-- SSTRIDE of TLD and TST; STRIDE of TLD.G; FIRST of TSAVE: bits 63:48 of quad 2. -/
def Insn.hi16 (i : Insn) : Nat := (i.q 2).bits 63 48
/-- SBASE_OFF of TLD and TST. -/
def Insn.sbaseOff (i : Insn) : Int := signedOf ((i.q 3).bits 63 32) 32
/-- SSEL of an instruction with a key quad in quad 3 (R170). -/
def Insn.keySsel (i : Insn) : Nat := (i.q 3).bits 26 24

/-- The bits of a mask that are set, ascending. -/
def maskList (m : Quad) : List Nat := (List.range 64).filter fun i => m.getLsbD i

/-- The tile registers of tile number `t` over an engine mask, ascending (R137). -/
def reamTiles (t : Nat) (mask : Quad) : List Nat := (maskList mask).map fun e => 8 * e + t % 8

/-- SPERM's engine count and working ream (R212). -/
def Insn.spermEngines (i : Insn) : Nat := (i.q 0).bits 43 38 + 1
def Insn.spermReam (i : Insn) : List Nat :=
  (List.range i.spermEngines).map fun e => 8 * (i.td / 8 + e) + i.td % 8

/-- Quads 2 and 3 as one 128-bit field (R204). -/
def Insn.wide (i : Insn) : Nat := (i.q 2).toNat + 2 ^ 64 * (i.q 3).toNat
def Insn.spermSrc (i : Insn) : Nat := bitsOf i.wide 39 0 * 256
def Insn.spermDst (i : Insn) : Nat := bitsOf i.wide 79 40 * 256
def Insn.spermScr (i : Insn) : Nat := bitsOf i.wide 119 80 * 256

/-- The FIRST operand, 0 for an instruction without one (R203, R204, R212, R217, R218). -/
def Insn.first (i : Insn) : Nat :=
  match i.op with
  | some .tld => i.xf
  | some .tldG => i.xf
  | some .tst => i.xf
  | some .gath => i.xf
  | some .scat => i.xf
  | some .vld => i.xf
  | some .vst => i.xf
  | some .tsave => i.hi16
  | some .trestore => i.hi16
  | some .sperm => i.xf + 256 * bitsOf i.wide 127 120 + 65536 * i.ta
  | some .vop => (i.q 0).bits 51 39
  | some .upd => (i.q 0).bits 51 39
  | _ => 0

/-- The instruction takes a FIRST operand (R198). -/
def Op.hasFirst : Op → Bool
  | .tld | .tldG | .tst | .gath | .scat | .vld | .vst | .tsave | .trestore | .sperm | .vop | .upd => true
  | _ => false

/-- VOP's operands (R218, R219). -/
def Insn.vopOp (i : Insn) : Nat := i.xf
def Insn.afmt (i : Insn) : Nat := (i.q 0).bits 33 29
def Insn.bfmt (i : Insn) : Nat := (i.q 0).bits 38 34
def Insn.vopDst (i : Insn) : Nat := (i.q 2).bits 20 0 * 64
def Insn.vopSrcA (i : Insn) : Nat := (i.q 2).bits 41 21 * 64
def Insn.srcbField (i : Insn) : Nat := (i.q 2).bits 62 42
def Insn.vopSrcB (i : Insn) : Nat := i.srcbField * 64

/-- HROT's fields (R217). -/
def Insn.sfmt (i : Insn) : Nat := (i.q 0).bits 42 38
def Insn.hrotLog (i : Insn) : Nat := bitsOf i.xf 4 0
def Insn.hrotInv (i : Insn) : Bool := i.xf.testBit 5

/-- WMARK's OP and SSEL; AMAX's SSEL (R217). -/
def Insn.wmarkOp (i : Insn) : Nat := bitsOf i.xf 1 0
def Insn.xfSsel (i : Insn) : Nat := bitsOf i.xf 4 2

/-- LOOP, BR and FENCE fields (R258). -/
def Insn.loopCnt (i : Insn) : Nat := (i.q 0).bits 13 12
def Insn.loopSet (i : Insn) : Bool := (i.q 0).bit 14
def Insn.imm (i : Insn) : Nat := (i.q 0).bits 63 32
def Insn.off (i : Insn) : Int := signedOf i.imm 32
def Insn.brCond (i : Insn) : Nat := (i.q 0).bits 16 12
def Insn.brSense (i : Insn) : Bool := (i.q 0).bit 17
def Insn.brAlways (i : Insn) : Bool := (i.q 0).bit 18
def Insn.fenceEvt (i : Insn) : Bool := (i.q 0).bit 12
def Insn.fenceInv (i : Insn) : Bool := (i.q 0).bit 13
def Insn.fenceTag (i : Insn) : Nat := (i.q 0).bits 31 16
def Insn.setReg (i : Insn) : Nat := (i.q 0).bits 16 12
def Insn.setpatSrc (i : Insn) : Nat := (i.q 0).bits 56 17 * 256
def Insn.setfmtSrc (i : Insn) : Nat := (i.q 0).bits 60 17 * 16

/-! Malformed instructions. -/

/-- Bits hi:lo as a mask. -/
def maskOf (r : Nat × Nat) : Nat := (2 ^ (r.1 + 1 - r.2) - 1) * 2 ^ r.2

/-- The mask of several ranges. -/
def masksOf (rs : List (Nat × Nat)) : Nat := rs.foldl (fun a r => a ||| maskOf r) 0

/-- A key quad's fields (R170). -/
def keyRanges : List (Nat × Nat) := [(26, 0), (63, 32)]

/-- The fields of quad 0 that each instruction uses besides OPCODE (R203, R217, R218, R258). -/
def Op.q0Fields : Op → List (Nat × Nat)
  | .setpat => [(16, 12), (56, 17)]
  | .setfmt => [(16, 12), (60, 17)]
  | .fence => [(12, 12), (13, 13), (31, 16)]
  | .loop => [(13, 12), (14, 14), (63, 32)]
  | .br => [(16, 12), (17, 17), (18, 18), (63, 32)]
  | .halt => []
  | .tld => [(28, 20), (55, 52), (63, 56)]
  | .tldG => [(28, 20), (63, 56)]
  | .tst => [(37, 29), (55, 52), (63, 56), (18, 17)]
  | .tmov => [(28, 20), (37, 29), (18, 17)]
  | .trel => [(28, 20)]
  | .tsave => [(28, 20)]
  | .trestore => [(28, 20)]
  | .perm => [(28, 20), (37, 29), (51, 47), (18, 17)]
  | .permX => [(28, 20), (37, 29), (51, 47), (18, 17)]
  | .sperm => [(28, 20), (37, 29), (43, 38), (51, 47), (63, 56)]
  | .gath => [(28, 20), (51, 47), (63, 56)]
  | .scat => [(37, 29), (51, 47), (63, 56), (18, 17)]
  | .conv => [(16, 12), (18, 17), (28, 20), (37, 29), (58, 56)]
  | .press => [(16, 12), (19, 17), (28, 20), (37, 29), (46, 38), (57, 56)]
  | .hrot => [(16, 12), (18, 18), (28, 20), (37, 29), (42, 38), (61, 56)]
  | .sort => []
  | .disp => []
  | .comb => [(16, 12)]
  | .vld => [(28, 20), (63, 56)]
  | .vst => [(37, 29), (63, 56), (18, 17)]
  | .vop => [(16, 12), (33, 29), (38, 34), (51, 39), (63, 56)]
  | .amax => [(60, 56)]
  | .upd => [(16, 12), (51, 39), (56, 56)]
  | .commit => []
  | .front => [(56, 56)]
  | .wmark => [(60, 56)]

/-- The fields of quad 1 (R204, R219). -/
def Op.q1Fields : Op → List (Nat × Nat)
  | .trel | .tsave | .trestore | .sort | .disp | .comb | .commit | .front => []
  | _ => [(63, 0)]

/-- The fields of quad 2. -/
def Op.q2Fields : Op → List (Nat × Nat)
  | .tld | .tldG | .tst | .tsave | .trestore | .permX | .sperm | .hrot => [(63, 0)]
  | .gath | .scat => [(49, 0)]
  | .conv => [(32, 0), (55, 38)]
  | .press => [(32, 0)]
  | .vld | .vst | .amax => [(26, 0)]
  | .vop => [(62, 0)]
  | .upd | .sort | .disp | .comb | .wmark => [(47, 0)]
  | .front => [(15, 0)]
  | _ => []

/-- The fields of quad 3. -/
def Op.q3Fields : Op → List (Nat × Nat)
  | .tld | .tldG | .tst | .tsave | .trestore | .permX | .sperm | .gath | .scat => [(63, 0)]
  | .conv | .hrot | .vop | .upd | .comb => keyRanges
  | .press => [(32, 0)]
  | .vld | .vst => [(31, 0)]
  | .amax => [(26, 0)]
  | .wmark => [(31, 0)]
  | _ => []

/-- A quad sets a bit outside the fields `rs`. -/
def outside (q : Quad) (rs : List (Nat × Nat)) : Bool := q.toNat &&& masksOf rs != q.toNat

/-- R168: a reserved bit is set. -/
def Insn.reservedSet (i : Insn) (o : Op) : Bool :=
  outside (i.q 0) ((11, 0) :: o.q0Fields) ||
  (i.long && (outside (i.q 1) o.q1Fields || outside (i.q 2) o.q2Fields || outside (i.q 3) o.q3Fields))

/-- The word of a stream deckle: LAYOUT and GROUP zero (R220). -/
def streamWord (q : Quad) : Bool := deckleWellFormed q && q.bits 26 25 == 0 && q.bits 31 29 == 0

/-- R94, R205, R215: a store whose image lines overlap, whether or not its deckle is legal. Judged under the format entries as they stand at
acceptance; a GROUP without a group size has no scale lines. (log 20: DEDUCED.) -/
def overlapStore (prog : List Quad) (i : Insn) (zeroOk : Bool) : Bool :=
  let d := i.deckle
  let s := shapeOf prog d
  (decide (i.stride < s.lineBytes) && !(zeroOk && i.stride == 0 && d.lines == 1)) ||
   (zeroOk && d.group != 0 && decide (i.hi16 < d.scaleLineBytes) && !(i.hi16 == 0 && d.scaleLines == 1))

/-- The reams of a PERM.X or HROT are disjoint or identical (R138). -/
def reamsOk (i : Insn) (sm dm : Quad) : Bool :=
  i.td % 8 != i.ta % 8 || sm == dm || sm &&& dm == 0

/-- The number of set bits. -/
def maskCount (m : Quad) : Nat := (maskList m).length

/-- R233: a fixed entry that HROT's SFMT may name. -/
def hrotFixedOk (inv : Bool) (n : Nat) : Bool :=
  if inv then n == 3 || n == 4 || n == 5 || n == 6 || n == 7 || n == 10 else decide (n ≤ 7)

/-- The conditions of each instruction's own definition that make it malformed. A FIRST of TSAVE or TRESTORE above R210's 8,196 is none: it
lies beyond the last unit, and nothing is transferred (R97, R104). (log 20: DEDUCED.) (log 23: DEDUCED.) -/
def Insn.ownMalformed (i : Insn) (o : Op) : Bool :=
  let q1 := i.q 1
  let q2 := i.q 2
  let badWord := !deckleWellFormed q1
  match o with
  | .setpat => false
  | .setfmt => decide (i.setReg < 16)
  | .fence => !i.fenceEvt && i.fenceTag != 0
  | .loop => false
  | .br => decide (19 < i.brCond) || (i.brAlways && (i.brCond != 0 || i.brSense))
  | .halt => false
  | .tld => badWord || decide (12 < i.port) || (q1.bits 31 29 == 0 && (i.hi16 != 0 || i.sbaseOff != 0)) ||
      (i.port != 0 && (q2 != 0 || i.q 3 != 0))
  | .tst => badWord || decide (12 < i.port) || (q1.bits 31 29 == 0 && (i.hi16 != 0 || i.sbaseOff != 0)) ||
      (i.port != 0 && (q2 != 0 || i.q 3 != 0))
  | .tldG => badWord
  | .tmov => badWord
  | .trel => false
  | .tsave => i.td % 64 != 0 || q2.bits 7 0 != 0
  | .trestore => i.td % 64 != 0 || q2.bits 7 0 != 0
  | .perm => badWord
  | .permX => badWord || decide (7 < i.td) || decide (7 < i.ta) || q2 == 0 || i.q 3 == 0 ||
      maskCount q2 != maskCount (i.q 3) || !reamsOk i q2 (i.q 3)
  | .sperm => badWord || q1.bits 19 0 != 0 || q1.bits 26 25 != 0 || q1.bits 32 29 != 0 ||
      decide (64 < i.td / 8 + i.spermEngines)
  | .gath => badWord || q1.bits 26 25 != 0 || q1.bits 31 29 != 0
  | .scat => badWord || q1.bits 26 25 != 0 || q1.bits 31 29 != 0
  | .conv => badWord || !deckleWellFormed (BitVec.ofNat 64 (q2.bits 32 0)) || bitsOf i.xf 1 0 == 3 ||
      (bitsOf i.xf 1 0 == 0 && q2.bits 55 38 != 0)
  | .press => badWord || !deckleWellFormed (BitVec.ofNat 64 (q2.bits 32 0)) ||
      !deckleWellFormed (BitVec.ofNat 64 ((i.q 3).bits 32 0)) || i.rnd == 4 ||
      (bitsOf i.xf 1 0 == 2 && (i.tb != 0 || i.lastB || i.q 3 != 0))
  | .hrot => badWord || decide (7 < i.td) || decide (7 < i.ta) || q2 == 0 || !reamsOk i q2 q2 ||
      decide (i.hrotLog < 3) || decide (16 < i.hrotLog) ||
      maskCount q2 * i.deckle.count % 2 ^ i.hrotLog != 0 ||
      (decide (i.sfmt < 16) && !hrotFixedOk i.hrotInv i.sfmt) || (i.hrotInv && q1.bits 31 29 != 0)
  | .sort => q2.bits 6 0 != 0
  | .disp => q2.bits 6 0 != 0
  | .comb => q2.bits 6 0 != 0
  | .vld => badWord || q2.bits 1 0 != 0 || i.stride == 0 || i.stride % 4 != 0
  | .vst => badWord || q2.bits 1 0 != 0 || i.stride == 0 || i.stride % 4 != 0 ||
      decide (i.stride < 4 * i.deckle.lines)
  | .vop => !streamWord q1 || decide (0x0A < i.vopOp) ||
      (i.vopOp == 0x00 && (i.bfmt != 0 || i.srcbField != 0)) ||
      (i.vopOp == 0x07 && (i.bfmt != 0 || i.srcbField % 8 != 0)) ||
      (i.vopOp == 0x0A && (i.afmt != 0 || i.vopSrcA != 0 || i.bfmt != 0 || decide (255 < i.srcbField) ||
        !(i.srcbField == 3 || decide (0x80 ≤ i.srcbField))))
  | .amax => !streamWord q1 || q2.bits 5 0 != 0 || (i.q 3).bits 8 0 != 0
  | .upd => !streamWord q1 || q2.bits 6 0 != 0
  | .commit => false
  | .front => q2.bits 1 0 != 0
  | .wmark => if i.wmarkOp < 2 then !streamWord q1
      else q1 != 0 || i.q 3 != 0 || (i.wmarkOp == 2 && q2.bits 4 0 != 0)

/-- R15, R166, R168, R174: the instruction is malformed, whatever the format table holds. Instructions that exist only in program
mode are judged where they are presented (R188, R262). (log 20: DEDUCED.) -/
def Insn.badFields (i : Insn) : Bool :=
  match i.op with
  | none => true
  | some o => (i.long != ((i.q 0).bits 11 8 != 0)) || i.reservedSet o || decide (4 < i.rnd ∧ o.q0Fields.contains (16, 12) ∧ i.long) ||
      i.ownMalformed o

/-- The format entry under which it is judged whether the images of a store overlap. -/
def Insn.judgedFmts (i : Insn) : List Nat :=
  match i.op with
  | some .tst => if i.port = 0 then [i.deckle.fmt] else []
  | some .scat => [i.deckle.fmt]
  | _ => []

/-- The images of a store overlap under the format entries `prog`. -/
def Insn.overlaps (prog : List Quad) (i : Insn) : Bool :=
  match i.op with
  | some .tst => i.port == 0 && overlapStore prog i true
  | some .scat => overlapStore prog i false
  | _ => false

/-- LOOP, BR and HALT exist only in program mode (R262). -/
def Op.programOnly : Op → Bool
  | .loop | .br | .halt => true
  | _ => false

/-! What an instruction names. -/

/-- The instruction writes the tile named in TD / reads the tiles in TA, TB as single registers. -/
def Op.usesTd : Op → Bool
  | .tld | .tldG | .tmov | .trel | .tsave | .trestore | .perm | .gath | .conv | .press | .vld => true
  | _ => false
def Op.usesTa : Op → Bool
  | .tst | .tmov | .perm | .scat | .conv | .press | .vst => true
  | _ => false

/-- PRESS in a mode that reads TB. -/
def Insn.usesTb (i : Insn) : Bool := i.op == some .press && bitsOf i.xf 1 0 != 2

/-- The tile registers of an instruction, in the order of R91: those of TD, TA and TB, then those of its masks (R185). (log 22: DEDUCED.) -/
def Insn.tiles (i : Insn) : List Nat :=
  match i.op with
  | none => []
  | some o =>
    (if o.usesTd then [i.td] else []) ++ (if o.usesTa then [i.ta] else []) ++ (if i.usesTb then [i.tb] else []) ++
    (match o with
     | .tldG => reamTiles i.td (i.q 3)
     | .tsave => (maskList (i.q 3)).map fun k => i.td + k
     | .trestore => (maskList (i.q 3)).map fun k => i.td + k
     | .permX => reamTiles i.td (i.q 3) ++ reamTiles i.ta (i.q 2)
     | .sperm => i.spermReam
     | .hrot => reamTiles i.td (i.q 2) ++ reamTiles i.ta (i.q 2)
     | _ => [])

/-- The instruction takes a pattern chain (R203). -/
def Op.usesPat : Op → Bool
  | .perm | .permX | .sperm | .gath | .scat => true
  | _ => false

/-- The format entries an instruction names (R51, R193). -/
def Insn.fmts (i : Insn) : List Nat :=
  match i.op with
  | none => []
  | some o =>
    match o with
    | .tld | .tldG | .tst | .tmov | .perm | .permX | .sperm | .gath | .scat | .vld | .vst | .amax | .upd => [i.deckle.fmt]
    | .conv => [i.deckle.fmt, i.deckleA.fmt]
    | .press => i.deckle.fmt :: i.deckleA.fmt :: (if i.usesTb then [i.deckleB.fmt] else [])
    | .hrot => [i.deckle.fmt, i.sfmt]
    | .vop => i.deckle.fmt :: ((if i.vopOp = 0x0A then [] else [i.afmt]) ++
        (if i.vopOp = 0x00 ∨ i.vopOp = 0x07 ∨ i.vopOp = 0x0A then [] else [i.bfmt]))
    | .wmark => if i.wmarkOp < 2 then [i.deckle.fmt] else []
    | _ => []

/-- The stream whose SEED and STEP an instruction latches (R173). -/
def Insn.stream (i : Insn) : Nat :=
  match i.op with
  | some .amax => i.xfSsel
  | some .wmark => i.xfSsel
  | some .conv => i.keySsel
  | some .hrot => i.keySsel
  | some .vop => i.keySsel
  | some .upd => i.keySsel
  | some .comb => i.keySsel
  | _ => 0

end Sys2Proof.Machine
end

