-- ==== Sys2Proof/Machine/Sparse.lean ====
section
/-! DEFINITION. Sparse stores in one canonical form: a list of (place, value) pairs whose places strictly rise and that
lists no value equal to what an unlisted place reads as (`d`). Byte stores (the Vat, tiles, working RAM, the row cache) and
word stores (pattern registers) are all of this kind. -/

namespace Sys2Proof.Machine

/-- What place `a` of a store holds; `d` where nothing is listed. -/
def spGet {α : Type} (d : α) : List (Nat × α) → Nat → α
  | [], _ => d
  | (k, v) :: r, a => if a = k then v else if a < k then d else spGet d r a

/-- The pairs (a, v0), (a + 1, v1), … of a run of values, without those equal to `d`. -/
def spRun {α : Type} [DecidableEq α] (d : α) : Nat → List α → List (Nat × α)
  | _, [] => []
  | a, v :: r => if v = d then spRun d (a + 1) r else (a, v) :: spRun d (a + 1) r

/-- The listed pairs below `a`. -/
def spBelow {α : Type} : List (Nat × α) → Nat → List (Nat × α)
  | [], _ => []
  | (k, v) :: r, a => if k < a then (k, v) :: spBelow r a else []

/-- The listed pairs at `a` and above. -/
def spFrom {α : Type} : List (Nat × α) → Nat → List (Nat × α)
  | [], _ => []
  | (k, v) :: r, a => if k < a then spFrom r a else (k, v) :: r

/-- Writes the values `vs` at `a`, `a + 1`, …, keeping the canonical form. -/
def spWrite {α : Type} [DecidableEq α] (d : α) (m : List (Nat × α)) (a : Nat) (vs : List α) : List (Nat × α) :=
  spBelow m a ++ (spRun d a vs ++ spFrom m (a + vs.length))

/-- Writes one value. -/
def spSet {α : Type} [DecidableEq α] (d : α) (m : List (Nat × α)) (a : Nat) (v : α) : List (Nat × α) :=
  spWrite d m a [v]

/-- The `n` values from `a` onward. -/
def spRead {α : Type} (d : α) (m : List (Nat × α)) (a n : Nat) : List α :=
  let w := spFrom m a
  (List.range n).map fun i => spGet d w (a + i)

/-- The places of a list strictly rise, all from `lo` up. -/
def spRises {α : Type} : Nat → List (Nat × α) → Bool
  | _, [] => true
  | lo, (k, _) :: r => decide (lo ≤ k) && spRises (k + 1) r

/-- The canonical form of a store. -/
def spWf {α : Type} [DecidableEq α] (d : α) (m : List (Nat × α)) : Bool :=
  spRises 0 m && m.all fun p => decide (p.2 ≠ d)

/-- A byte store whose unlisted bytes read as zero. -/
abbrev Bytes := List Host.Cell

/-- Byte `a` of a byte store. (log 5: DESIGN CHOICE.) -/
def byteAt (m : Bytes) (a : Nat) : Byte := spGet 0 m a

/-- The `n` bytes of a byte store from `a`. -/
def bytesAt (m : Bytes) (a n : Nat) : List Byte := spRead 0 m a n

/-- A byte store with the bytes `bs` written from `a`. -/
def putBytes (m : Bytes) (a : Nat) (bs : List Byte) : Bytes := spWrite 0 m a bs

/-- A byte store with one byte written. -/
def putByte (m : Bytes) (a : Nat) (b : Byte) : Bytes := spSet 0 m a b

/-- A byte store with the `n` bytes from `a` made zero. -/
def zeroBytes (m : Bytes) (a n : Nat) : Bytes := spBelow m a ++ spFrom m (a + n)

/-- The canonical form of a byte store. -/
def bytesWf (m : Bytes) : Bool := spWf 0 m

/-- The canonical form of the pattern registers of a context. -/
def patsWf (m : List (Nat × Quad)) : Bool := spWf 0 m

end Sys2Proof.Machine
end

