-- ==== Sys2Proof/Machine/State.lean ====
section
/-! DEFINITION. The state of Chakor: every register, table, store, queue and status the spec gives the block, as plain data,
and the state after reset. The place of each field in the spec is in INVENTORY.md, under State. -/

namespace Sys2Proof.Machine

/-- No command ends a run with a fault: an instruction's fault and a refused access are next states of the block. The type is
closed and has the one constructor that a block without state to stop on would name; nothing raises it (safe). -/
inductive Fault where
  /-- Raised by nothing. Safe. -/
  | none
  deriving DecidableEq, Repr

/-- Why a command has no meaning. -/
inductive Refusal where
  /-- A command whose meaning is not yet written: raised by the arm of Dispatch that names it. Safe: no next state is claimed. -/
  | notModelled (mnemonic : String)
  deriving DecidableEq, Repr

/-- A fault of an instruction: its code (06 R196) and CK_CTX_FINFO (06 R199). -/
structure FaultRec where
  code : BitVec 8
  finfo : Quad
  deriving DecidableEq, Repr

/-- Where an instruction of a window stands. -/
inductive Phase where
  | waiting
  | ready
  | active
  | completed
  | faulted
  | cancelled
  deriving DecidableEq, Repr

/-- An accepted instruction with everything it latched (06 R190) and its progress. `openNo` numbers the open contents of its overlapping
images (10 R349). -/
structure Entry where
  seq : Seq
  insn : Insn
  addr : BitVec 48 := 0
  phase : Phase := .waiting
  first : Nat := 0
  upTo : Nat := 0
  extra : List Nat := []
  failed : Option (Nat × FaultRec) := none
  fault : Option (Nat × FaultRec) := none
  wrote : Bool := false
  started : Bool := false
  rcd : Option (List Byte) := none
  fmts : List Quad := []
  fmtBad : List Nat := []
  chain : Chain := ⟨[], none⟩
  seed : Quad := 0
  step : BitVec 32 := 0
  chips : Nat := 0
  digP : Quad := 0
  digN : Nat := 0
  spanFails : List (Nat × Nat) := []
  spanPlanes : List (Nat × Nat) := []
  spanLost : List Nat := []
  laneFails : List (Nat × Nat) := []
  screenFail : Nat := 0
  granted : Bool := false
  rchk : Quad := 0
  outs : List (Nat × Nat) := []
  openNo : Option Nat := none
  hit : Detect := .clean
  deriving DecidableEq, Repr

/-- The states of a context (06 R178). -/
inductive CtxState where
  | disabled
  | idle
  | run
  | draining
  | stopped
  | halted
  deriving DecidableEq, Repr

/-- An event of a context's queue (11 R380): a fence's TAG, or a fault's tag in the fault slot. -/
inductive CtxEvent where
  | fence (tag : BitVec 16)
  | fault (tag : BitVec 16)
  deriving DecidableEq, Repr

/-- One context. -/
structure Ctx where
  en : Bool := false
  prog : Bool := false
  qos : BitVec 4 := 0
  secure : Bool := false
  domain : BitVec 8 := 0
  st : CtxState := .disabled
  accepted : Seq := 0
  retired : Seq := 0
  reject : BitVec 3 := 0
  pc : BitVec 48 := 0
  fpc : BitVec 48 := 0
  code : BitVec 8 := 0
  valid : Bool := false
  drained : Bool := false
  fseq : Seq := 0
  count : BitVec 32 := 0
  finfo : Quad := 0
  doneBits : BitVec 31 := 0
  seeds : Vector Quad 8 := Vector.replicate 8 0
  steps : Vector (BitVec 32) 8 := Vector.replicate 8 0
  autos : BitVec 8 := 0
  lcnt : Vector (BitVec 32) 4 := Vector.replicate 4 0
  tlease : BitVec 512 := 0
  vlease : BitVec 128 := 0
  rchk : Quad := 0
  window : List Entry := []
  fetching : Bool := false
  halting : Bool := false
  brWait : Option Insn := none
  fetchFault : Option FaultRec := none
  pats : List (Nat × Quad) := []
  vote : BitVec 16 := 0
  nonfinite : Bool := false
  sealedGen : Bool := false
  committed : Bool := false
  skipped : Bool := false
  fronts : BitVec 32 := 0
  gen : BitVec 32 := 0
  digP : Quad := 0
  digW : Quad := 0
  digI : Quad := 0
  digN : Nat := 0
  events : List CtxEvent := []
  credits : Nat := 0
  deriving DecidableEq, Repr

/-- A tile register but for its bytes (03 R74). -/
structure Tile where
  deckle : Quad := 0
  inUse : Bool := false
  incomplete : Bool := false
  lost : Bool := false
  deriving DecidableEq, Repr

/-- A security domain (14 R439). -/
structure SecDomain where
  domain : BitVec 8
  secure : Bool
  deriving DecidableEq, Repr

/-- Three copies of a register (12 R405). (log 44: DEDUCED.) -/
structure Trip where
  a : Quad := 0
  b : Quad := 0
  c : Quad := 0
  deriving DecidableEq, Repr

/-- Three equal copies. -/
def Trip.all (q : Quad) : Trip := ⟨q, q, q⟩

/-- The triplicated tables (12 R405). -/
structure Tables where
  fmt : Vector Trip 16 := Vector.replicate 16 {}
  scurve : Vector Trip 32 := Vector.replicate 32 {}
  tcls : Vector Trip 3 := Vector.replicate 3 {}
  tcrit : Trip := {}
  tcurve : Vector Trip 20 := Vector.replicate 20 {}
  spareEng : Trip := {}
  spareRet : Trip := {}
  sparePlane : Trip := .all 0x100
  host : Trip := {}
  hosted : Trip := {}
  outOf : Trip := {}
  colfree : Vector Trip 2 := Vector.replicate 2 {}
  colmap : Vector Trip 128 := Vector.replicate 128 {}
  staged : List (Nat × BitVec 32) := []
  deriving DecidableEq, Repr

/-- A read the block has asked of a memory port (11 R373). `newer` holds the block's own writes to the line since the request
(R375, R391), `stale` that a FENCE with INV completed since (R375): the response then fills no line. `wants` names the accesses that
wait for the line. -/
structure MemRead where
  port : Fin 16
  tag : BitVec 8
  line : Nat
  wants : List (CtxId × Nat) := []
  stale : Bool := false
  newer : List (Nat × Byte) := []
  deriving DecidableEq, Repr

/-- What a translation response said (11 R373). -/
structure XlatAns where
  pa : BitVec 36
  fault : Bool
  wperm : Bool
  deriving DecidableEq, Repr

/-- A translation asked for one access: the context with its DOMAIN and its instruction (or a marker above the sequence numbers for a
fetch, a front record, a Korni write, or a request whose access has been given up), the virtual page, and the answer when it has come. -/
structure Xlat where
  port : Fin 16
  ttag : BitVec 6
  ctx : CtxId
  dom : BitVec 8 := 0
  who : Nat
  page : Nat
  write : Bool
  ans : Option XlatAns
  deriving DecidableEq, Repr

/-- A write request at a memory port (11 R373): its tag, the physical line, and the bytes whose BE bits are set. One without a tag waits in
front of the port until one is free: it is not outstanding yet. -/
structure MemWrite where
  port : Fin 16
  tag : Option (BitVec 8)
  line : Nat
  cells : List (Nat × Byte)
  deriving DecidableEq, Repr

/-- Where a write that is not yet acknowledged went (11 R358). -/
inductive WriteTo where
  | vat
  | memory (w : MemWrite)
  | port (p : Fin 12) (pos : Nat)
  deriving DecidableEq, Repr

/-- A write of an instruction that its target has not acknowledged, oldest first. `master` is the Felt master whose transaction it is (11
R354, R357): none for what passes through the port of the lanes' own segment (09 R295). -/
structure Unacked where
  ctx : CtxId
  seq : Seq
  tgt : WriteTo
  master : Option Nat
  deriving DecidableEq, Repr

/-- The bytes that one instruction has moved of a 512-byte piece of a port's stream (06 R195, R207). -/
structure PortPiece where
  ctx : CtxId
  seq : Seq
  done : Nat
  deriving DecidableEq, Repr

/-- A stream port (0 to 7) or race port (8 to 11) (11 R369 to R372, R376). `nak` holds the instant of the last refusal, whose pulse of the
NAK signal has not passed yet; `inPiece` and `outPiece` are the pieces that contexts are in the middle of (06 R195); `shown` is how many
bytes the beat has that the port holds with VALID raised (R369). (log 27: DESIGN CHOICE.) -/
structure Port where
  inq : List Byte := []
  outq : List Byte := []
  last : List Byte := []
  resend : Bool := false
  outRef : Nat := 0
  inRef : Nat := 0
  sentPos : Nat := 0
  putPos : Nat := 0
  nak : Option Nat := none
  fail : Bool := false
  stall : Bool := false
  inPiece : Option PortPiece := none
  outPiece : Option PortPiece := none
  shown : Option Nat := none
  deriving DecidableEq, Repr

/-- CK_FELT registers (11 R364 to R366). -/
structure Felt where
  remap : Bool := false
  dmz : Bool := false
  starve : BitVec 8 := 0x40
  eddyQos : BitVec 4 := 0xF
  intQos : BitVec 4 := 0xF
  park : Vector Quad 6 := ⟨#[0xFFFFFFFFFFFFFFFF, 0xFFFFFFFFFFFFFFFF, 0xFFFFFFFFFFFFFFFF, 0xFFFFFFFFFFFFFFFF,
    0xFFFFFFFFFFFFFFFF, 0x0000FFFFFFFFFFFF], rfl⟩
  missAddr : BitVec 48 := 0
  missWrite : Bool := false
  missSeq : Bool := false
  missDom : BitVec 8 := 0
  missValid : Bool := false
  retries : BitVec 16 := 0
  issPar : Bool := false
  deriving DecidableEq, Repr

/-- Sideband status and filters (11 R386 to R389). `win` counts the glitches of each input in the current window: FRONT_GO,
TAMPER, the LC_STATE group, COOL_CLASS, THROTTLE, QPWR_OK bits 0 to 3; `lcIn` and `lcOk` are the value last counted on the LC_STATE group
and whether its parity was good. -/
structure Sideband where
  tamper : Bool := false
  tnoisy : Bool := false
  lcnoisy : Bool := false
  lcbad : Bool := false
  ccnoisy : Bool := false
  thnoisy : Bool := false
  qpnoisy : BitVec 4 := 0
  tglitch : BitVec 16 := 0
  mglitch : BitVec 16 := 0
  win : Vector Nat 9 := Vector.replicate 9 0
  lcIn : BitVec 2 := 0
  lcOk : Bool := true
  deriving DecidableEq, Repr

/-- Which front a context is in (10 R314). -/
inductive FrontKind where
  | forced
  | solitary
  | domain
  deriving DecidableEq, Repr

/-- Where the front in progress stands. -/
inductive FrontPhase where
  | recording
  | arrived (since : Nat)
  | counted (exit : Nat) (word : BitVec 16)
  deriving DecidableEq, Repr

/-- The front in progress, with what it latched (10 R313, R330). -/
structure FrontAct where
  ctx : CtxId
  seq : Seq
  kind : FrontKind
  phase : FrontPhase
  cmt : Bool
  voteOut : BitVec 16
  word : BitVec 16
  recEn : Bool
  limit : Nat
  num : BitVec 32
  genBefore : BitVec 32
  steps : Vector (BitVec 32) 8
  deriving DecidableEq, Repr

/-- The front registers and signals (10 R311, R312, R315, R321). `sent` is the write request of the front record that is on its way. -/
structure Front where
  enable : Bool := false
  owner : BitVec 3 := 0
  recEn : Bool := false
  chipsM1 : BitVec 12 := 0
  limit : BitVec 5 := 0
  delay : BitVec 12 := 0
  calBusy : Bool := false
  calValid : Bool := false
  rtt : BitVec 16 := 0
  calSince : Nat := 0
  reca : BitVec 48 := 0
  word : BitVec 16 := 0
  arm : Bool := false
  num : BitVec 32 := 0
  stray : Bool := false
  noisy : Bool := false
  held : Bool := false
  parity : Bool := false
  recErr : Bool := false
  strays : BitVec 16 := 0
  glitches : BitVec 16 := 0
  arrive : Bool := false
  cal : Bool := false
  vout : BitVec 16 := 0
  vopar : Bool := true
  act : Option FrontAct := none
  doneRec : Option (CtxId × BitVec 48 × List Byte) := none
  sent : Option MemWrite := none
  lastCount : Option Nat := none
  deriving DecidableEq, Repr

/-- The Korni registers, the ring writes on their way, and the replay state (10 R342 to R347; 11 R368). `out` holds the bytes of the ring
that have still to leave, each piece at its virtual address within one 64-byte block, and `sent` the write requests that chip memory has
still to acknowledge, oldest first; `traceFull` is RACEFULL of the trace, as
the trace's own RACE records show it. -/
structure Korni where
  mode : BitVec 2 := 0
  raceFull : Bool := false
  trail : Bool := false
  log2size : BitVec 6 := 16
  base : BitVec 48 := 0
  head : BitVec 64 := 0
  tail : BitVec 64 := 0
  lost : Bool := false
  diverged : Bool := false
  divCtx : BitVec 3 := 0
  divSeq : BitVec 16 := 0
  ord : BitVec 64 := 0
  dropped : BitVec 32 := 0
  startOwed : Bool := false
  out : List (Nat × List Byte) := []
  sent : List MemWrite := []
  traceFull : Option Bool := none
  chunk : Vector (List Byte) 4 := Vector.replicate 4 []
  chunkPos : Vector Nat 4 := Vector.replicate 4 0
  words : List (BitVec 16) := []
  races : List (Nat × Bool × List Byte) := []
  racesGot : List (Nat × Quad) := []
  trails : List (Nat × Seq × Quad) := []
  trailsGot : List (Nat × Seq × Quad) := []
  deriving DecidableEq, Repr

/-- Power management (13 R418 to R435, 11 R385). `qpwrAt` is when QPWR_EN of the quadrant that TEST powers up was set (15 R461). -/
structure Power where
  en : Bool := false
  minstep : BitVec 5 := 0
  lvl : BitVec 5 := 31
  cls : BitVec 2 := 0
  ccount : BitVec 2 := 0
  ccpend : Bool := false
  ccack : Bool := false
  due : Option (BitVec 2) := none
  thr : BitVec 4 := 0
  overLim : Bool := false
  hot : Bool := false
  crit : Bool := false
  emerg : Bool := false
  tchalt : Bool := false
  power : BitVec 16 := 0
  budget : BitVec 16 := 0
  tmax : BitVec 8 := 0
  overs : BitVec 16 := 0
  energy : BitVec 64 := 0
  qpwrEn : BitVec 4 := 0
  qpwrAt : Nat := 0
  qpwrOk : BitVec 4 := 0
  telem : BitVec 16 := 0
  temp : BitVec 8 := 0
  deriving DecidableEq, Repr

/-- One island (13 R415 to R417, R436). `target` is the step its clock is changing to, `stopped` that its clock is stopped; `loop`, the model's
own, is the step that the power manager's loop gave it last (R425), before the first boundary that of bring-up (15 R455; log 57). -/
structure Island where
  power : BitVec 16 := 0
  temp : BitVec 8 := 0
  step : BitVec 5 := 0
  crit : Bool := false
  off : Bool := false
  target : Option (BitVec 5) := none
  stopped : Bool := false
  loop : BitVec 5 := 20
  deriving DecidableEq, Repr

/-- The error log and its control (12 R412, R413). -/
structure ErrLog where
  scrubEn : Bool := true
  scrubRate : BitVec 4 := 8
  thrashN : BitVec 8 := 8
  thrashW : BitVec 5 := 24
  evtEn : Bool := true
  head : BitVec 64 := 0
  tail : BitVec 64 := 0
  corr : BitVec 16 := 0
  uncorr : BitVec 16 := 0
  dropped : BitVec 16 := 0
  entries : Vector (Quad × Quad) 64 := Vector.replicate 64 (0, 0)
  evq : List (BitVec 16) := []
  deriving DecidableEq, Repr

/-- Self-tests, copies and rebuilds in progress, and the history a THRASH window needs (12 R392 to R394, R397, R402). `lossDue` are the lost
quadrants whose repair waits for a spare map register that disagrees in all three copies (R404, R406; log 44). -/
structure SelfTest where
  kind : BitVec 4 := 0
  unit : BitVec 8 := 0
  busy : Bool := false
  fail : Bool := false
  running : List TestUnit := []
  started : Option TestUnit := none
  passes : List (TestUnit × Nat × Nat) := []
  copies : List (Fin 64 × Bool) := []
  rebuilds : List (Fin 16) := []
  hosts : List (Fin 64 × Fin 64 × Nat) := []
  wasSpare : List (Fin 5) := []
  sorterBad : Nat := 0
  pathBad : Nat := 0
  cacheBad : List (Fin 16 × Nat) := []
  lossDue : List (Fin 4) := []
  scrubRow : Nat := 0
  deriving DecidableEq, Repr

/-- The Screen's grants (08 R263, R264). -/
structure Screen where
  owner : Option (CtxId × Seq) := none
  ptr : Fin 8 := 0
  paths : List (CtxId × Seq) := []
  pathPtr : Fin 8 := 0
  bufFree : Option Nat := none
  deriving DecidableEq, Repr

/-- Security registers and the wipe in progress (14 R449 to R453). -/
structure Security where
  ssize : BitVec 6 := 0
  secdom : BitVec 8 := 0
  twmask : BitVec 8 := 0
  locked : Bool := false
  closed : Bool := false
  wiping : Bool := false
  wiped : Bool := false
  wipes : BitVec 16 := 0
  last : BitVec 16 := 0
  cause : BitVec 3 := 0
  lc : BitVec 2 := 0
  since : Nat := 0
  nextCause : BitVec 3 := 0
  nextLc : Option (BitVec 2) := none
  wipeTo : Nat := 0
  wipeLo : Nat := 0
  deriving DecidableEq, Repr

/-- Debug and trace (15 R471 to R474). Each record of the queue stands behind the DROP record that precedes it, where records were lost before
it; `lostNow` counts those lost since the last one was queued. -/
structure Debug where
  halt : BitVec 8 := 0
  traceEn : Bool := false
  traceInstr : Bool := false
  traceCtx : BitVec 8 := 0
  drops : BitVec 16 := 0
  lostNow : Nat := 0
  queue : List (Option Quad × Quad) := []
  lastSync : Nat := 0
  out : Option Quad := none
  deriving DecidableEq, Repr

/-- Telemetry (15 R469). `due` are the counters of timing that work has advanced since they were counted. -/
structure Telemetry where
  freeze : Bool := false
  counts : Vector Quad 15 := Vector.replicate 15 0
  frozen : Vector Quad 16 := Vector.replicate 16 0
  due : List Nat := []
  deriving DecidableEq, Repr

/-- Identity, bring-up and global state (15 R454 to R468). -/
structure Global where
  grade : BitVec 8 := 0
  romRev : BitVec 8 := 0
  fuseRev : BitVec 8 := 0
  bitClass : BitVec 32 := 0
  dieId : Quad := 0
  super : BitVec 3 := 0
  bu : BitVec 3 := 0
  fuseBad : Bool := false
  romBad : Bool := false
  tblBad : Bool := false
  stFail : Bool := false
  buTime : BitVec 32 := 0
  quads : Nat := 0
  deriving DecidableEq, Repr

/-- The fuse bank (15 R456), which power loss keeps. (log 9: DESIGN CHOICE.) -/
structure Fuses where
  grade : BitVec 8
  bitClass : BitVec 32
  dieId : Quad
  fuseRev : BitVec 8
  retired : Quad
  spareEng : Quad
  sparePlane : Quad
  colfree : Vector Quad 2
  usedCols : List (Nat × Bool × Nat)
  deriving DecidableEq, Repr

/-- A response beat of the eddy port: 8 byte lanes and LAST (11 R381). -/
structure EddyBeat where
  data : List Byte
  last : Bool
  deriving DecidableEq, Repr

/-- An eddy response (11 R381). -/
structure EddyResp where
  id : BitVec 4
  err : Bool
  beats : List EddyBeat
  deriving DecidableEq, Repr

/-- A lease write whose clears have not finished (14 R443): the half or whole it writes, and its value in the register's bit places. -/
structure LeaseWait where
  src : Source
  id : BitVec 4
  ctx : CtxId
  kind : LeaseKind
  part : Part
  value : Quad
  deriving DecidableEq, Repr

/-- The answer of the issue port (11 R378). -/
structure IssueAns where
  answer : BitVec 2
  reason : BitVec 3
  seq : Seq
  deriving DecidableEq, Repr

/-- The block. `resp` are the eddy port's responses that have not transferred whole, the one it presents first (11 R381); `laneFree` numbers
the open contents of the lane registers of each Vat segment, which are zero where there is none (09 R293). -/
structure State where
  pending : List Instr
  powered : Bool
  inReset : Bool
  clock : Nat
  freeCtr : Nat
  ans : IssueAns
  resp : List EddyResp
  leaseWaits : List LeaseWait
  fuses : Fuses
  glob : Global
  tel : Telemetry
  dbg : Debug
  felt : Felt
  ports : Vector Port 12
  sb : Sideband
  pwr : Power
  islands : Vector Island 121
  ctxs : Vector Ctx 8
  evtPtr : Fin 9
  evtHeld : Option (Fin 9 × BitVec 3 × BitVec 2 × BitVec 16)
  evtOut : Option (BitVec 3 × BitVec 2 × BitVec 16)
  tiles : Vector Tile 512
  tileMem : Bytes
  tileOwner : Vector (Option SecDomain) 512
  regionOwner : Vector (Option SecDomain) 128
  vat : Bytes
  ram : Bytes
  lines : List Nat
  cache : Bytes
  bad : List (CtxId × Nat × Nat)
  reads : List MemRead
  xlats : List Xlat
  unacked : List Unacked
  laneFree : Vector (Option Nat) 16
  tab : Tables
  front : Front
  korni : Korni
  err : ErrLog
  st : SelfTest
  screen : Screen
  sec : Security
  deriving DecidableEq, Repr

/-- The fuse bank of the A1 part of 15 R467, with nothing retired and every redundant element free (log 9). -/
def fusesA1 : Fuses where
  grade := 2
  bitClass := 1
  dieId := 0
  fuseRev := 2
  retired := 0
  spareEng := 0
  sparePlane := 0x100
  colfree := Vector.replicate 2 0x9090909090909090
  usedCols := []

/-- An island at reset: step 31 for a managed island, 0 for the others (16 R490). -/
def islandReset (n : Nat) : Island := if n < 91 then { step := 31 } else {}

/-- The state right after reset: every register at its Reset column value (00 R14), RST_N still to be released by RESET_RELEASE.
(log 5: DESIGN CHOICE.) (log 6: DESIGN CHOICE.) (log 7: DESIGN CHOICE.) (log 10: DESIGN CHOICE.) (log 62: DESIGN CHOICE.) -/
def State.reset : State where
  pending := []
  powered := true
  inReset := true
  clock := 0
  freeCtr := 0
  ans := ⟨0, 0, 0⟩
  resp := []
  leaseWaits := []
  fuses := fusesA1
  glob := {}
  tel := {}
  dbg := {}
  felt := {}
  ports := Vector.replicate 12 {}
  sb := {}
  pwr := {}
  islands := Vector.ofFn fun i => islandReset i.val
  ctxs := Vector.replicate 8 {}
  evtPtr := 0
  evtHeld := none
  evtOut := none
  tiles := Vector.replicate 512 {}
  tileMem := []
  tileOwner := Vector.replicate 512 none
  regionOwner := Vector.replicate 128 none
  vat := []
  ram := []
  lines := []
  cache := []
  bad := []
  reads := []
  xlats := []
  unacked := []
  laneFree := Vector.replicate 16 none
  tab := {}
  front := {}
  korni := {}
  err := {}
  st := {}
  screen := {}
  sec := {}

end Sys2Proof.Machine
end

