-- ==== Sys2Proof/Machine/Ops.lean ====
section
/-! DEFINITION. Named operations over the state that every meaning shares: reading and writing contexts, tiles and tables, the
error log, events, the trace queue, telemetry, self-tests, Korni records, and what an instruction's fault and completion do to
its context. A block takes no exception: an instruction's fault (06 R197) is a next state. -/

namespace Sys2Proof.Machine

/-- The outcome type of every meaning. -/
abbrev Out := Host.Outcome State Fault Refusal

/-- The block has power and is out of reset. -/
def State.up (s : State) : Bool := s.powered && !s.inReset

/-- A command's effect, where the block has power and is out of reset; otherwise the command finds a block that takes
nothing (11 R369, R378). (log 2: DEDUCED.) -/
def whenUp (s : State) (t : State) : Out := if s.up then .next t else .next s

/-! Contexts, tiles, ports, islands. -/

def State.ctx (s : State) (c : CtxId) : Ctx := s.ctxs[c]
def State.setCtx (s : State) (c : CtxId) (x : Ctx) : State := { s with ctxs := s.ctxs.set c x }
def State.upCtx (s : State) (c : CtxId) (f : Ctx → Ctx) : State := s.setCtx c (f (s.ctx c))

/-- The context with number `n` modulo 8. -/
def ctxOf (n : Nat) : CtxId := Fin.ofNat 8 n

def State.tile (s : State) (n : Nat) : Tile := (s.tiles[n]?).getD {}
def State.setTile (s : State) (n : Nat) (t : Tile) : State := { s with tiles := s.tiles.setIfInBounds n t }
def State.upTile (s : State) (n : Nat) (f : Tile → Tile) : State := s.setTile n (f (s.tile n))

/-- The first place of a tile register in the tile store: 32 KiB a register (03 R74). -/
def tileBase (n : Nat) : Nat := n * 32768

/-- `k` bytes of tile register `n` from byte `o`. -/
def State.tileBytes (s : State) (n o k : Nat) : List Byte := bytesAt s.tileMem (tileBase n + o) k
def State.putTile (s : State) (n o : Nat) (bs : List Byte) : State :=
  { s with tileMem := putBytes s.tileMem (tileBase n + o) bs }

def State.port (s : State) (p : Fin 12) : Port := s.ports[p]
def State.upPort (s : State) (p : Fin 12) (f : Port → Port) : State := { s with ports := s.ports.set p (f s.ports[p]) }

def State.island (s : State) (n : Nat) : Island := (s.islands[n]?).getD {}
def State.upIsland (s : State) (n : Nat) (f : Island → Island) : State :=
  { s with islands := s.islands.setIfInBounds n (f (s.island n)) }

/-- Pattern register `n` of a context as 32 quads (04 R112). -/
def Ctx.pat (x : Ctx) (n : Nat) : List Quad := spRead 0 x.pats (n * 32) 32
def Ctx.setPat (x : Ctx) (n : Nat) (qs : List Quad) : Ctx := { x with pats := spWrite 0 x.pats (n * 32) qs }

/-- The security domain of a context (14 R439). -/
def Ctx.sdom (x : Ctx) : SecDomain := ⟨x.domain, x.secure⟩

/-- The supervisor context and domain (06 R184, 14 R439). -/
def State.superCtx (s : State) : CtxId := ctxOf s.glob.super.toNat
def State.superDomain (s : State) : BitVec 8 := (s.ctx s.superCtx).domain

/-- A fresh number for open contents. -/
def State.fresh (s : State) : State := { s with freeCtr := s.freeCtr + 1 }

/-- `n` bytes the spec leaves open, numbered `k`. -/
def freeBytes (k n : Nat) : List Byte := (List.range n).map (Config.freeByte k)

/-- A 16-bit or 32-bit count that saturates. -/
def satAdd {w : Nat} (v : BitVec w) (k : Nat) : BitVec w :=
  if v.toNat + k < 2 ^ w then v + BitVec.ofNat w k else BitVec.ofNat w (2 ^ w - 1)

/-! Tables (12 R405, R407). -/

/-- The value two or three copies agree on; none when all three differ. (log 44: DEDUCED.) -/
def Trip.vote (t : Trip) : Option Quad :=
  if t.a = t.b then some t.a else if t.a = t.c then some t.a else if t.b = t.c then some t.b else none

/-- The value a reader takes: the majority, or an open one where all three differ and the function that reads it halts (R405, R406; log 4).
(log 44: DEDUCED.) -/
def Trip.val (t : Trip) : Quad := t.vote.getD (Config.splitValue t.a t.b t.c)

/-- The copies disagree, two against one. -/
def Trip.minority (t : Trip) : Bool := t.vote.isSome && !(t.a == t.b && t.b == t.c)

/-- The copies after a read: a minority copy is rewritten. -/
def Trip.mend (t : Trip) : Trip :=
  match t.vote with
  | some q => .all q
  | none => t

/-- The programmable format entries 16 to 31. -/
def State.fmtProg (s : State) : List Quad := s.tab.fmt.toList.map Trip.val

/-- The programmable entries whose three copies all differ (R406). -/
def State.fmtBad (s : State) : List Nat :=
  ((List.range 16).filter fun i => ((s.tab.fmt[i]?).getD {}).vote == none).map fun i => i + 16

/-- Spare map fields (R409, R410). -/
def State.spareEng (s : State) : Quad := s.tab.spareEng.val
def State.sstate (s : State) (q : Nat) : Nat := bitsOf s.spareEng.toNat (16 * q + 1) (16 * q)
def State.sparedFor (s : State) (q : Nat) : Nat := bitsOf s.spareEng.toNat (16 * q + 5) (16 * q + 2)
def State.qlost (s : State) (q : Nat) : Bool := s.spareEng.toNat.testBit (16 * q + 6)
def State.retired (s : State) (p : Nat) : Bool := s.tab.spareRet.val.getLsbD p
def State.planeState (s : State) (p : Nat) : Nat := bitsOf s.tab.sparePlane.val.toNat (2 * p + 1) (2 * p)
def State.hostEn (s : State) : Bool := s.tab.host.val.bit 0
def State.hostRegion (s : State) : Nat := s.tab.host.val.bits 14 8
def State.hostedE (s : State) (g : Nat) : Bool := s.tab.hosted.val.getLsbD g
def State.outE (s : State) (g : Nat) : Bool := s.tab.outOf.val.getLsbD g

/-- A quad with bits `w` wide at `lo` replaced. -/
def setField (q : Quad) (lo w v : Nat) : Quad :=
  BitVec.ofNat 64 (q.toNat - bitsOf q.toNat (lo + w - 1) lo * 2 ^ lo + v % 2 ^ w * 2 ^ lo)

/-- The physical engine that stands behind logical engine `g`: its own position, its spare or its host (01 R25, 12 R398). A spare of a lost
quadrant stands in no longer (R404). -/
def State.physical (s : State) (g : Nat) : Nat :=
  let q := g / 16
  if s.qlost q = false ∧ s.sstate q = 1 ∧ s.sparedFor q = g % 16 then 64 + q
  else
    match s.st.hosts.find? fun h => h.1.val == g with
    | some h => h.2.1.val
    | none => g

/-! Telemetry (15 R469). -/

/-- Counter `n` advanced by `k`. -/
def State.tally (s : State) (n k : Nat) : State :=
  { s with tel := { s.tel with counts := s.tel.counts.setIfInBounds n ((s.tel.counts[n]?).getD 0 + BitVec.ofNat 64 k) } }

/-- Counter `n` advanced by an amount the spec leaves open: the counters of timing (log 4). (log 16: DESIGN CHOICE.) -/
def State.tallyFree (s : State) (n : Nat) : State :=
  (s.tally n (Config.freeCount n s.freeCtr).toNat).fresh

/-- Work advances some counters of timing, by amounts that the next reading of the counters takes in. (log 16: DESIGN CHOICE.) -/
def State.mark (s : State) (ns : List Nat) : State :=
  { s with tel := { s.tel with due := s.tel.due ++ ns.filter fun n => !s.tel.due.contains n } }

/-! The trace queue (15 R473, R474). -/

/-- The context's records carry no data: PRODUCTION and SECURE (R474). -/
def State.traceMask (s : State) (c : CtxId) : Bool := s.sec.lc == 2 && (s.ctx c).secure

/-- b-cycles since reset: two reference e-cycles each (00 R4, R6). -/
def State.bcycles (s : State) : Nat := s.clock / 2

/-- The b-cycles since the last SYNC record, in their field (R473). -/
def State.traceAge (s : State) : Nat := (s.bcycles - s.dbg.lastSync) % 2 ^ 24 * 2 ^ 40

/-- The DROP record (R473): the records lost since the last one was queued. (log 25: DESIGN CHOICE.) -/
def State.dropRecord (s : State) : Quad := BitVec.ofNat 64 (8 + s.dbg.lostNow % 2 ^ 16 * 2 ^ 8 + s.traceAge)

/-- Places a record in the queue of 64, behind a DROP record where records were lost before it, or drops it (R474). (log 25: DESIGN CHOICE.) -/
def State.tracePush (s : State) (q : Quad) : State :=
  if s.dbg.queue.length < 64 then
    { s with dbg := { s.dbg with queue := s.dbg.queue ++ [(if s.dbg.lostNow = 0 then none else some s.dropRecord, q)], lostNow := 0 } }
  else { s with dbg := { s.dbg with drops := satAdd s.dbg.drops 1, lostNow := s.dbg.lostNow + 1 } }

/-- A record of TYPE `typ` with its fields (R473); context records name their context. -/
def State.trace (s : State) (typ : Nat) (c : Option CtxId) (fld mid : Nat) : State :=
  if s.dbg.traceEn then
    let cn := match c with | some x => x.val | none => 0
    let masked := match c with | some x => s.traceMask x | none => false
    let data := if masked then 0 else fld % 2 ^ 16 * 2 ^ 8 + mid % 2 ^ 16 * 2 ^ 24
    s.tracePush (BitVec.ofNat 64 (typ + cn * 16 + data + s.traceAge))
  else s

/-- ACCEPT (1) and COMPLETE (2) records (R473); none for a secure context in PRODUCTION (R474). -/
def State.traceInsn (s : State) (typ : Nat) (c : CtxId) (n : Seq) (opcode : Nat) : State :=
  if s.dbg.traceInstr && s.dbg.traceCtx.getLsbD c.val && !s.traceMask c then
    s.trace typ (some c) n.toNat opcode
  else s

/-! The error log (12 R412 to R414). -/

/-- The fields of an event. (log 55: DEDUCED.) -/
structure ErrEvent where
  code : Nat
  kind : Nat
  unit : Nat
  detail : Nat
  loc : Nat
  deriving DecidableEq, Repr

/-- The LO register of an event at a time (R413). -/
def errLo (e : ErrEvent) (clock : Nat) : Quad :=
  BitVec.ofNat 64 (e.code % 256 + e.kind % 16 * 2 ^ 8 + e.unit % 256 * 2 ^ 16 + e.detail % 256 * 2 ^ 24 +
    clock / 1024 % 2 ^ 32 * 2 ^ 32)

/-- The HI register of an event with its COUNT. -/
def errHi (e : ErrEvent) (n : Nat) : Quad := BitVec.ofNat 64 (e.loc % 2 ^ 48 + n % 2 ^ 16 * 2 ^ 48)

/-- An entry records the event: CODE, KIND, UNIT and LOC agree. -/
def errSame (e : ErrEvent) (r : Quad × Quad) : Bool :=
  r.1.bits 7 0 == e.code % 256 && r.1.bits 11 8 == e.kind % 16 && r.1.bits 23 16 == e.unit % 256 &&
  r.2.bits 47 0 == e.loc % 2 ^ 48

/-- An event merged into an entry: COUNT advances, saturating. -/
def errMerge (r : Quad × Quad) : Quad × Quad :=
  (r.1, setField r.2 48 16 (if r.2.bits 63 48 = 0xFFFF then 0xFFFF else r.2.bits 63 48 + 1))

/-- Logs an event (R413). (log 26: DEDUCED.) (log 55: DEDUCED.) -/
def State.logErr (s : State) (e : ErrEvent) : State :=
  let l := s.err
  let newest := (l.head.toNat + 63) % 64
  let prev := (l.entries[newest]?).getD (0, 0)
  if l.head ≠ l.tail ∧ errSame e prev then
    { s with err := { l with entries := l.entries.setIfInBounds newest (errMerge prev) } }
  else if 64 ≤ l.head.toNat - l.tail.toNat then
    { s with err := { l with dropped := satAdd l.dropped 1 } }
  else
    let n := l.head.toNat % 64
    let evq := if l.evtEn then l.evq ++ [BitVec.ofNat 16 (n + e.code % 256 * 64)] else l.evq
    { s with err := { l with
        entries := l.entries.setIfInBounds n (errLo e s.clock, errHi e 1), head := l.head + 1, evq := evq } }.trace
      6 none n 0

/-- A corrected error counted and logged (R391, R412). -/
def State.logCorrected (s : State) (kind unit loc : Nat) : State :=
  { s with err := { s.err with corr := satAdd s.err.corr 1 } }.logErr ⟨0x01, kind, unit, 0, loc⟩

/-- An uncorrectable error counted and logged. -/
def State.logUncorrectable (s : State) (kind unit loc : Nat) : State :=
  { s with err := { s.err with uncorr := satAdd s.err.uncorr 1 } }.logErr ⟨0x02, kind, unit, 0, loc⟩

/-! Self-tests (12 R392, R395). -/

/-- KIND of a unit in the log and its number there (R412, R413). -/
def testKind : TestUnit → Nat
  | .engine _ => 0
  | .plane _ => 1
  | .macroOf _ _ => 2
  | .screen => 3
  | .cacheSlice _ => 4
def testNumber : TestUnit → Nat
  | .engine p => p.val
  | .plane p => p.val
  | .macroOf s m => 16 * s.val + m.val
  | .screen => 0
  | .cacheSlice p => p.val

/-- A unit is under test. -/
def State.testing (s : State) (u : TestUnit) : Bool := s.st.running.contains u

/-- A Vat segment serves nothing: a macro of it is under test, or it is rebuilt (R392, R402). -/
def State.segmentBusy (s : State) (seg : Nat) : Bool :=
  (s.st.running.any fun u => match u with | .macroOf g _ => g.val == seg | _ => false) ||
  s.st.rebuilds.any fun g => g.val == seg

/-- The engine behind logical engine `g` serves nothing: under test, its tiles are being copied, or, where it is hosted, some Vat segment of
its tiles' slot serves nothing (R392, R397, R398). -/
def State.engineBusy (s : State) (g : Nat) : Bool :=
  (s.st.running.any fun u => match u with | .engine p => p.val == s.physical g | _ => false) ||
  (s.st.copies.any fun k => k.1.val == g) ||
  ((s.st.hosts.any fun h => h.1.val == g) && (List.range 16).any s.segmentBusy)

/-- The row cache slice of a line serves nothing. -/
def State.sliceBusy (s : State) (line : Nat) : Bool :=
  s.st.running.any fun u => match u with | .cacheSlice p => p == Config.stackOf line | _ => false

/-- A plane is active (05 R162). -/
def State.planeActive (s : State) (p : Nat) : Bool := s.planeState p == 0

/-- Some plane carries spans (05 R164). -/
def State.anyPlane (s : State) : Bool := (List.range 5).any s.planeActive

/-- The segment of a Vat offset (01 R29), the lane sub-array of the word there (09 R292), and the macro that holds it. -/
def vatSegment (o : Nat) : Nat := o / 1024 % 16
def vatRow (o : Nat) : Nat := o / 16384
def vatSub (o : Nat) : Nat := (o % 1024 / 4 + vatRow o) % 256

/-! Korni records (10 R343 to R346). -/

/-- Bytes padded with zeros to a multiple of 16. -/
def pad16 (bs : List Byte) : List Byte := bs ++ List.replicate ((16 - bs.length % 16) % 16) 0

/-- A record's bytes (R344). -/
def korniBytes (typ c arg ord : Nat) (payload : List Byte) : List Byte :=
  let p := pad16 payload
  leBytes 8 (typ % 256 + c % 8 * 2 ^ 8 + (p.length + 16) / 16 % 2 ^ 16 * 2 ^ 16 + arg % 2 ^ 32 * 2 ^ 32) ++ leBytes 8 ord ++ p

/-- Ring size, and the bytes that stay free (R343). -/
def Korni.size (k : Korni) : Nat := 2 ^ k.log2size.toNat
def Korni.free (k : Korni) : Nat := k.tail.toNat + k.size - k.head.toNat

/-- Bytes to the end of the ring from HEAD, and whether a record of `n` bytes needs a PAD first. -/
def Korni.toEnd (k : Korni) : Nat := k.size - k.head.toNat % k.size
def Korni.cost (k : Korni) (n : Nat) : Nat := if k.toEnd < n then k.toEnd + n else n

/-- Bytes at an address, cut where a 64-byte block ends (11 R368). -/
def blockPieces (a : Nat) (bs : List Byte) : List (Nat × List Byte) :=
  (List.range ((a % 64 + bs.length + 63) / 64)).map fun i =>
    let lo := 64 * i - a % 64
    (a + lo, (bs.drop lo).take (if i = 0 then 64 - a % 64 else 64))

/-- Writes bytes at HEAD: byte count n goes to BASE + n mod the ring's size in chip memory, over the eddy path (R343; 11 R368).
(log 65: DESIGN CHOICE.) -/
def Korni.put (k : Korni) (bs : List Byte) : Korni :=
  { k with out := k.out ++ blockPieces (k.base.toNat + k.head.toNat % k.size) bs, head := k.head + BitVec.ofNat 64 bs.length }

/-- Writes a record at HEAD, after a PAD where it would straddle the end of the ring. -/
def Korni.record (k : Korni) (typ c arg : Nat) (payload : List Byte) : Korni :=
  let bs := korniBytes typ c arg k.ord.toNat payload
  let k1 := if k.toEnd < bs.length then k.put (korniBytes 0 0 0 0 (List.replicate (k.toEnd - 16) 0)) else k
  { k1.put bs with ord := k1.ord + 1 }

/-- The bytes a record of this payload takes. -/
def korniLen (payload : List Byte) : Nat := 16 + (pad16 payload).length

/-- Records are written: record mode, with no START record owed (R346; 15 R464). (log 66: DESIGN CHOICE.) -/
def State.recording (s : State) : Bool := s.korni.mode == 1 && !s.korni.startOwed

/-- The ring has room for a record; all but FRONT and EVENT records leave the reserve of 4 KiB (R346). -/
def State.korniRoom (s : State) (n : Nat) (reserve : Bool) : Bool :=
  !s.recording || decide (s.korni.cost n + (if reserve then 0 else 4096) ≤ s.korni.free)

/-- In record mode, writes a record; the room was tested before. -/
def State.korniPut (s : State) (typ c arg : Nat) (payload : List Byte) : State :=
  if s.recording then { s with korni := s.korni.record typ c arg payload } else s

/-- A record that draws on the reserve: written, or dropped with LOST when even the reserve is full (R346). -/
def State.korniEvent (s : State) (typ c arg : Nat) (payload : List Byte) : State :=
  if s.recording then
    if s.korniRoom (korniLen payload) true then s.korniPut typ c arg payload
    else { s with korni := { s.korni with lost := true, dropped := s.korni.dropped + 1 } }
  else s

/-- Quads as bytes. -/
def quadBytes (qs : List Quad) : List Byte := qs.flatMap fun q => leBytes 8 q.toNat

/-- An EVENT record (R345). -/
def State.korniEventRec (s : State) (code v : Nat) : State :=
  s.korniEvent 0x06 0 code (quadBytes [BitVec.ofNat 64 v, 0])

/-! Responses of the eddy port (11 R381). -/

/-- Beats of 8 byte lanes, LAST on the final one. -/
def beatsOf : List Byte → Nat → List EddyBeat
  | _, 0 => []
  | bs, n + 1 => ⟨bs.take 8, n == 0⟩ :: beatsOf (bs.drop 8) n

/-- The beats a command of `n` bytes at an address spans. -/
def beatCount (addr n : Nat) : Nat := (addr % 8 + n + 7) / 8

/-- The lanes of a read's beats: byte `j` of the command in its place, and open contents, numbered `k`, in the lanes outside its range and
in every lane of an error response. (log 59: DEDUCED.) -/
def readLanes (k addr n : Nat) (bs : List Byte) : List Byte :=
  (List.range (8 * beatCount addr n)).map fun i =>
    if addr % 8 ≤ i ∧ i < addr % 8 + bs.length then bs.getD (i - addr % 8) 0 else Config.freeByte k i

/-- A response waits behind those that have not transferred (R357, R369). -/
def State.respond (s : State) (r : EddyResp) : State := { s with resp := s.resp ++ [r] }

/-- The response to a read of `n` bytes at an address; an error response carries no byte of it (R381). (log 59: DEDUCED.) -/
def State.respondRead (s : State) (id : BitVec 4) (err : Bool) (addr n : Nat) (bs : List Byte) : State :=
  s.fresh.respond ⟨id, err, beatsOf (readLanes s.freeCtr addr n (if err then [] else bs)) (beatCount addr n)⟩

/-- The one beat of a response to a write, with DATA zero (R381). -/
def ackBeat : List EddyBeat := [⟨List.replicate 8 0, true⟩]

/-- The response to a write. -/
def State.respondWrite (s : State) (id : BitVec 4) (err : Bool) : State := s.respond ⟨id, err, ackBeat⟩

/-- The answer to a register write: an eddy response for an eddy source, nothing for a sequencer. -/
def State.answer (s : State) (src : Source) (id : BitVec 4) (err : Bool) : State :=
  match src with
  | .eddy _ => s.respondWrite id err
  | .sequencer _ => s

/-! Entries of a window. -/

/-- The entry with sequence number `n`. -/
def Ctx.entry (x : Ctx) (n : Seq) : Option Entry := x.window.find? fun e => e.seq == n

/-- Replaces the entry of the same sequence number. -/
def setEntry (e : Entry) : List Entry → List Entry
  | [] => []
  | x :: r => if x.seq = e.seq then e :: r else x :: setEntry e r

def State.putEntry (s : State) (c : CtxId) (e : Entry) : State :=
  s.upCtx c fun x => { x with window := setEntry e x.window }

/-- What the protection of the stores has reported of what an instruction reads as it begins, and no read has met yet (12 R391). -/
def State.hitOf (s : State) (c : CtxId) (n : Seq) : Detect :=
  match (s.ctx c).entry n with
  | some e => e.hit
  | none => .clean

/-- The report has been met, or concerns none of the reads. -/
def State.dropHit (s : State) (c : CtxId) (n : Seq) : State :=
  s.upCtx c fun x => { x with window := x.window.map fun e => if e.seq = n then { e with hit := .clean } else e }

/-- The entry has ended: completed, faulted or cancelled. -/
def Phase.ended : Phase → Bool
  | .completed | .faulted | .cancelled => true
  | _ => false

/-- Entries before the one with sequence number `n`, in order of acceptance. -/
def Ctx.earlier (x : Ctx) (n : Seq) : List Entry := x.window.takeWhile fun e => e.seq != n

/-- Removes the completed entries at the front of the window, with the last one's sequence number (06 R182, R190). -/
def dropCompleted (last : Seq) : List Entry → Seq × List Entry
  | [] => (last, [])
  | e :: r => if e.phase = .completed then dropCompleted e.seq r else (last, e :: r)

/-- What follows when instructions have completed: RETIRED, and the context's state in RUN (06 R178, R182, R188, R190). -/
def Ctx.settle (x : Ctx) : Ctx :=
  let d := dropCompleted x.retired x.window
  let x := { x with retired := d.1, window := d.2 }
  if x.st = .run ∧ x.window = [] then
    if x.halting then { x with st := .halted, halting := false, fetching := false }
    else if x.fetching then x else { x with st := .idle }
  else x

/-- Cancels an entry that has written nothing (06 R197). -/
def Entry.cancel (e : Entry) : Entry :=
  if e.phase.ended ∨ e.wrote then e else { e with phase := .cancelled, granted := false }

/-- Cancels the entries after the one with sequence number `n`. -/
def cancelAfter (n : Seq) : List Entry → List Entry
  | [] => []
  | e :: r => if e.seq = n then e :: r.map Entry.cancel else e :: cancelAfter n r

/-- A Screen instruction or a long GATH or SCAT gives back what it was granted (08 R263, R264). -/
def State.ungrant (s : State) (c : CtxId) (n : Seq) : State :=
  { s with screen := { s.screen with
      owner := if s.screen.owner = some (c, n) then none else s.screen.owner
      paths := s.screen.paths.filter fun p => p != (c, n) } }

/-- The marker of a request whose access has been given up: its response still finds it, and nothing else does. -/
def goneAccess : Nat := 65539

/-- What some accesses hold at the boundary is given up: their translations, and what an uncorrectable line has left for them (11 R374,
R375). -/
def State.dropWhere (s : State) (gone : CtxId → Nat → Bool) : State :=
  { s with
    xlats := (s.xlats.filter fun t => !(gone t.ctx t.who && t.ans.isSome)).map fun t =>
      if gone t.ctx t.who then { t with who := goneAccess } else t
    bad := s.bad.filter fun b => !gone b.1 b.2.1 }

/-- The translations of an instruction's access are given up (11 R375). -/
def State.dropXlats (s : State) (c : CtxId) (who : Nat) : State := s.dropWhere fun d w => d == c && w == who

/-- The instruction numbered `who` has begun, or may begin. -/
def Ctx.atWork (x : Ctx) (who : Nat) : Bool := x.window.any fun e => e.seq.toNat == who && (e.phase == .ready || e.phase == .active)

/-- What a context's instructions that are not at work hold is given back: translations, marks, the sorter and the address path. -/
def State.tidy (s : State) (c : CtxId) : State :=
  let s1 := s.dropWhere fun d w => d == c && decide (w < 65536) && !(s.ctx c).atWork w
  let idle (o : CtxId × Seq) : Bool := o.1 == c && !(s.ctx c).atWork o.2.toNat
  { s1 with screen := { s1.screen with
      owner := match s1.screen.owner with | some o => if idle o then none else some o | none => none
      paths := s1.screen.paths.filter fun o => !idle o } }

/-- An instruction faults with completed count `k`: its context drains, later instructions that have written nothing are
cancelled, and none of these holds anything further (06 R197; 08 R263, R264). An UPD leaves SEALED clear (07 R245). -/
def State.faultEntry (s : State) (c : CtxId) (e : Entry) (k : Nat) (f : FaultRec) : State :=
  let e' := { e with phase := .faulted, fault := some (k, f), granted := false }
  (s.upCtx c fun x =>
    { x with
      st := if x.st = .run then .draining else x.st
      sealedGen := x.sealedGen && e.insn.op != some .upd
      window := cancelAfter e.seq (setEntry e' x.window) }).tidy c

/-- A fetch or an acceptance stops the context (06 R186, R187): nothing is accepted, and the drain follows. -/
def State.faultFetch (s : State) (c : CtxId) (f : FaultRec) : State :=
  (s.upCtx c fun x => { x with st := .draining, fetchFault := some f }).dropXlats c 65536

/-- Bits of CK_CTX_DONE after a fault of sequence number `n` (06 R199). -/
def doneOf (w : List Entry) (n : Seq) : BitVec 31 :=
  BitVec.ofNat 31 ((List.range 31).foldl
    (fun a i => if w.any fun e => e.seq == n + 1 + BitVec.ofNat 16 i && e.phase == .completed then a + 2 ^ i else a) 0)

/-- A fault event enters the context's fault slot; one that has not left is replaced, with bit 8 set (11 R380). -/
def Ctx.faultEvent (x : Ctx) (code : BitVec 8) : Ctx :=
  let held := x.events.any fun v => match v with | .fault _ => true | _ => false
  let rest := x.events.filter fun v => match v with | .fault _ => false | _ => true
  { x with events := rest ++ [.fault (BitVec.ofNat 16 (code.toNat + if held then 256 else 0))] }

/-- The number of fence events waiting. -/
def Ctx.fenceEvents (x : Ctx) : Nat := (x.events.filter fun v => match v with | .fence _ => true | _ => false).length

/-- Writes the fault record (06 R198, R199; 16 R482). -/
def Ctx.record (x : Ctx) (n : Seq) (k : Nat) (f : FaultRec) (other : Bool) (at_ : BitVec 48) : Ctx :=
  { x with code := f.code, valid := true, drained := other, fseq := n, count := BitVec.ofNat 32 k, finfo := f.finfo,
           doneBits := doneOf x.window n, fpc := if x.prog then at_ else 0 }

/-- What ends with a drain in DISABLED, or with ABORT: the window is discarded and RETIRED takes ACCEPTED; in program mode the
program counter goes back to the fault (06 R178, R202). A BR that waits for its resolution is dropped, with the program counter still at
it. (log 50: DEDUCED.) -/
def Ctx.discard (x : Ctx) (toFault : Bool) : Ctx :=
  { x with window := [], retired := x.accepted, fetching := false, halting := false, brWait := none, fetchFault := none,
           pc := if x.prog && toFault then x.fpc else x.pc }

end Sys2Proof.Machine
end

