-- ==== Sys2Proof/Machine/Access.lean ====
section
/-! DEFINITION. An instruction's accesses to the Vat and to chip memory: where an operand byte lies and what faults there
(06 R495; 03 R98; 14 R446, R453; 12 R399), translation and the row cache (01 R32; 11 R373 to R375), and writes with their
acknowledgement (11 R358). An access to chip memory waits until its translation and its lines have come. -/

namespace Sys2Proof.Machine

/-- The address lies in the Vat (01 R29, 11 R350). -/
def inVat (a : Int) : Bool := decide (0x40000000 ≤ a ∧ a < 0x48000000)

/-- The address lies in chip memory (11 R350). -/
def inChip (a : Int) : Bool := decide (0x100000000 ≤ a ∧ a < 0x1000000000000)

/-- The Vat offset of an address. -/
def vatOffset (a : Int) : Nat := (a - 0x40000000).toNat

/-- Consecutive operand bytes. `vat` says that the operand's base lies in the Vat (R495). -/
structure Run where
  addr : Int
  len : Nat
  vat : Bool
  deriving DecidableEq, Repr

/-- `n` bytes at `a` of an operand whose base is `base`. -/
def runAt (base : Int) (a : Int) (n : Nat) : Run := ⟨a, n, inVat base⟩

/-- An operand of `n` bytes at its base. -/
def run (a : Nat) (n : Nat) : Run := runAt a a n

/-- The size of the secure region in MiB: 0 in RETIRED (14 R446, R448, R449). (log 39: DEDUCED.) -/
def State.secureSize (s : State) : Nat := if s.sec.lc = 3 then 0 else s.sec.ssize.toNat

/-- The copies of CK_HOST all differ: where the hosting reserve lies is not known (12 R406). -/
def State.hostBad (s : State) : Bool := s.tab.host.vote.isNone

/-- A Vat region lies in the hosting reserve in force (12 R399). (log 56: DEDUCED.) -/
def State.reserved (s : State) (r : Nat) : Bool := !s.hostBad && s.hostEn && decide (s.hostRegion ≤ r ∧ r < s.hostRegion + 4)

/-- The fault code of one operand byte of context `c`, if its place faults (R98, R446, R453, R495). (log 31: DESIGN CHOICE.) -/
def State.placeFault (s : State) (c : CtxId) (vat : Bool) (a : Int) : Option Nat :=
  if inVat a then
    let r := vatOffset a / 0x100000
    if !(s.ctx c).vlease.getLsbD r || s.reserved r then some 0x08
    else if r < s.secureSize ∧ (!(s.ctx c).secure ∨ s.sec.closed) then some 0x09
    else none
  else if vat then some 0x08
  else if inChip a then none
  else some 0x03

/-- CK_CTX_FINFO of a fault at an address (R199). (log 31: DESIGN CHOICE.) -/
def addrInfo (code : Nat) (a : Int) : Quad :=
  if code = 3 then (if a < 0 ∨ 0x1000000000000 ≤ a then 0x0001FFFFFFFFFFFF else BitVec.ofNat 64 a.toNat)
  else if a < 0 ∨ 0x1000000000000 ≤ a then (Config.farInfo a).setWidth 64
  else BitVec.ofNat 64 a.toNat

/-- The lower of two faulting addresses. -/
def lowerFault : Option (Int × Nat) → Option (Int × Nat) → Option (Int × Nat)
  | none, y => y
  | x, none => x
  | some x, some y => if x.1 ≤ y.1 then some x else some y

/-- The lowest byte of a run that faults with a code that `counts` admits, with its code. -/
def State.runFault (s : State) (c : CtxId) (counts : Nat → Bool) (r : Run) : Option (Int × Nat) :=
  (List.range r.len).findSome? fun (i : Nat) =>
    (s.placeFault c r.vat (r.addr + (i : Int))).bind fun k => if counts k then some (r.addr + (i : Int), k) else none

/-- The lowest byte of an access that faults with a code that `counts` admits. -/
def State.lowestOf (s : State) (c : CtxId) (counts : Nat → Bool) (rs : List Run) : Option (Int × Nat) :=
  rs.foldl (fun a r => lowerFault a (s.runFault c counts r)) none

/-- The lowest faulting address of an access, with its code. The lease checks come before those of the secure region: where a byte lies
outside the Vat lease, SECURE_VIOLATION is not reported (14 R446; 08 R272). (log 31: DESIGN CHOICE.) -/
def State.lowestFault (s : State) (c : CtxId) (rs : List Run) : Option (Int × Nat) :=
  s.lowestOf c (fun k => k != 9 || (s.lowestOf c (· == 8) rs).isNone) rs

/-- An address fault as a fault record. -/
def addrFault (p : Int × Nat) : FaultRec := ⟨BitVec.ofNat 8 p.2, addrInfo p.2 p.1⟩

/-! Translation. -/

/-- The virtual pages of a run of chip memory. -/
def Run.pages (r : Run) : List Nat :=
  if r.len = 0 ∨ inVat r.addr then []
  else
    let a := r.addr.toNat
    (List.range ((a + r.len - 1) / 4096 + 1 - a / 4096)).map fun i => a / 4096 + i

/-- The pages of an access. -/
def pagesOf (rs : List Run) : List Nat := (rs.flatMap Run.pages).eraseDups

/-- The translation asked for an access, if any. -/
def State.xlat? (s : State) (c : CtxId) (who : Nat) (w : Bool) (page : Nat) : Option Xlat :=
  s.xlats.find? fun t => t.ctx == c && t.who == who && t.write == w && t.page == page

/-- The lowest TTAG with no request outstanding on a port's translation channel (R373). -/
def State.freeTtag (s : State) (p : Fin 16) : Option (BitVec 6) :=
  ((List.range 64).map (BitVec.ofNat 6)).find? fun t => !s.xlats.any fun x => x.port == p && x.ttag == t && x.ans.isNone

/-- Asks for a translation not yet asked for; waits for a free TTAG. -/
def State.askXlat (s : State) (c : CtxId) (who : Nat) (w : Bool) (page : Nat) : State :=
  match s.xlat? c who w page with
  | some _ => s
  | none =>
    match s.freeTtag (Config.xlatPort page) with
    | none => s
    | some t => { s with xlats := s.xlats ++ [⟨Config.xlatPort page, t, c, (s.ctx c).domain, who, page, w, none⟩] }

/-- The answer for a page, if it has come. -/
def State.xlatAns (s : State) (c : CtxId) (who : Nat) (w : Bool) (page : Nat) : Option XlatAns :=
  (s.xlat? c who w page).bind Xlat.ans

/-- The physical address of a virtual address of chip memory whose translation has come. -/
def State.physAddr (s : State) (c : CtxId) (who : Nat) (w : Bool) (a : Nat) : Nat :=
  match s.xlatAns c who w (a / 4096) with
  | some t => t.pa.toNat * 4096 + a % 4096
  | none => 0

/-- The lowest address of a run whose translation failed, or which may not be written (R374). -/
def State.runRowFault (s : State) (c : CtxId) (who : Nat) (w : Bool) (r : Run) : Option (Int × Nat) :=
  let bad := r.pages.find? fun p =>
    match s.xlatAns c who w p with
    | some t => t.fault || (w && !t.wperm)
    | none => false
  bad.map fun p => (max r.addr ((p * 4096 : Nat) : Int), 3)

/-- The lowest ROW_FAULT of an access. -/
def State.rowFault (s : State) (c : CtxId) (who : Nat) (w : Bool) (rs : List Run) : Option (Int × Nat) :=
  rs.foldl (fun a r => lowerFault a (s.runRowFault c who w r)) none

/-! Units an access needs. -/

/-- The Vat segments a run lies in (R29). -/
def Run.segments (r : Run) : List Nat :=
  if r.len = 0 ∨ !inVat r.addr then []
  else
    let o := vatOffset r.addr
    (List.range (min 16 ((o + r.len - 1) / 1024 + 1 - o / 1024))).map fun i => (o / 1024 + i) % 16

/-- The spare map registers of a segment disagree in all three copies (12 R406). -/
def State.colmapBad (s : State) (seg : Nat) : Bool :=
  (List.range 8).any fun i => ((s.tab.colmap[8 * seg + i]?).getD {}).vote == none

/-- A Vat access in a segment needs a spare map register that disagrees in all three copies: one of the segment's columns, or CK_HOST, which
describes the reserve in all of the Vat (12 R406). (log 44: DEDUCED.) -/
def State.vatMapBad (s : State) (seg : Nat) : Bool := s.hostBad || s.colmapBad seg

/-- Some segment of a run serves nothing (R392, R402). -/
def Run.vatBusy (s : State) (r : Run) : Bool := r.segments.any s.segmentBusy

/-- The first address of a run where a spare map register that describes the Vat there disagrees. -/
def State.mapFault (s : State) (r : Run) : Option Int :=
  if !s.hostBad && s.tab.colmap.toList.all fun t => t.vote.isSome then none
  else
    (List.range r.len).findSome? fun (i : Nat) =>
      let a := r.addr + (i : Int)
      if inVat a && s.vatMapBad (vatSegment (vatOffset a)) then some a else none

/-- CK_CTX_FINFO of UNCORRECTABLE (12 R396). -/
def uncorrInfo (wh unit loc : Nat) : Quad := BitVec.ofNat 64 (wh % 8 + unit % 128 * 8 + loc % 2 ^ 48 * 2 ^ 16)

/-- UNCORRECTABLE. -/
def uncorrectable (wh unit loc : Nat) : FaultRec := ⟨0x0A, uncorrInfo wh unit loc⟩

/-! The masters of Felt (11 R354, R357). -/

/-- The instruction needs the Screen: the sorter, or the address path for a long list (08 R263, R264, R283). -/
def Insn.needsScreen (i : Insn) : Bool :=
  match i.op with
  | some .sort => true
  | some .disp => true
  | some .comb => true
  | some .gath => decide (64 < i.deckle.rows)
  | some .scat => decide (64 < i.deckle.rows)
  | _ => false

/-- The identifiers of a master (R354): as many transactions of it are outstanding at most (R357). -/
def identifiers (m : Nat) : Nat :=
  if m < 68 then 6 else if m = 68 then 32 else if m < 71 then 64 else if m = 71 then 16 else 4

/-- The Felt master that moves the words of an instruction of context `c`: the engine of its tile, the Screen, a streamer, or the context's
sequencer (01 R34; 09 R295; 11 R354). (log 75: DESIGN CHOICE.) -/
def Insn.master (i : Insn) (c : CtxId) : Nat :=
  match i.op with
  | none => 72 + c.val
  | some o =>
    if i.needsScreen then 68
    else
      match o with
      | .setpat | .setfmt | .fence | .loop | .br | .halt | .trel | .commit | .front => 72 + c.val
      | .tst | .vst | .scat => i.ta / 8
      | .tsave | .trestore | .sperm | .vop | .amax | .upd | .wmark => 69
      | _ => i.td / 8

/-- What carries the writes of a unit: a Felt master, and the segment whose own port takes those that lie in it (09 R295). -/
structure Carrier where
  master : Nat
  own : Option Nat := none
  deriving DecidableEq, Repr

/-- The carrier of an instruction's writes. -/
def Insn.carrier (i : Insn) (c : CtxId) : Carrier := { master := i.master c }

/-- The carrier of what the lanes of segment `g` write: streamer `g` mod 2, and the segment's own port (09 R294, R295). -/
def laneCarrier (g : Nat) : Carrier := { master := 69 + g % 2, own := some g }

/-- The master of a Vat write with these runs: none where the segment's own port takes all of it. -/
def Carrier.forVat (k : Carrier) (rs : List Run) : Option Nat :=
  match k.own with
  | some g => if rs.all fun r => r.segments.all (· == g) then none else some k.master
  | none => some k.master

/-- The master that an access works for: a fetch is its sequencer's. -/
def State.masterOf (s : State) (c : CtxId) (who : Nat) : Option Nat :=
  if who = 65536 then some (72 + c.val)
  else ((s.ctx c).window.find? fun e => e.seq.toNat == who).map fun e => e.insn.master c

/-- The reads of a master that wait for their lines. -/
def State.readsBy (s : State) (m : Nat) : Nat :=
  (((s.reads.filter fun r => !r.stale).flatMap MemRead.wants).filter fun a => s.masterOf a.1 a.2 == some m).length

/-- A master has an identifier free (R357). -/
def State.idFree (s : State) (m : Option Nat) : Bool :=
  match m with
  | some k => decide ((s.unacked.filter fun u => u.master == some k).length + s.readsBy k < identifiers k)
  | none => true

/-- The write that stands in place `i` is outstanding: fewer of its master's stand before it than the master has identifiers left (R357).
The others wait for an identifier. (log 75: DESIGN CHOICE.) -/
def State.isOut (s : State) (i : Nat) (u : Unacked) : Bool :=
  match u.master with
  | some k => decide (((s.unacked.take i).filter fun v => v.master == some k).length + s.readsBy k < identifiers k)
  | none => true

/-- The unacknowledged writes, each with whether it is outstanding. -/
def State.marked (s : State) : List (Bool × Unacked) := s.unacked.zipIdx.map fun p => (s.isOut p.2 p.1, p.1)

/-- The writes that are outstanding (R357). -/
def State.outWrites (s : State) : List Unacked := (s.marked.filter Prod.fst).map Prod.snd

/-! The row cache. -/

/-- The lines of a run of translated chip memory: (lowest address of the run in it, physical line). -/
def State.runLines (s : State) (c : CtxId) (who : Nat) (w : Bool) (r : Run) : List (Nat × Nat) :=
  if r.len = 0 ∨ inVat r.addr then []
  else
    let a := r.addr.toNat
    (List.range ((a + r.len - 1) / 256 + 1 - a / 256)).map fun i =>
      let v := max a ((a / 256 + i) * 256)
      (v, s.physAddr c who w v / 256)

/-- The lines of an access. -/
def State.linesOf (s : State) (c : CtxId) (who : Nat) (w : Bool) (rs : List Run) : List (Nat × Nat) :=
  rs.flatMap (s.runLines c who w)

/-- The write request of a write that has gone to a memory port. -/
def WriteTo.request : WriteTo → Option MemWrite
  | .memory w => some w
  | _ => none

/-- The write requests that no port has acknowledged: of instructions, of the Korni ring and of the front record (R373, R375). -/
def State.requests (s : State) : List MemWrite :=
  (s.unacked.filterMap fun u => u.tgt.request) ++ s.korni.sent ++ s.front.sent.toList

/-- The tags of the reads and writes outstanding on a port (R373). -/
def State.tagsOf (s : State) (p : Fin 16) : List (BitVec 8) :=
  (s.reads.filter fun r => r.port == p).map MemRead.tag ++ (s.requests.filter fun w => w.port == p).filterMap MemWrite.tag

/-- The lowest TAG with no request outstanding on a port (R373). -/
def State.freeTag (s : State) (p : Fin 16) : Option (BitVec 8) :=
  ((List.range 256).map (BitVec.ofNat 8)).find? fun t => !(s.tagsOf p).contains t

/-- The bytes of a line that writes of the block on their way to memory hold (R375): a read of the line finds them. -/
def State.newerCells (s : State) (line : Nat) : List (Nat × Byte) :=
  ((s.unacked.filterMap fun u => u.tgt.request) ++ s.korni.sent).flatMap fun w => if w.line = line then w.cells else []

/-- A read request of the line on its way, with the access that waits for it added to those that do. -/
def MemRead.wanted (r : MemRead) (a : CtxId × Nat) : MemRead := if r.wants.contains a then r else { r with wants := r.wants ++ [a] }

/-- An access asks for a line that is neither held nor marked for it, once its master has an identifier free (R357); it joins a request that is
on its way. A request carries one line. (log 11: DESIGN CHOICE.) (log 75: DESIGN CHOICE.) -/
def State.askLine (s : State) (c : CtxId) (who line : Nat) : State :=
  if s.lines.contains line || s.bad.contains (c, who, line) || !s.idFree (s.masterOf c who) then s
  else if s.reads.any (fun r => r.line == line && !r.stale) then
    { s with reads := s.reads.map fun r => if r.line == line && !r.stale then r.wanted (c, who) else r }
  else
    match s.freeTag (Config.stackOf line) with
    | none => s
    | some t =>
      { s with reads := s.reads ++ [{ port := Config.stackOf line, tag := t, line := line, wants := [(c, who)], newer := s.newerCells line }] }

/-- Demand reads of the row cache have been made, as hits or as misses (15 R469). (log 16: DESIGN CHOICE.) -/
def State.demand (s : State) (c : CtxId) (who : Nat) (rs : List Run) : State :=
  if (s.linesOf c who false rs).isEmpty then s else s.mark [9, 10]

/-- What an access meets: it may proceed, it waits, or it faults. -/
inductive Reach where
  | ok (s : State)
  | wait (s : State)
  | fault (f : FaultRec) (s : State)
  deriving DecidableEq, Repr

/-- The bytes of a run below an address. -/
def Run.below (r : Run) (a : Int) : Run := { r with len := min r.len (a - r.addr).toNat }

/-- The parts of an access whose translation can decide its fault: all of it, or what lies below a misplaced byte (R96, R199). -/
def decisive (p : Option (Int × Nat)) (rs : List Run) : List Run :=
  match p with
  | some f => rs.map fun r => r.below f.1
  | none => rs

/-- An access gets as far as its translations (R95, R98, R495). The places of its bytes are judged first; where one faults, only the pages
below it are translated, and the lowest failing address of both tests faults (R96, R199). No page or line is fetched ahead of the access
that demands it: 01 R33 lets the block fetch ahead and gives that no effect but on time. (log 11: DESIGN CHOICE.) (log 31: DESIGN
CHOICE.) -/
def State.reach (s : State) (c : CtxId) (who : Nat) (w : Bool) (rs : List Run) : Reach :=
  let p := s.lowestFault c rs
  let pages := pagesOf (decisive p rs)
  let s1 := pages.foldl (fun s p => s.askXlat c who w p) s
  if pages.any fun p => (s1.xlatAns c who w p).isNone then .wait s1
  else
    match lowerFault p (s1.rowFault c who w (decisive p rs)) with
    | some p => .fault (addrFault p) s1
    | none =>
      match rs.findSome? s1.mapFault with
      | some a => .fault (uncorrectable 1 (vatSegment (vatOffset a)) a.toNat) s1
      | none =>
        let ls := s1.linesOf c who w rs
        if rs.any (Run.vatBusy s1) || ls.any (fun l => s1.sliceBusy l.2) then .wait s1
        else .ok s1

/-- The reads and the writes of one unit judged together: a place that faults, or a translation that fails, of any of them faults the unit,
at the lowest failing address (R96, R199; 09 R304; 14 R446). (log 31: DESIGN CHOICE.) -/
def State.judge (s : State) (c : CtxId) (who : Nat) (rs ws : List Run) : Reach :=
  let p := s.lowestFault c (rs ++ ws)
  let rp := pagesOf (decisive p rs)
  let wp := pagesOf (decisive p ws)
  let s1 := wp.foldl (fun s p => s.askXlat c who true p) (rp.foldl (fun s p => s.askXlat c who false p) s)
  if (rp.any fun p => (s1.xlatAns c who false p).isNone) || wp.any (fun p => (s1.xlatAns c who true p).isNone) then .wait s1
  else
    match lowerFault p (lowerFault (s1.rowFault c who false (decisive p rs)) (s1.rowFault c who true (decisive p ws))) with
    | some p => .fault (addrFault p) s1
    | none => .ok s1

/-- The lowest of some lines, by the lowest address of the access in it. -/
def lowestLine (ls : List (Nat × Nat)) : Option (Nat × Nat) :=
  ls.foldl (fun a l => match a with
    | none => some l
    | some b => if l.1 < b.1 then some l else some b) none

/-- A read: as `reach`, and every line of it is held (R374, R391). A line that came back uncorrectable for this access faults it; a later
access fetches the line again. -/
def State.reachRead (s : State) (c : CtxId) (who : Nat) (rs : List Run) : Reach :=
  match s.reach c who false rs with
  | .ok s1 =>
    let ls := s1.linesOf c who false rs
    match lowestLine (ls.filter fun l => s1.bad.contains (c, who, l.2)) with
    | some l => .fault (uncorrectable 3 (Config.stackOf l.2).val l.1) (s1.dropXlats c who)
    | none =>
      let s2 := ls.foldl (fun s l => s.askLine c who l.2) s1
      if ls.any fun l => !s2.lines.contains l.2 then .wait s2 else .ok s2
  | r => r

/-- The bytes of a run whose read may proceed. -/
def State.runBytes (s : State) (c : CtxId) (who : Nat) (r : Run) : List Byte :=
  if inVat r.addr then bytesAt s.vat (vatOffset r.addr) r.len
  else (List.range r.len).map fun i => byteAt s.cache (s.physAddr c who false (r.addr.toNat + i))

/-- Every byte of an access, run by run. -/
def State.readBytes (s : State) (c : CtxId) (who : Nat) (rs : List Run) : List Byte := rs.flatMap (s.runBytes c who)

/-- The physical cells a write to chip memory changes. -/
def State.cellsOf (s : State) (c : CtxId) (who : Nat) (r : Run) (bs : List Byte) : List (Nat × Byte) :=
  (List.range r.len).map fun i => (s.physAddr c who true (r.addr.toNat + i), bs.getD i 0)

/-- The block's writes update the lines that hold their bytes, and reads of those lines that are on their way (R375, R391). -/
def State.putCells (s : State) (cells : List (Nat × Byte)) : State :=
  { s with
    cache := cells.foldl (fun m p => if s.lines.contains (p.1 / 256) then putByte m p.1 p.2 else m) s.cache
    reads := s.reads.map fun r =>
      { r with newer := r.newer ++ cells.filter fun p => p.1 / 256 == r.line } }

/-- One piece of a write that may proceed. -/
def State.storeRun (s : State) (c : CtxId) (who : Nat) (p : Run × List Byte) : State :=
  if inVat p.1.addr then { s with vat := putBytes s.vat (vatOffset p.1.addr) (p.2.take p.1.len) }
  else s.putCells (s.cellsOf c who p.1 p.2)

/-- A write request to one physical line, a transaction of its master: with an identifier free it goes out on the lowest free TAG of its port
(R357, R373), and otherwise it waits in front of the port. (log 11: DESIGN CHOICE.) -/
def State.addWrite (s : State) (m : Option Nat) (c : CtxId) (n : Seq) (cells : List (Nat × Byte)) (line : Nat) : State :=
  let p := Config.stackOf line
  let tag := if s.idFree m then s.freeTag p else none
  { s with unacked := s.unacked ++ [⟨c, n, .memory ⟨p, tag, line, cells.filter fun x => x.1 / 256 == line⟩, m⟩] }

/-- The first outstanding write request that waits in front of a port goes out on a TAG. -/
def sendFirst (p : Fin 16) (t : BitVec 8) : List (Bool × Unacked) → List Unacked
  | [] => []
  | (out, u) :: r =>
    match u.tgt with
    | .memory w =>
      if out = true ∧ w.port = p ∧ w.tag = none then { u with tgt := .memory { w with tag := some t } } :: r.map Prod.snd
      else u :: sendFirst p t r
    | _ => u :: sendFirst p t r

/-- The next outstanding request that waits in front of a port goes out on the TAG that is free (R357, R373). -/
def State.sendNext (s : State) (p : Fin 16) : State :=
  match s.freeTag p with
  | some t => { s with unacked := sendFirst p t s.marked }
  | none => s

/-- An identifier or a TAG has become free: at every port the next request goes out that can (R357, R373). -/
def State.sendAll (s : State) : State := (List.finRange 16).foldl State.sendNext s

/-- A write of the block's own, `bs` at a physical address within one line, as a request on the lowest free TAG of its port; none while no
TAG is free, the line's slice serves nothing, or the four identifiers of the eddy path's internal writes are taken (R357, R368, R373,
R375; 12 R392). (log 75: DESIGN CHOICE.) -/
def State.ownWrite (s : State) (a : Nat) (bs : List Byte) : Option MemWrite :=
  if s.sliceBusy (a / 256) || decide (4 ≤ s.korni.sent.length + s.front.sent.toList.length) then none
  else (s.freeTag (Config.stackOf (a / 256))).map fun t =>
    ⟨Config.stackOf (a / 256), some t, a / 256, (List.range bs.length).map fun i => (a + i, bs.getD i 0)⟩

/-- The writes of one unit, carried by `k`: the bytes, and the writes its targets still have to acknowledge: one for the Vat, and one for each
line of chip memory (R358, R373). The unit's bytes are stored at one point, so where units of two contexts compete for the same bytes every 32-byte
group of 01 R36 holds those of the unit that came last. (log 14: DEDUCED.) -/
def State.store (s : State) (k : Carrier) (c : CtxId) (n : Seq) (ps : List (Run × List Byte)) : State :=
  let who := n.toNat
  let ps := ps.filter fun p => p.1.len != 0
  let vats := ps.filter fun p => inVat p.1.addr
  let chips := ps.filter fun p => !inVat p.1.addr
  let s1 := ps.foldl (fun s p => s.storeRun c who p) s
  let u1 := if vats.isEmpty then [] else [⟨c, n, .vat, k.forVat (vats.map Prod.fst)⟩]
  let cells := chips.flatMap fun p => s.cellsOf c who p.1 p.2
  let s2 := { s1.tally 11 cells.length with unacked := s1.unacked ++ u1 }
  (cells.map fun x => x.1 / 256).eraseDups.foldl (fun s l => s.addWrite (some k.master) c n cells l) s2

end Sys2Proof.Machine
end

