-- ==== Sys2Proof/Machine/Clock.lean ====
section
/-! DEFINITION. The clock, and what the block does at a rising b-clock edge by itself: the issue port's answer goes (11 R378), the event
channel presents an event (R369, R380), the stream and race ports raise VALID, and
the Korni ring and the front record go to chip memory (10 R331, R343; 11 R368, R375). -/

namespace Sys2Proof.Machine

/-- The clock stands at `t`. ANS is 0b00 in a b-cycle without an issue (11 R378). -/
def State.setClock (s : State) (t : Nat) : State := { s with clock := t, ans := if t / 2 = s.clock / 2 then s.ans else ⟨0, 0, 0⟩ }

/-- The clock moves on to a moment that has been fixed. (log 3: DEDUCED.) -/
def State.moveTo (s : State) (t : Nat) : State := if s.clock < t then s.setClock t else s

/-- The next multiple of `k` after the present moment. (log 3: DEDUCED.) -/
def State.nextAt (s : State) (k : Nat) : Nat := (s.clock / k + 1) * k

/-! The event channel (11 R369, R380). -/

/-- The event that a source has waiting: the events of C0 to C7, then the error log's. -/
def State.eventOf (s : State) (k : Nat) : Option (BitVec 3 × BitVec 2 × BitVec 16) :=
  if k < 8 then
    (s.ctx (ctxOf k)).events.head?.map fun v =>
      match v with
      | .fence t => (BitVec.ofNat 3 k, 2, t)
      | .fault t => (BitVec.ofNat 3 k, 1, t)
  else s.err.evq.head?.map fun t => (0, 3, t)

/-- The event of a source leaves its queue. (log 26: DEDUCED.) -/
def State.popEvent (s : State) (k : Nat) : State :=
  if k < 8 then s.upCtx (ctxOf k) fun x => { x with events := x.events.tail }
  else { s with err := { s.err with evq := s.err.evq.tail } }

/-- The first source with an event waiting, at or after the pointer. -/
def State.eventSource (s : State) : Option Nat := ((List.range 9).map fun i => (s.evtPtr.val + i) % 9).find? fun k => (s.eventOf k).isSome

/-- The channel raises VALID for the event of the source whose turn it is, and holds it with its payload until it transfers. The event has
then left its slot: a later fault event does not change it. (log 26: DEDUCED.) -/
def State.present (s : State) : State :=
  match s.evtHeld, s.eventSource with
  | none, some k => { s.popEvent k with evtHeld := (s.eventOf k).map fun v => (Fin.ofNat 9 k, v) }
  | _, _ => s

/-! The Korni ring (10 R343; 11 R368). -/

/-- The marker of the ring's writes among the translations. -/
def korniAccess : Nat := 65538

/-- The oldest piece of the ring goes to its memory port as a write request, at the address that its translation gave; it waits for a TAG,
and is lost where the translation failed (11 R373, R375). -/
def State.korniWrite (s : State) (a : Nat) (bs : List Byte) (t : XlatAns) : State :=
  let s1 := { s with xlats := s.xlats.filter fun x => x.who != korniAccess, korni := { s.korni with out := s.korni.out.tail } }
  if t.fault || !t.wperm then { s1 with korni := { s1.korni with lost := true } }
  else
    match s.ownWrite (t.pa.toNat * 4096 + a % 4096) bs with
    | none => s
    | some w => { (s1.putCells w.cells).tally 11 bs.length with korni := { s1.korni with sent := s1.korni.sent ++ [w] } }

/-- The oldest piece goes on: its translation is asked for in the supervisor's context, and the piece is written when it has come.
(log 65: DESIGN CHOICE.) -/
def State.korniStep (s : State) : State :=
  match s.korni.out with
  | [] => s
  | (a, bs) :: r =>
    if inChip a then
      match s.xlats.find? fun x => x.who == korniAccess with
      | none => s.askXlat s.superCtx korniAccess true (a / 4096)
      | some x => match x.ans with | some t => s.korniWrite a bs t | none => s
    else { s with korni := { s.korni with out := r, lost := true } }

/-! The front record (10 R330, R331). -/

/-- The front record (10 R330). -/
def frontRecord (a : FrontAct) (genAfter : BitVec 32) (vote : BitVec 16) (state flags : Nat) : List Byte :=
  leBytes 4 a.num.toNat ++ leBytes 4 a.genBefore.toNat ++ leBytes 4 genAfter.toNat ++ leBytes 2 a.voteOut.toNat ++
    leBytes 2 vote.toNat ++ leBytes 1 state ++ leBytes 1 flags ++ leBytes 14 0 ++ a.steps.toList.flatMap fun w => leBytes 4 w.toNat

/-- CMT and FORCED of a record's FLAGS. -/
def FrontAct.flags (a : FrontAct) : Nat := b2n a.cmt + 2 * b2n (a.kind == FrontKind.forced)

/-- The ARRIVED record (10 R331). -/
def FrontAct.arrivedRecord (a : FrontAct) : List Byte := frontRecord a a.genBefore 0 1 a.flags

/-- The DONE record (10 R331). -/
def FrontAct.doneRecord (a : FrontAct) (x : Ctx) (word : BitVec 16) : List Byte :=
  frontRecord a x.gen word 2 (a.flags + 4 * b2n (a.cmt && x.committed) + 8 * b2n (a.cmt && x.skipped))

/-- The page of the front record. -/
def recaPage (a : BitVec 48) : Nat := a.toNat / 4096

/-- The marker of the front record's write among the translations. -/
def recordAccess : Nat := 65537

/-- The front record that has still to be written, with its context and its address (10 R331). -/
def State.recordDue (s : State) : Option (CtxId × BitVec 48 × List Byte) :=
  match s.front.act with
  | some a => if a.phase = .recording then some (a.ctx, s.front.reca, a.arrivedRecord) else s.front.doneRec
  | none => s.front.doneRec

/-- The front record goes to its memory port as a write request once its translation has come and is good; it waits for a TAG (11 R373,
R375). (log 65: DESIGN CHOICE.) -/
def State.recordStep (s : State) : State :=
  match s.recordDue, s.front.sent with
  | some (c, a, bs), none =>
    match s.xlatAns c recordAccess true (recaPage a) with
    | some t =>
      if t.fault || !t.wperm then s
      else
        match s.ownWrite (t.pa.toNat * 4096 + a.toNat % 4096) bs with
        | some w => { s.tally 11 bs.length with front := { s.front with sent := some w } }
        | none => s
    | none => s
  | _, _ => s

/-! The stream and race ports (11 R369). -/

/-- The most bytes a beat carries (11 R376). -/
def beatMax (p : Fin 12) : Nat := if 8 ≤ p.val then 256 else 1024

/-- The writes that a port has still to acknowledge: whether each is outstanding, and where its bytes end in the stream. -/
def State.portWrites (s : State) (p : Fin 12) : List (Bool × Nat) :=
  s.marked.filterMap fun x => match x.2.tgt with | .port q pos => if q = p then some (x.1, pos) else none | _ => none

/-- How many bytes of its stream a port has: all that wait, or those in front of the first write that waits for an identifier (R357). -/
def State.atPort (s : State) (p : Fin 12) : Nat :=
  let ws := s.portWrites p
  if ws.all Prod.fst then (s.port p).outq.length
  else min (s.port p).outq.length ((((ws.takeWhile Prod.fst).getLast?.map Prod.snd).getD 0) - (s.port p).sentPos)

/-- A port with bytes waiting raises VALID for a beat of as many as a beat carries and as it has, at most `most`, and holds it until it
transfers (R369). (log 27: DESIGN CHOICE.) -/
def Port.raise (x : Port) (most : Nat) : Port :=
  if x.fail || x.resend || x.shown.isSome || x.outq.isEmpty || most == 0 then x else { x with shown := some (min most x.outq.length) }

/-- Every port raises VALID that can. -/
def State.raisePorts (s : State) : State :=
  { s with ports := Vector.ofFn fun i => s.ports[i].raise (min (beatMax i) (s.atPort i)) }

/-! Time. -/

/-- With no command waiting a reference e-cycle passes (log 1). -/
def State.tick (s : State) : State :=
  if s.up then
    let s1 := s.setClock (s.clock + 1)
    if s1.clock % 2 = 0 then s1.present.korniStep.recordStep.sendAll.raisePorts else s1
  else s

end Sys2Proof.Machine
end

