-- ==== Sys2Proof/Machine/Squall.lean ====
section
/-! DEFINITION. The squall generator (02 R65 to R68) and the words that elements draw. -/

namespace Sys2Proof.Machine

/-- A sum modulo 2^32. -/
def add32w (a b : Nat) : Nat := (a + b) % 2 ^ 32

/-- rotl of R67 on 32-bit words. -/
def rotl32 (w n : Nat) : Nat := ((w <<< n) ||| (w >>> (32 - n))) % 2 ^ 32

/-- first_rotation of R67. -/
def firstRotation : List Nat := [13, 17, 26, 6, 11, 29, 16, 24, 7, 19]

/-- second_rotation of R67. -/
def secondRotation : List Nat := [15, 29, 9, 23, 4, 12, 27, 10, 21, 5]

/-- The generator's four words. -/
structure Squall where
  x0 : Nat
  x1 : Nat
  x2 : Nat
  x3 : Nat
  deriving DecidableEq, Repr

/-- key[i mod 3] of R67. -/
def squallKey (seed i : Nat) : Nat :=
  let k0 := seed % 2 ^ 32
  let k1 := seed / 2 ^ 32 % 2 ^ 32
  if i % 3 = 0 then k0 else if i % 3 = 1 then k1 else k0 ^^^ k1 ^^^ 0xA4D31C6B

/-- One round of R67. -/
def squallRound (seed round : Nat) (v : Squall) : Squall :=
  let a0 := add32w v.x0 v.x1
  let a1 := rotl32 v.x1 (firstRotation.getD round 0) ^^^ a0
  let a2 := add32w v.x2 v.x3
  let a3 := rotl32 v.x3 (secondRotation.getD round 0) ^^^ a2
  if round % 2 = 1 then
    let j := (round + 1) / 2
    { x0 := add32w a0 (squallKey seed j)
      x1 := add32w a3 (squallKey seed (j + 1))
      x2 := add32w a2 (squallKey seed (j + 2))
      x3 := add32w (add32w a1 (squallKey seed j)) j }
  else { x0 := a0, x1 := a3, x2 := a2, x3 := a1 }

/-- squall of R67. -/
def squall (c0 c1 c2 c3 seed : Nat) : Squall :=
  (List.range 10).foldl (fun v r => squallRound seed r v)
    { x0 := add32w c0 (squallKey seed 0), x1 := add32w c1 (squallKey seed 1)
      x2 := add32w c2 (squallKey seed 2), x3 := add32w c3 (squallKey seed 0) }

/-- The coordinates that stay the same over one instruction (R65, R170). -/
structure Coord where
  seed : Nat
  step : Nat
  tensor : Nat
  ibase : Nat
  deriving DecidableEq, Repr

/-- The word of the element with index `e` (R65, R68). -/
def squallWordAt (c : Coord) (purpose draw e : Nat) : Nat :=
  let i := e % 2 ^ 32
  let v := squall (i / 4) (purpose * 2 ^ 24 + c.tensor % 2 ^ 24) (c.step % 2 ^ 32)
    (0x4C440000 + draw % 2 ^ 16) c.seed
  if i % 4 = 0 then v.x0 else if i % 4 = 1 then v.x1 else if i % 4 = 2 then v.x2 else v.x3

/-- The word of destination element `k` (R171). -/
def squallWord (c : Coord) (purpose draw k : Nat) : Nat := squallWordAt c purpose draw ((c.ibase + k) % 2 ^ 32)

end Sys2Proof.Machine
end

