-- ==== Sys2Proof/Machine/Flags.lean ====
section
/-! DEFINITION. The flags of a step: CK_FSTAT and CK_GEN (07 R223 to R225), the vote word of a FRONT (07 R254) and what a FRONT's
completion does to them (07 R255), and the stream values an instruction latches (06 R173). -/

namespace Sys2Proof.Machine

/-- SEALED as it reads (R223): clear from the moment an UPD begins to execute (R245), which one that is cancelled before it has written
undoes (06 R197). (log 37: DEDUCED.) -/
def Ctx.sealedNow (x : Ctx) : Bool :=
  x.sealedGen && !x.window.any fun e => e.insn.op == some .upd && (e.phase == .ready || e.phase == .active)

/-- CK_FSTAT bits 19:0 (R223), the bits BR tests (R262). -/
def Ctx.statusBits (x : Ctx) : Nat :=
  x.vote.toNat + b2n x.nonfinite * 2 ^ 16 + b2n x.sealedNow * 2 ^ 17 + b2n x.committed * 2 ^ 18 + b2n x.skipped * 2 ^ 19

/-- CK_FSTAT (R223). -/
def Ctx.fstat (x : Ctx) : Quad := BitVec.ofNat 64 (x.statusBits + x.fronts.toNat * 2 ^ 32)

/-- An instruction with NFS met a non-finite value (R225). -/
def Ctx.meetNonfinite (x : Ctx) (met : Bool) : Ctx := { x with nonfinite := x.nonfinite || met }

/-- The vote word this chip presents (R254). -/
def Ctx.voteWord (x : Ctx) (voteIn : Nat) : BitVec 16 :=
  BitVec.ofNat 16 (b2n (!x.nonfinite) + b2n x.sealedNow * 2 + voteIn / 4 % 2 ^ 14 * 4)

/-- Every stream with AUTO set advances its STEP (R172). -/
def Ctx.advanceStreams (x : Ctx) : Ctx :=
  { x with steps := Vector.ofFn fun i => if x.autos.getLsbD i.val then x.steps[i] + 1 else x.steps[i] }

/-- R255: the changes a FRONT makes at its completion, with the reduced word. -/
def Ctx.frontChanges (x : Ctx) (word : BitVec 16) (cmt : Bool) : Ctx :=
  let y := { x.advanceStreams with vote := word, fronts := x.fronts + 1 }
  if cmt then
    if word.getLsbD 0 && word.getLsbD 1 then
      { y with gen := y.gen + 1, committed := true, skipped := false, sealedGen := false, nonfinite := false }
    else { y with committed := false, skipped := !word.getLsbD 0, sealedGen := false, nonfinite := false }
  else y

/-- Stream `n`'s SEED. -/
def Ctx.seed (x : Ctx) (n : Nat) : Quad := (x.seeds[n]?).getD 0

/-- FRONTs of the context accepted and not completed. -/
def Ctx.openFronts (x : Ctx) : Nat := (x.window.filter fun e => e.insn.op == some .front && e.phase != .completed).length

/-- The STEP of stream `n` that program order gives an instruction accepted now (R173). -/
def Ctx.step (x : Ctx) (n : Nat) : BitVec 32 :=
  let v := (x.steps[n]?).getD 0
  if x.autos.getLsbD n then v + BitVec.ofNat 32 x.openFronts else v

end Sys2Proof.Machine
end

