-- ==== Sys2Proof/Machine/Operands.lean ====
section
/-! DEFINITION. Tile operands: the checks every instruction makes on them before it writes anything (03 R85, R87, R91; 12 R400,
R406; 06 R199), what a reader finds in a tile (03 R88, R89), and what a writer leaves of its state (03 R84, R86, R90). -/

namespace Sys2Proof.Machine

/-- CK_CTX_FINFO of a tile fault: tile register, operand number, save header entry (R199). -/
def tileInfo (tile operand entry : Nat) : Quad :=
  BitVec.ofNat 64 (tile % 512 + operand % 8 * 2 ^ 9 + entry % 64 * 2 ^ 12)

/-- CK_CTX_FINFO of a fault of the instruction's own deckle (R199). -/
def ownInfo : Quad := tileInfo 0x1FF 6 0

def deckleMismatch (info : Quad) : FaultRec := ⟨0x01, info⟩
def deckleIllegalFault (info : Quad) : FaultRec := ⟨0x02, info⟩
def tileEmpty (info : Quad) : FaultRec := ⟨0x05, info⟩
def tileLost (info : Quad) : FaultRec := ⟨0x0B, info⟩

/-- CK_CTX_FINFO and fault of a bad record (07 R222): the byte offset of the first failing field. -/
def recordFault (offset : Nat) : FaultRec := deckleIllegalFault (tileInfo 0x1FF 7 (offset / 8))

/-- PATTERN_INVALID with its reason, link and list position (R199). -/
def patternInvalid (reason link pos : Nat) : FaultRec :=
  ⟨0x06, BitVec.ofNat 64 (reason % 16 + link % 4 * 16 + pos % 2 ^ 32 * 2 ^ 32)⟩

/-- A source operand: its tile register, its operand number, the deckle word the instruction reads it with, and REINT. -/
structure Operand where
  tile : Nat
  number : Nat
  word : Quad
  reint : Bool
  deriving DecidableEq, Repr

/-- A deckle word is legal under the entries `prog` (R85). -/
def wordLegal (prog : List Quad) (q : Quad) : Bool := deckleLegal prog (deckleOf q)

/-- The legality of the instruction's own deckle words. (log 29: DEDUCED.) -/
def ownCheck (prog : List Quad) (ws : List Quad) : Option FaultRec :=
  if ws.all (wordLegal prog) then none else some (deckleIllegalFault ownInfo)

/-- The legality of the recorded deckles of sources. -/
def State.recordedCheck (s : State) (prog : List Quad) : List Operand → Option FaultRec
  | [] => none
  | o :: r =>
    if wordLegal prog (s.tile o.tile).deckle then s.recordedCheck prog r
    else some (deckleIllegalFault (tileInfo o.tile o.number 0))

/-- R87 for one source. -/
def State.readCheck (s : State) (prog : List Quad) (o : Operand) : Option FaultRec :=
  let t := s.tile o.tile
  let info := tileInfo o.tile o.number 0
  let mine := deckleOf o.word
  let theirs := deckleOf t.deckle
  if t.lost then some (tileLost info)
  else if !t.inUse || t.incomplete then some (tileEmpty info)
  else if !o.reint && (mine.count != theirs.count || mine.elemType != theirs.elemType) then some (deckleMismatch info)
  else if o.reint && (shapeOf prog mine).slots != (shapeOf prog theirs).slots then some (deckleMismatch info)
  else none

/-- R87 for every source. -/
def State.readChecks (s : State) (prog : List Quad) : List Operand → Option FaultRec
  | [] => none
  | o :: r =>
    match s.readCheck prog o with
    | some f => some f
    | none => s.readChecks prog r

/-- The engine registers of the spare map disagree in all three copies (R406). -/
def State.engineMapBad (s : State) : Bool :=
  [s.tab.spareEng, s.tab.spareRet, s.tab.host, s.tab.hosted, s.tab.outOf].any fun t => t.vote == none

/-- The plane register of the spare map disagrees in all three copies (R406). -/
def State.planeMapBad (s : State) : Bool := s.tab.sparePlane.vote == none

/-- A tile register's logical engine is out of service, or the registers that describe it disagree. -/
def State.tileOut (s : State) (n : Nat) : Bool := s.outE (n / 8) || s.engineMapBad

/-- R400: the first named tile register of an engine out of service, from (tile, operand, entry). -/
def State.outCheck (s : State) : List (Nat × Nat × Nat) → Option FaultRec
  | [] => none
  | (t, o, e) :: r => if s.tileOut t then some (tileLost (tileInfo t o e)) else s.outCheck r

/-- R97: a destination of a transfer that begins after slot 0. -/
def State.laterCheck (s : State) (word : Quad) : List (Nat × Nat) → Option FaultRec
  | [] => none
  | (t, o) :: r =>
    if !(s.tile t).inUse then some (tileEmpty (tileInfo t o 0))
    else if (s.tile t).deckle != word then some (deckleMismatch (tileInfo t o 0))
    else s.laterCheck word r

/-- The first of two checks that fails. -/
def firstOf (a : Option FaultRec) (b : Unit → Option FaultRec) : Option FaultRec :=
  match a with
  | some f => some f
  | none => b ()

/-- The shape under which a reader finds its elements: the recorded deckle, or its own with REINT (R88, R89). -/
def State.srcShape (s : State) (prog : List Quad) (o : Operand) : Shape :=
  shapeOf prog (deckleOf (if o.reint then o.word else (s.tile o.tile).deckle))

/-- The footprint slots of a source tile. -/
def State.srcImage (s : State) (prog : List Quad) (o : Operand) : Array Byte :=
  (s.tileBytes o.tile 0 (256 * (s.srcShape prog o).slots)).toArray

/-- The codes of a source's elements, by element index (R88). -/
def State.srcCodes (s : State) (prog : List Quad) (o : Operand) : Array Nat :=
  allCodes (s.srcShape prog o) (s.srcImage prog o)

/-- The scale bytes of a source's groups, by group number. -/
def State.srcScales (s : State) (prog : List Quad) (o : Operand) : Array Nat :=
  let sh := s.srcShape prog o
  let img := s.srcImage prog o
  ((List.range sh.d.groups).map (scaleCode sh img)).toArray

/-- The values of a source's elements, by element index (R44, R45, R62). -/
def State.srcVals (s : State) (prog : List Quad) (o : Operand) : Array Val :=
  let sh := s.srcShape prog o
  let img := s.srcImage prog o
  ((List.range sh.d.count).map (elemValue prog sh img)).toArray

/-- R86: an instruction begins writing a tile. -/
def State.beginTile (s : State) (n : Nat) (word : Quad) : State :=
  s.upTile n fun _ => { deckle := word, inUse := true, incomplete := true, lost := false }

/-- R86: every slot of the footprint has been committed: the tile is in use, complete and under the writer's deckle, whatever another
context's writer has recorded meanwhile (R108). LOST stands as the block set it (R109). (log 73: DEDUCED.) -/
def State.endTile (s : State) (n : Nat) (word : Quad) : State :=
  s.upTile n fun t => { t with deckle := word, inUse := true, incomplete := false }

/-- R90: a source's last use. -/
def State.lastUse (s : State) (n : Nat) : State := s.upTile n fun t => { t with inUse := false }

/-- R84, R86, R136: a tile written whole at one point. -/
def State.commitTile (s : State) (n : Nat) (word : Quad) (bs : List Byte) : State :=
  (s.upTile n fun _ => { deckle := word, inUse := true, incomplete := false, lost := false }).putTile n 0 bs

/-- R90 for a list of sources with their flags; a source that is also a destination keeps IN_USE. -/
def State.lastUses (s : State) (dests : List Nat) : List (Nat × Bool) → State
  | [] => s
  | (t, fl) :: r => (if fl && !dests.contains t then s.lastUse t else s).lastUses dests r

/-- The tile registers an instruction names with their operand numbers and header entries, in the order of R91 (R199). That TD of SPERM's working
ream has operand number 0 and its other tiles have 4 is the model's choice. (log 77: DESIGN CHOICE.) -/
def Insn.operandTiles (i : Insn) : List (Nat × Nat × Nat) :=
  match i.op with
  | none => []
  | some o =>
    match o with
    | .tsave => (maskList (i.q 3)).map fun k => (i.td + k, 5, k)
    | .trestore => (maskList (i.q 3)).map fun k => (i.td + k, 5, k)
    | .tldG => (i.td, 0, 0) :: (reamTiles i.td (i.q 3)).map fun t => (t, if t = i.td then 0 else 4, 0)
    | .permX => (reamTiles i.td (i.q 3)).map (fun t => (t, 4, 0)) ++ (reamTiles i.ta (i.q 2)).map fun t => (t, 3, 0)
    | .hrot => (reamTiles i.td (i.q 2)).map (fun t => (t, 4, 0)) ++ (reamTiles i.ta (i.q 2)).map fun t => (t, 3, 0)
    | .sperm => i.spermReam.map fun t => (t, if t = i.td then 0 else 4, 0)
    | _ =>
      (if o.usesTd then [(i.td, 0, 0)] else []) ++ (if o.usesTa then [(i.ta, 1, 0)] else []) ++
        (if i.usesTb then [(i.tb, 2, 0)] else [])

end Sys2Proof.Machine
end

