-- ==== Sys2Proof/Machine/Tables.lean ====
section
/-! DEFINITION. The registers of the triplicated tables and what a read of one does: majority, rewriting and the log (12 R405 to
R407); and the start of a self-test, which reads and writes the spare map (R392, R395). -/

namespace Sys2Proof.Machine

/-- A register of a triplicated table (12 R405): the format table, the curve tables, and the spare map of R409 to R411. -/
inductive TabReg where
  | fmt (n : Fin 16)
  | scurve (n : Fin 32)
  | tcls (n : Fin 3)
  | tcrit
  | tcurve (n : Fin 20)
  | spareEng
  | spareRet
  | sparePlane
  | host
  | hosted
  | outOf
  | colfree (n : Fin 2)
  | colmap (n : Fin 128)
  deriving DecidableEq, Repr

/-- The three copies of a register. -/
def TabReg.get (r : TabReg) (t : Tables) : Trip :=
  match r with
  | .fmt n => t.fmt[n]
  | .scurve n => t.scurve[n]
  | .tcls n => t.tcls[n]
  | .tcrit => t.tcrit
  | .tcurve n => t.tcurve[n]
  | .spareEng => t.spareEng
  | .spareRet => t.spareRet
  | .sparePlane => t.sparePlane
  | .host => t.host
  | .hosted => t.hosted
  | .outOf => t.outOf
  | .colfree n => t.colfree[n]
  | .colmap n => t.colmap[n]

/-- The tables with the three copies of a register replaced. -/
def TabReg.put (r : TabReg) (t : Tables) (v : Trip) : Tables :=
  match r with
  | .fmt n => { t with fmt := t.fmt.set n v }
  | .scurve n => { t with scurve := t.scurve.set n v }
  | .tcls n => { t with tcls := t.tcls.set n v }
  | .tcrit => { t with tcrit := v }
  | .tcurve n => { t with tcurve := t.tcurve.set n v }
  | .spareEng => { t with spareEng := v }
  | .spareRet => { t with spareRet := v }
  | .sparePlane => { t with sparePlane := v }
  | .host => { t with host := v }
  | .hosted => { t with hosted := v }
  | .outOf => { t with outOf := v }
  | .colfree n => { t with colfree := t.colfree.set n v }
  | .colmap n => { t with colmap := t.colmap.set n v }

/-- The table's number (R406): 0 format, 1 scale curve, 2 throttle curve, 3 spare map. -/
def TabReg.table : TabReg → Nat
  | .fmt _ => 0
  | .scurve _ => 1
  | .tcls _ => 2
  | .tcrit => 2
  | .tcurve _ => 2
  | _ => 3

/-- The register's offset in the control window. -/
def TabReg.offset : TabReg → Nat
  | .fmt n => 0x4100 + 16 * n.val
  | .scurve n => 0x5000 + 8 * n.val
  | .tcls n => 0x5100 + 8 * n.val
  | .tcrit => 0x5118
  | .tcurve n => 0x5200 + 8 * n.val
  | .spareEng => 0x8800
  | .spareRet => 0x8808
  | .sparePlane => 0x8810
  | .host => 0x8818
  | .hosted => 0x8820
  | .outOf => 0x8828
  | .colfree n => 0x8830 + 8 * n.val
  | .colmap n => 0x8C00 + 8 * n.val

/-- Every register, in ascending offset. -/
def TabReg.all : List TabReg :=
  (List.finRange 16).map .fmt ++ (List.finRange 32).map .scurve ++ (List.finRange 3).map .tcls ++ [.tcrit] ++
    (List.finRange 20).map .tcurve ++ [.spareEng, .spareRet, .sparePlane, .host, .hosted, .outOf] ++
    (List.finRange 2).map .colfree ++ (List.finRange 128).map .colmap

/-- A table event in the log: its KIND is 7, its UNIT the table, its LOC the register offset (R413). -/
def State.logTable (s : State) (code : Nat) (r : TabReg) : State := s.logErr ⟨code, 7, r.table, 0, r.offset⟩

/-- A read compares the three copies: a minority copy is rewritten and logged; a three-way disagreement is logged (R405). -/
def State.compare (s : State) (r : TabReg) : State :=
  let t := r.get s.tab
  match t.vote with
  | none => s.logTable 0x0E r
  | some q => if t.minority then ({ s with tab := r.put s.tab (.all q) } : State).logTable 0x0D r else s

/-- Reads of several registers. -/
def State.compareAll (s : State) (rs : List TabReg) : State := rs.foldl State.compare s

/-- A write of all three copies (R407). -/
def State.putTab (s : State) (r : TabReg) (q : Quad) : State := { s with tab := r.put s.tab (.all q) }

/-- The value a reader takes. -/
def State.tabVal (s : State) (r : TabReg) : Quad := (r.get s.tab).val

/-- The registers of the programmable entries among a list of format entries. -/
def fmtRegs (ns : List Nat) : List TabReg := (ns.filter fun n => decide (16 ≤ n ∧ n < 32)).map fun n => .fmt (Fin.ofNat 16 (n - 16))

/-- Some of the registers disagree in all three copies: what needs them halts (R406). -/
def State.split (s : State) (rs : List TabReg) : Bool := rs.any fun r => (r.get s.tab).vote.isNone

/-- The three copies of a register are equal. -/
def State.agrees (s : State) (r : TabReg) : Bool := (r.get s.tab).a == (r.get s.tab).b && (r.get s.tab).b == (r.get s.tab).c

/-- The spare map registers that describe the engines, the planes, and the columns of the Vat. -/
def engineRegs : List TabReg := [.spareEng, .spareRet, .host, .hosted, .outOf]
def columnRegs : List TabReg := (List.finRange 128).map .colmap

/-- The spare map. -/
def spareRegs : List TabReg := .sparePlane :: engineRegs ++ (List.finRange 2).map .colfree ++ columnRegs

/-- The registers of the columns of a segment. -/
def segmentRegs (seg : Nat) : List TabReg := (List.range 8).map fun i => .colmap (Fin.ofNat 128 (8 * seg + i))

/-- The two registers of a scale curve. -/
def curveRegs (n : Nat) : List TabReg := [.scurve (Fin.ofNat 32 (2 * n)), .scurve (Fin.ofNat 32 (2 * n + 1))]

/-! Self-tests. -/

/-- The unit leaves service for its self-test; an error found in a unit already under test becomes part of that test (R395). A
plane enters the self-test state of 05 R162, a spare that is free that of R409: the register that says so is read (R405), and where its copies
all differ it takes no such state (R406). (log 28: DEDUCED.) (log 44: DEDUCED.) -/
def State.startTest (s : State) (u : TestUnit) : State :=
  if s.st.running.contains u then s
  else
    let s := { s with st := { s.st with running := s.st.running ++ [u] } }
    match u with
    | .plane p =>
      let s := s.compare .sparePlane
      if s.split [.sparePlane] || s.planeState p.val == 3 then s
      else
        let s := if s.planeState p.val = 1 then { s with st := { s.st with wasSpare := p :: s.st.wasSpare } } else s
        s.putTab .sparePlane (setField (s.tabVal .sparePlane) (2 * p.val) 2 2)
    | .engine p =>
      let s := s.compare .spareEng
      if s.split [.spareEng] = false ∧ 64 ≤ p.val ∧ s.sstate (p.val - 64) = 0 then
        s.putTab .spareEng (setField s.spareEng (16 * (p.val - 64)) 2 2)
      else s
    | .cacheSlice p =>
      -- every line of the slice is invalidated
      { s with lines := s.lines.filter fun l => Config.stackOf l != p }
    | _ => s

end Sys2Proof.Machine
end

