-- ==== Sys2Proof/Machine/Window.lean ====
section
/-! DEFINITION. How an instruction of a window runs: its checks, its slots, units or records in order, its fault and its
completion (03 R95, R96; 06 R197, R200; 10 R349). An instruction is given as four parts; the families define the parts. -/

namespace Sys2Proof.Machine

/-- What a step of an instruction comes to: done, waiting for something outside it, or a fault. -/
inductive Res where
  | ok (s : State) (e : Entry)
  | wait (s : State)
  | fault (f : FaultRec) (s : State)
  deriving DecidableEq, Repr

/-- The four parts of an instruction: its checks with what it reads before it writes, the number of its units, one unit, and
what its completion does. -/
structure Parts where
  start : CtxId → State → Entry → Res
  units : State → Entry → Nat
  unit : CtxId → State → Entry → Nat → Res
  finish : CtxId → State → Entry → State

/-! Units. -/

/-- Unit `k` has committed. -/
def Entry.unitDone (e : Entry) (k : Nat) : Bool := decide (k < e.upTo) || e.extra.contains k

/-- The completed count after the units above it that have committed (R95). -/
def absorb : Nat → Nat → List Nat → Nat × List Nat
  | 0, n, l => (n, l)
  | f + 1, n, l => if l.contains n then absorb f (n + 1) (l.erase n) else (n, l)

/-- Unit `k` commits. A unit that commits ends the succession of the Screen's errors (08 R275). -/
def Entry.commitUnit (e : Entry) (k : Nat) : Entry :=
  if e.unitDone k then e
  else if k = e.upTo then
    let p := absorb e.extra.length (k + 1) e.extra
    { e with upTo := p.1, extra := p.2, screenFail := 0 }
  else { e with extra := k :: e.extra, screenFail := 0 }

/-- The lower of two failing units (R96). -/
def Entry.failUnit (e : Entry) (k : Nat) (f : FaultRec) : Entry :=
  match e.failed with
  | some (j, _) => if k < j then { e with failed := some (k, f) } else e
  | none => { e with failed := some (k, f) }

/-- COUNT of a fault: 0 for an instruction without a FIRST operand (06 R198). (log 63: DEDUCED.) -/
def Entry.countOf (e : Entry) (k : Nat) : Nat :=
  match e.insn.op with
  | some o => if o.hasFirst then k else 0
  | none => 0

/-- The translations of a unit are given up when it ends (11 R375). -/
def State.forget (s : State) (c : CtxId) (e : Entry) : State := s.dropXlats c e.seq.toNat

/-- How a run of units ends. -/
inductive Ran where
  | done (s : State) (e : Entry)
  | wait (s : State) (e : Entry)
  | fault (k : Nat) (f : FaultRec) (s : State) (e : Entry)
  deriving DecidableEq, Repr

/-- Runs the units of a list in order; those that have committed are passed over. -/
def runUnits (P : Parts) (c : CtxId) : List Nat → State → Entry → Ran
  | [], s, e => .done s e
  | k :: r, s, e =>
    if e.unitDone k then runUnits P c r s e
    else
      match P.unit c s e k with
      | .ok s1 e1 => runUnits P c r (s1.forget c e1) (e1.commitUnit k)
      | .wait s1 => .wait s1 e
      | .fault f s1 => .fault k f s1 e

/-! Trails (10 R349). -/

/-- The trail is on: TRAIL set in record or replay mode. -/
def State.trailOn (s : State) : Bool := s.korni.trail && (s.recording || s.korni.mode == 2)

/-- Notes bytes written to output image `img`, for the trail. -/
def Entry.note (e : Entry) (s : State) (img : Nat) (ps : List (Run × List Byte)) : Entry :=
  if s.trailOn then
    { e with outs := ps.foldl (fun m p =>
        spWrite 0 m (img * 2 ^ 49 + p.1.addr.toNat) ((p.2.take p.1.len).map fun b => b.toNat + 1)) e.outs }
  else e

/-- The destination tile registers of an instruction, ascending. -/
def Insn.destTiles (i : Insn) : List Nat :=
  let l := match i.op with
    | some .tldG => i.td :: reamTiles i.td (i.q 3)
    | some .trestore => (maskList (i.q 3)).map fun k => i.td + k
    | some .permX => reamTiles i.td (i.q 3)
    | some .hrot => reamTiles i.td (i.q 2)
    | some .trel => []
    | some .tsave => []
    | some o => if o.usesTd then [i.td] else []
    | none => []
  (List.range 512).filter l.contains

/-- The footprint bytes of a tile under its recorded deckle. -/
def State.footprintBytes (s : State) (prog : List Quad) (n : Nat) : List Byte :=
  s.tileBytes n 0 (shapeOf prog (deckleOf (s.tile n).deckle)).footprint

/-- The parts of an instruction's result stream. A tile that TRESTORE leaves without data is no destination of bytes. (log 24: DEDUCED.) -/
def State.trailParts (s : State) (e : Entry) : List (List Byte) :=
  let ts := e.insn.destTiles.filter fun n => e.insn.op != some .trestore || (s.tile n).inUse
  [ts.flatMap (s.footprintBytes e.fmts), e.outs.map fun p => BitVec.ofNat 8 (p.2 - 1)]

/-- Compares the trail digests a replay computes with those recorded (R347). -/
def Korni.compareTrail (k : Korni) : Korni :=
  let bad := k.trailsGot.find? fun g => k.trails.any fun t => t.1 == g.1 && t.2.1 == g.2.1 && t.2.2 != g.2.2
  let k' := { k with
    trails := k.trails.filter fun t => !k.trailsGot.any fun g => t.1 == g.1 && t.2.1 == g.2.1
    trailsGot := k.trailsGot.filter fun g => !k.trails.any fun t => t.1 == g.1 && t.2.1 == g.2.1 }
  match bad with
  | some g => if k.diverged then k' else { k' with diverged := true, divCtx := BitVec.ofNat 3 g.1, divSeq := g.2.1 }
  | none => k'

/-- The ring has room for the trail record that a completion writes. -/
def State.trailReady (s : State) : Bool := !s.trailOn || s.korniRoom 32 false

/-- An instruction's trail digest is recorded, or kept for comparison in replay mode. -/
def State.trail (s : State) (c : CtxId) (n : Seq) (opcode : Nat) (parts : List (List Byte)) : State :=
  if s.trailOn then
    let d := trailDigest parts
    if s.recording then s.korniPut 0x07 c.val n.toNat (quadBytes [BitVec.ofNat 64 d, BitVec.ofNat 64 opcode])
    else
      { s with korni :=
        ({ s.korni with trailsGot := s.korni.trailsGot ++ [(c.val, n, BitVec.ofNat 64 d)] } : Korni).compareTrail }
  else s

/-- An instruction completes: it counts, its window moves on, and its context settles (06 R190). -/
def State.complete (s : State) (c : CtxId) (e : Entry) : State :=
  let s := ((s.tally 1 1).traceInsn 2 c e.seq e.insn.opcode).ungrant c e.seq
  (s.forget c e).upCtx c fun x =>
    ({ x with window := setEntry { e with phase := .completed, granted := false } x.window } : Ctx).settle

/-- All units have committed: the instruction completes, once the ring has room for its trail record. -/
def State.finishEntry (P : Parts) (c : CtxId) (s : State) (e : Entry) : State :=
  if s.trailReady then
    let s := P.finish c s e
    (s.trail c e.seq e.insn.opcode (s.trailParts e)).complete c e
  else s.putEntry c e

/-! Running an instruction. -/

/-- The instruction may run: its context runs or drains, and the scoreboard has let it begin. -/
def Ctx.mayRun (x : Ctx) (e : Entry) : Bool :=
  (x.st == .run || x.st == .draining) && (e.phase == .ready || e.phase == .active)

/-- TABLE_INTEGRITY for a format entry that an instruction latched (12 R406). -/
def Entry.tableFault (e : Entry) : Option FaultRec :=
  match e.fmtBad with
  | [] => none
  | n :: _ => some ⟨0x0E, BitVec.ofNat 64 (2 * n * 256)⟩

/-- TABLE_INTEGRITY for the first of some format entries whose copies all differ (12 R406). -/
def State.entriesBad (s : State) (ns : List Nat) : Option FaultRec :=
  (ns.find? s.fmtBad.contains).map fun n => ⟨0x0E, BitVec.ofNat 64 (2 * n * 256)⟩

/-- The source tile registers of an instruction. -/
def Insn.sourceTiles (i : Insn) : List Nat :=
  match i.op with
  | none => []
  | some o =>
    match o with
    | .permX => reamTiles i.ta (i.q 2)
    | .hrot => reamTiles i.ta (i.q 2)
    | _ => (if o.usesTa then [i.ta] else []) ++ if i.usesTb then [i.tb] else []

/-- The programmable format entries of the recorded deckles of an instruction's sources that it does not name itself (03 R87). -/
def State.unnamedFmts (s : State) (i : Insn) : List Nat :=
  ((i.sourceTiles.map fun t => (deckleOf (s.tile t).deckle).fmt).filter fun n => decide (16 ≤ n) && !i.fmts.contains n).eraseDups

/-- The programmable entries of an instruction, those numbered in `ns` as they stand now. -/
def renewed (old now : List Quad) (ns : List Nat) : List Quad :=
  (List.range 16).map fun i => if ns.contains (i + 16) then now.getD i 0 else old.getD i 0

/-- The entry with the format entries that only its sources' recorded deckles name, read as it begins; those that it names were latched at its
acceptance (02 R50; 06 R191). (log 22: DEDUCED.) -/
def State.readUnnamed (s : State) (e : Entry) : Entry :=
  match s.unnamedFmts e.insn with
  | [] => e
  | ns => { e with fmts := renewed e.fmts s.fmtProg ns }

/-- The operations whose words cross a plane (05 R160). (log 44: DEDUCED.) -/
def Op.crossesPlane : Op → Bool
  | .perm | .permX | .sperm | .tmov | .tldG => true
  | _ => false

/-- The instruction's operands may lie in the Vat. -/
def Insn.usesMemory (i : Insn) : Bool :=
  match i.op with
  | none => false
  | some o =>
    match o with
    | .fence | .loop | .br | .halt | .tmov | .trel | .press | .hrot | .commit | .front => false
    | .tld | .tst => i.port == 0
    | .conv => bitsOf i.xf 1 0 != 0
    | .wmark => i.wmarkOp != 3
    | _ => true

/-- The spare map registers that an instruction reads as it begins: those of the engines its tiles are on, of the planes it crosses, and of
the Vat its operands may lie in (12 R405). (log 44: DEDUCED.) -/
def Insn.mapRegs (i : Insn) : List TabReg :=
  (if i.tiles.isEmpty then [] else engineRegs) ++ (if i.op.any Op.crossesPlane then [.sparePlane] else []) ++
    (if i.usesMemory then (if i.tiles.isEmpty then [.host] else []) ++ columnRegs else [])

/-- Logical engine `g` is hosted: its tiles lie in the Vat (12 R398). -/
def State.hosted (s : State) (g : Nat) : Bool := s.st.hosts.any fun h => h.1.val == g

/-- As `Insn.mapRegs`, with the registers of the columns where a tile of the instruction lies in the hosting reserve (12 R398, R405). -/
def State.mapRegs (s : State) (i : Insn) : List TabReg :=
  i.mapRegs ++ (if !i.usesMemory && i.tiles.any fun t => s.hosted (t / 8) then columnRegs else [])

/-- Every engine the instruction's tiles are on serves, the Screen serves what needs it, and a plane carries spans for those that
cross one (12 R392, R397; 05 R162); with every plane retired the last wait for ever. (log 28: DEDUCED.) -/
def State.unitsServe (s : State) (i : Insn) : Bool :=
  (s.engineMapBad || i.tiles.all fun t => !s.engineBusy (t / 8)) && !(i.needsScreen && s.testing .screen) &&
  (match i.op with
   | some o => !o.crossesPlane || s.planeMapBad || s.anyPlane
   | none => true)

/-- UNCORRECTABLE where the register that describes the planes disagrees in all three copies (12 R406). It describes all five: UNIT is 0.
(log 71: DESIGN CHOICE.) -/
def State.planeFault (s : State) (i : Insn) : Option FaultRec :=
  match i.op with
  | some o => if o.crossesPlane && s.planeMapBad then some (uncorrectable 2 0 0) else none
  | none => none

/-- TREL, which has no slot on an engine (03 R105). -/
def Insn.isTrel (i : Insn) : Bool := i.op == some .trel

/-- TILE_LOST where the registers that describe the engines of an instruction's tiles disagree in all three copies (12 R406). TREL needs no
engine (03 R105). (log 56: DEDUCED.) -/
def State.engineMapFault (s : State) (i : Insn) : Option FaultRec :=
  if s.engineMapBad && !i.isTrel then i.operandTiles.head?.map fun t => tileLost (tileInfo t.1 t.2.1 t.2.2) else none

/-- The place in the Vat of the first byte that segment `g` holds of tile register `t` of a hosted engine (12 R398). -/
def State.hostedByte (s : State) (t g : Nat) : Nat :=
  let slot := ((s.st.hosts.find? fun h => h.1.val == t / 8).map fun h => h.2.2).getD 0
  0x40000000 + 0x100000 * s.hostRegion + 0x40000 * slot + 32768 * (t % 8) + 1024 * g

/-- UNCORRECTABLE where a tile of the instruction lies in the hosting reserve and the registers that describe the columns of a segment disagree
in all three copies: a tile lies in every segment (12 R398, R406). (log 44: DEDUCED.) -/
def State.hostedMapFault (s : State) (i : Insn) : Option FaultRec :=
  if i.isTrel then none
  else
    match i.operandTiles.find? fun t => s.hosted (t.1 / 8), (List.range 16).find? s.colmapBad with
    | some t, some g => some (uncorrectable 1 g (s.hostedByte t.1 g))
    | _, _ => none

/-- An instruction's checks, made once at each issue and rerun (R91, R200); as it begins it reads the format entries that it does not name. `d` is
what the protection of the stores reports meanwhile: the reads of `start` meet it, and what they do not meet of it stays with the entry in the
window. -/
def State.startEntry (P : Parts) (c : CtxId) (s0 : State) (e0 : Entry) (d : Detect := .clean) : Res :=
  if e0.started then
    match firstOf (s0.planeFault e0.insn) fun _ => firstOf (s0.engineMapFault e0.insn) fun _ => s0.hostedMapFault e0.insn with
    | some f => .fault f s0
    | none => .ok s0 e0
  else
    let s1 := s0.compareAll (fmtRegs (s0.unnamedFmts e0.insn))
    let e := s1.readUnnamed e0
    let s := s1.putEntry c { e with hit := d }
    match firstOf e.tableFault fun _ => firstOf (s.entriesBad (s.unnamedFmts e.insn)) fun _ => firstOf (s.planeFault e.insn) fun _ =>
        s.hostedMapFault e.insn with
    | some f => .fault f s
    | none =>
      match P.start c s e with
      | .ok s2 e2 => .ok (s2.forget c e2) { e2 with started := true, phase := .active }
      | .wait s2 => .wait (s2.dropHit c e.seq)
      | .fault f s2 => .fault f s2

/-- Tiles that a SPERM has worked in: no longer in use, with a recorded deckle of zero and contents the spec leaves open (04 R142). -/
def State.freeReam (s : State) (ts : List Nat) : State :=
  ts.foldl (fun s t => ((s.upTile t fun _ => {}).putTile t 0 (freeBytes s.freeCtr 32768)).fresh) s

/-- A fault of PATTERN_INVALID with reason 8, which SPERM takes before it writes any tile state (04 R126). -/
def FaultRec.badListEntry (f : FaultRec) : Bool := f.code == 6 && f.finfo.bits 3 0 == 8

/-- The working ream of a SPERM that has begun and ends, by completing or by a fault other than that of a list entry (04 R126, R142); other
instructions have none. (log 35: DEDUCED.) -/
def State.leaveReam (s : State) (e : Entry) (f : Option FaultRec) : State :=
  if e.started = true ∧ e.insn.op = some .sperm ∧ f.any FaultRec.badListEntry = false then s.freeReam e.insn.spermReam else s

/-- An instruction that has begun faults at unit `k`. -/
def State.faultUnit (s : State) (c : CtxId) (e : Entry) (k : Nat) (f : FaultRec) : State :=
  (s.leaveReam e (some f)).faultEntry c e (e.countOf k) f

/-- Runs the units below `top` that have not committed, then faults or completes. (log 14: DEDUCED.) -/
def State.runFrom (P : Parts) (c : CtxId) (s : State) (e : Entry) : State :=
  let total := P.units s e
  let top := match e.failed with | some (k, _) => k | none => total
  match runUnits P c (List.range' e.upTo (top - e.upTo)) s e with
  | .wait s1 e1 => s1.putEntry c e1
  | .fault k f s1 e1 => s1.faultUnit c e1 k f
  | .done s1 e1 =>
    match e1.failed with
    | some (k, f) => s1.faultUnit c e1 k f
    | none => State.finishEntry P c s1 e1

/-- An instruction reads the spare map each time it goes on (12 R405), and does so where the units that it needs serve (R392, R397).
(log 44: DEDUCED.) -/
def State.served (s : State) (e : Entry) (go : State → State) : State :=
  let s1 := s.compareAll (s.mapRegs e.insn)
  if s1.unitsServe e.insn then go s1 else s1

/-- Runs an instruction as far as it goes. (log 63: DEDUCED.) -/
def State.runEntry (P : Parts) (c : CtxId) (s : State) (e : Entry) : State :=
  match State.startEntry P c s e with
  | .wait s1 => s1
  | .fault f s1 => s1.faultUnit c e e.upTo f
  | .ok s1 e1 => State.runFrom P c s1 e1

/-- The command of an instruction's own: the instruction of context `c` with sequence number `n`, if it is of the kind the
command names and may run, reads the spare map and runs as far as it goes; otherwise nothing changes. (log 2: DEDUCED.)
(log 14: DEDUCED.) -/
def State.runInsn (P : Parts) (kind : Insn → Bool) (c : CtxId) (n : Seq) (s : State) : State :=
  match (s.ctx c).entry n with
  | none => s
  | some e => if kind e.insn && (s.ctx c).mayRun e then s.served e (fun s1 => State.runEntry P c s1 e) else s

/-- An instruction with opcode `o`. -/
def isOp (o : Op) (i : Insn) : Bool := i.op == some o

/-! Small pieces the families share. -/

/-- Checks that failed fault; otherwise the instruction goes on. -/
def checked (f : Option FaultRec) (s : State) (r : Unit → Res) : Res :=
  match f with
  | some f => .fault f s
  | none => r ()

/-- The reads and writes of a unit whose places and translations are good go on; otherwise the unit waits or faults (R96, R199). -/
def judging (c : CtxId) (s : State) (e : Entry) (rs ws : List Run) (r : State → Res) : Res :=
  match s.judge c e.seq.toNat rs ws with
  | .ok s1 => r s1
  | .wait s1 => .wait s1
  | .fault f s1 => .fault f s1

/-- The WHERE number of R396. -/
def whereNumber : Where → Nat
  | .tileFile => 0
  | .vatOrLane => 1
  | .fabric => 2
  | .memory => 3
  | .port => 4
  | .screen => 5
  | .sequencerSpace => 6

/-- The unit with a self-test in which an error of a store was found (R392). For a tile file the engine of the tile register in
`loc`, for the Vat the macro of the failing address, for memory the slice of its port. -/
def State.testUnitOf (s : State) (w : Where) (unit : Fin 128) (loc : BitVec 48) : Option TestUnit :=
  match w with
  | .tileFile => some (.engine (Fin.ofNat 68 (s.physical (unit.val % 64))))
  | .vatOrLane => some (.macroOf (Fin.ofNat 16 unit.val) (Fin.ofNat 16 (vatSub (vatOffset loc.toNat) / 16)))
  | .memory => some (.cacheSlice (Fin.ofNat 16 unit.val))
  | _ => none

/-- LOC of R396 from the place a store reports: a tile register and slot, or a Felt address. -/
def finfoLoc (w : Where) (loc : BitVec 48) : Nat := if w = .tileFile then loc.toNat % 2 ^ 16 else loc.toNat

/-- The row cache drops the line that holds a virtual address whose translation an access has (R391). -/
def State.dropLine (s : State) (c : CtxId) (who : Nat) (a : Nat) : State :=
  let pages := s.xlats.filterMap fun t =>
    if t.ctx == c && t.who == who && t.page == a / 4096 then t.ans.map fun r => (r.pa.toNat * 4096 + a % 4096) / 256 else none
  { s with lines := s.lines.filter fun l => !pages.contains l }

/-- The address lies in a run of the Vat or of chip memory. -/
def Run.holds (r : Run) (w : Where) (a : Nat) : Bool :=
  decide (r.addr ≤ (a : Int) ∧ (a : Int) < r.addr + (r.len : Int)) && w == (if inVat r.addr then .vatOrLane else .memory)

/-- An error of a store that a read meets is counted and logged, and the store's unit tested where it has a self-test; the boot ROM and working RAM
have none (12 R391, R392). -/
def State.meetsError (s : State) (corrected : Bool) (w : Where) (unit : Fin 128) (loc : BitVec 48) : State :=
  match s.testUnitOf w unit loc with
  | some u =>
    (if corrected then s.logCorrected (testKind u) (testNumber u) loc.toNat
     else s.logUncorrectable (testKind u) (testNumber u) loc.toNat).startTest u
  | none => if corrected then s.logCorrected 9 0 loc.toNat else s.logUncorrectable 9 0 loc.toNat

/-- What becomes of a read among whose bytes the protection reports a word, while an instruction begins. A corrected word is counted, logged and
its unit tested, and the read goes on with the corrected data. Of one that cannot be corrected nothing is used: a word of the Vat faults, and a
line of the row cache is dropped and fetched again (R391, R392). (log 15: DEDUCED.) -/
def State.readHit (s : State) (c : CtxId) (e : Entry) (rs : List Run) : Reach :=
  match s.hitOf c e.seq with
  | .clean => .ok s
  | .corrected w unit loc =>
    if rs.any fun r => r.holds w loc.toNat then .ok ((s.meetsError true w unit loc).dropHit c e.seq) else .ok s
  | .uncorrectable w unit loc =>
    if rs.any fun r => r.holds w loc.toNat then
      let s1 := (s.meetsError false w unit loc).dropHit c e.seq
      if w = .memory then .wait (s1.dropLine c e.seq.toNat loc.toNat)
      else .fault (uncorrectable (whereNumber w) unit.val loc.toNat) s1
    else .ok s

/-- A read whose bytes are there goes on with them. -/
def reading (c : CtxId) (s : State) (e : Entry) (rs : List Run) (r : State → List Byte → Res) : Res :=
  match s.reachRead c e.seq.toNat rs with
  | .ok s1 =>
    match s1.readHit c e rs with
    | .ok s2 => r (s2.demand c e.seq.toNat rs) (s1.readBytes c e.seq.toNat rs)
    | .wait s2 => .wait s2
    | .fault f s2 => .fault f s2
  | .wait s1 => .wait s1
  | .fault f s1 => .fault f s1

/-- A write that may be made is made, carried by `k`, with its bytes noted for the trail as output image `img` where it is one. -/
def writing (k : Carrier) (c : CtxId) (s : State) (e : Entry) (img : Option Nat) (ps : List (Run × List Byte)) (r : State → Entry → Res) : Res :=
  match s.reach c e.seq.toNat true (ps.map Prod.fst) with
  | .ok s1 =>
    let e1 := match img with | some j => e.note s1 j ps | none => e
    r (s1.store k c e.seq ps) { e1 with wrote := true }
  | .wait s1 => .wait s1
  | .fault f s1 => .fault f s1

end Sys2Proof.Machine
end

