-- ==== Sys2Proof/Machine/Stream.lean ====
section
/-! DEFINITION. Dense images: element `k` occupies bits k × C to k × C + C − 1 from the image base (04 R139; 07 R220). Where a
piece of an image begins or ends inside a byte, the other bits of that byte are read and written back. -/

namespace Sys2Proof.Machine

/-- The bytes that hold elements a to a + n − 1 of a dense image of `c`-bit containers. -/
def denseRun (base : Int) (c a n : Nat) : Run :=
  runAt base (base + (a * c / 8 : Nat)) (if n = 0 then 0 else ((a + n) * c + 7) / 8 - a * c / 8)

/-- The codes of elements a to a + n − 1 from the bytes of their run. -/
def denseCodes (c width a n : Nat) (bs : List Byte) : List Nat :=
  let img := bs.toArray
  (List.range n).map fun j => bitsAt img (a * c % 8 + j * c) c % 2 ^ width

/-- The bytes of a run that elements a to a + n − 1 cover only in part, lowest first. -/
def denseEdges (base : Int) (c a n : Nat) : List Run :=
  let sb := a * c
  let eb := (a + n) * c
  if n = 0 then []
  else
    (if sb % 8 ≠ 0 then [runAt base (base + (sb / 8 : Nat)) 1] else []) ++
      (if eb % 8 ≠ 0 ∧ (sb % 8 = 0 ∨ eb / 8 ≠ sb / 8) then [runAt base (base + (eb / 8 : Nat)) 1] else [])

/-- The bytes of the run with the codes in it, the bits outside the elements as the edge bytes had them. -/
def denseBytes (c a : Nat) (codes : List Nat) (edges : List Byte) : List Byte :=
  let n := codes.length
  let sb := a * c
  let eb := (a + n) * c
  let low := if sb % 8 ≠ 0 then (edges.headD 0).toNat % 2 ^ (sb % 8) else 0
  let high := if eb % 8 ≠ 0 then (edges.getLastD 0).toNat / 2 ^ (eb % 8) else 0
  if n = 0 then []
  else leBytes ((eb + 7) / 8 - sb / 8) (low + packBits c codes * 2 ^ (sb % 8) + high * 2 ^ (eb - sb / 8 * 8))

/-- Writes codes into elements a onward of a dense image, reading the edge bytes first. -/
def writingDense (k : Carrier) (c : CtxId) (s : State) (e : Entry) (img : Option Nat) (pieces : List (Int × Nat × Nat × List Nat))
    (r : State → Entry → Res) : Res :=
  let edges := pieces.map fun p => denseEdges p.1 p.2.1 p.2.2.1 p.2.2.2.length
  let runs := pieces.map fun p => denseRun p.1 p.2.1 p.2.2.1 p.2.2.2.length
  judging c s e edges.flatten runs fun s0 =>
    reading c s0 e edges.flatten fun s1 _ =>
      let who := e.seq.toNat
      writing k c s1 e img ((runs.zip (pieces.zip edges)).map fun p =>
        (p.1, denseBytes p.2.1.2.1 p.2.1.2.2.1 p.2.1.2.2.2 (s1.readBytes c who p.2.2))) r

/-- Two runs have a byte in common. -/
def Run.meets (a b : Run) : Bool :=
  a.len != 0 && b.len != 0 && decide (a.addr < b.addr + b.len) && decide (b.addr < a.addr + a.len)

/-- Some two of several images overlap. -/
def anyMeet : List Run → Bool
  | [] => false
  | a :: r => r.any a.meets || anyMeet r

/-- `n` element codes that the spec leaves open, numbered `k`. -/
def freeCodes (k width n : Nat) : List Nat :=
  (List.range n).map fun i => leNat ((List.range 4).map fun j => Config.freeByte k (4 * i + j)) % 2 ^ width

/-- Codes, or free ones in their place where the spec leaves the result open. -/
def orFree (s : State) (free : Bool) (width : Nat) (codes : List Nat) : List Nat :=
  if free then freeCodes s.freeCtr width codes.length else codes

/-- The lane registers of some segments have been loaded, and hold open contents (09 R293). -/
def State.loadLanes (s : State) (segs : List Nat) : State :=
  { s with laneFree := segs.foldl (fun v g => v.setIfInBounds g (some s.freeCtr)) s.laneFree, freeCtr := s.freeCtr + 1 }

/-- A unit has computed `n` elements in the lanes of some segments (09 R293; 15 R469). -/
def State.useLanes (s : State) (segs : List Nat) (n : Nat) : State := (s.tally 7 n).loadLanes segs

/-- The container width of a stream deckle (R78, R220). -/
def streamC (prog : List Quad) (d : Deckle) : Nat := containerBits d.pack (fmtAt prog d.fmt).width

/-- The legality of a stream deckle (R220). (log 30: DEDUCED.) -/
def streamCheck (prog : List Quad) (q : Quad) : Option FaultRec :=
  if streamLegal prog (deckleOf q) then none else some (deckleIllegalFault ownInfo)

/-- Three checks in order. -/
def firstOf3 (a : Option FaultRec) (b d : Unit → Option FaultRec) : Option FaultRec := firstOf a fun _ => firstOf (b ()) d

/-- An FP32 field of a record. -/
def fp32At (bs : List Byte) (o : Nat) : Val := elemVal fp32 (leNat ((bs.drop o).take 4))

/-- A number of `k` bytes in a record. -/
def numAt (bs : List Byte) (o k : Nat) : Nat := leNat ((bs.drop o).take k)

/-- The first bad field of a scale record that is LEN or CURVE, or that lies behind them (R222, R241). -/
def scaleHeadFault (bs : List Byte) : Option FaultRec :=
  if numAt bs 12 1 < 1 ∨ 64 < numAt bs 12 1 then some (recordFault 12)
  else if 15 < numAt bs 13 1 then some (recordFault 13)
  else none
def scaleTailFault (bs : List Byte) : Option FaultRec :=
  match ((List.range 50).map fun i => 14 + i).find? fun o => numAt bs o 1 != 0 with
  | some _ => some (recordFault 14)
  | none => if ((bs.drop 320).take 192).any fun b => b != 0 then some (recordFault 320) else none

/-- The first bad field of a scale record (R222, R241). -/
def scaleRecordFault (bs : List Byte) : Option FaultRec := firstOf (scaleHeadFault bs) fun _ => scaleTailFault bs

/-- A Felt address from a Vat offset. -/
def vatAddr (o : Nat) : Int := ((0x40000000 + o : Nat) : Int)

/-- The scale record that an instruction names at `a`, whole (07 R221, R241). -/
def scaleRun (a : Int) : Run := runAt a a 512

/-- An instruction that takes SCALE of a scale record reads the record whole and tests its fields before it writes anything (R221, R222).
(log 33: DEDUCED.) -/
def readScale (c : CtxId) (s : State) (e : Entry) (a : Int) : Res :=
  reading c s e [scaleRun a] fun s1 bs => checked (scaleRecordFault bs) s1 fun _ => .ok s1 { e with rcd := some bs }

/-- The coordinates of an instruction's key quad (06 R170, R171, R173). -/
def Entry.coord (e : Entry) : Coord :=
  { seed := e.seed.toNat, step := e.step.toNat, tensor := (e.insn.q 3).bits 23 0, ibase := (e.insn.q 3).bits 63 32 }

/-- The random word of element `k` for a final rounding: drawn only under SR (07 R228). -/
def Entry.srWord (e : Entry) (draw k : Nat) : Nat := if e.insn.rnd = 4 then squallWord e.coord 0x01 draw k else 0

end Sys2Proof.Machine
end

