-- ==== Sys2Proof/Machine/Control.lean ====
section
/-! DEFINITION. The setup and control instructions that run in the window: SETPAT, SETFMT and FENCE (06 R194; 07 R259 to R261), and
the four actions of WMARK (07 R256, R257; 10 R336 to R340). -/

namespace Sys2Proof.Machine

/-! SETPAT and SETFMT. -/

/-- The one unit of SETPAT reads its source. -/
def setpatUnit (c : CtxId) (s : State) (e : Entry) : Res :=
  reading c s e [run e.insn.setpatSrc 256] fun s1 bs => .ok s1 { e with rcd := some bs }

/-- The quads of a byte string. -/
def quadsAt (n : Nat) (bs : List Byte) : List Quad := (List.range n).map fun i => BitVec.ofNat 64 (numAt bs (8 * i) 8)

/-- SETPAT's parts: the copy replaces the register all or none (R259). -/
def setpatParts : Parts where
  start := fun _ s e => .ok s e
  units := fun _ _ => 1
  unit := fun c s e _ => setpatUnit c s e
  finish := fun c s e => s.upCtx c fun x => x.setPat e.insn.setReg (quadsAt 32 (e.rcd.getD []))

/-- SETPAT (R259). -/
def execSetpat (c : CtxId) (n : Seq) (s : State) : Out := whenUp s (State.runInsn setpatParts (isOp .setpat) c n s)

/-- R48, R49: the writable bits of CK_FMTn_LO; every other bit of the 16 bytes is reserved. -/
def fmtFields : List (Nat × Nat) := [(3, 0), (13, 8), (19, 16), (28, 24), (47, 32), (51, 48), (63, 56)]

/-- KIND or NAN_MODE holds a reserved value (R50, R260). -/
def fmtReserved (q : Quad) : Bool := decide (7 ≤ q.bits 3 0 ∧ q.bits 3 0 ≤ 15) || q.bits 50 49 == 3

/-- R260: the first failing field of the 16 bytes. -/
def setfmtFault (bs : List Byte) : Option FaultRec :=
  let lo : Quad := BitVec.ofNat 64 (numAt bs 0 8)
  if outside lo fmtFields || fmtReserved lo then some (recordFault 0)
  else if numAt bs 8 8 ≠ 0 then some (recordFault 8)
  else none

/-- The one unit of SETFMT reads its source and tests it. -/
def setfmtUnit (c : CtxId) (s : State) (e : Entry) : Res :=
  reading c s e [run e.insn.setfmtSrc 16] fun s1 bs => checked (setfmtFault bs) s1 fun _ => .ok s1 { e with rcd := some bs }

/-- Writes all three copies of a programmable format entry (R260, R407). A low half that a 32-bit write has staged for the entry stands.
(log 69: DESIGN CHOICE.) -/
def State.putFmt (s : State) (entry : Nat) (q : Quad) : State :=
  { s with tab := { s.tab with fmt := s.tab.fmt.setIfInBounds (entry - 16) (.all q) } }

/-- SETFMT's parts. -/
def setfmtParts : Parts where
  start := fun _ s e => .ok s e
  units := fun _ _ => 1
  unit := fun c s e _ => setfmtUnit c s e
  finish := fun _ s e => s.putFmt e.insn.setReg (BitVec.ofNat 64 (numAt (e.rcd.getD []) 0 8))

/-- SETFMT (R260). -/
def execSetfmt (c : CtxId) (n : Seq) (s : State) : Out := whenUp s (State.runInsn setfmtParts (isOp .setfmt) c n s)

/-! FENCE. -/

/-- Every earlier instruction of the context has completed. -/
def Ctx.earlierDone (x : Ctx) (n : Seq) : Bool := (x.earlier n).all fun e => e.phase == .completed

/-- Every write of the context has been acknowledged, that of the DONE record of its FRONT too (R194; 10 R331). -/
def State.acked (s : State) (c : CtxId) : Bool :=
  (!s.unacked.any fun u => u.ctx == c) && !(match s.front.doneRec with | some d => d.1 == c | none => false)

/-- The fence events of a context that have not left: those of its queue, and one that the channel holds (11 R369, R380). -/
def State.fencesWaiting (s : State) (c : CtxId) : Nat :=
  (s.ctx c).fenceEvents + (match s.evtHeld with | some (k, v) => if k.val = c.val ∧ v.2.1 = 2 then 1 else 0 | none => 0)

/-- A FENCE's conditions: R194, and a place for its event (11 R380). -/
def fenceStart (c : CtxId) (s : State) (e : Entry) : Res :=
  if (s.ctx c).earlierDone e.seq && s.acked c && (!e.insn.fenceEvt || decide (s.fencesWaiting c < 4)) then .ok s e else .wait s

/-- Every line of the row cache is invalidated, with what uncorrectable lines have left; responses on their way fill none (R261, 11
R375). -/
def State.invalidate (s : State) : State :=
  { s with lines := [], cache := [], bad := [], reads := s.reads.map fun r => { r with stale := true } }

/-- A FENCE completes: its event enters the queue, and the row cache is invalidated with INV. -/
def fenceFinish (c : CtxId) (s : State) (e : Entry) : State :=
  let s1 := if e.insn.fenceEvt then
      s.upCtx c fun x => { x with events := x.events ++ [.fence (BitVec.ofNat 16 e.insn.fenceTag)] }
    else s
  if e.insn.fenceInv then s1.invalidate else s1

/-- FENCE's parts. -/
def fenceParts : Parts where
  start := fenceStart
  units := fun _ _ => 0
  unit := fun _ s e _ => .ok s e
  finish := fenceFinish

/-- FENCE (R194, R261). -/
def execFence (c : CtxId) (n : Seq) (s : State) : Out := whenUp s (State.runInsn fenceParts (isOp .fence) c n s)

/-! WMARK. -/

/-- A digest of messages whose indices run modulo 2^32 from `i` (R336). -/
def digestWrapped (i : Nat) (ms : List Nat) : Nat :=
  let k := 2 ^ 32 - i % 2 ^ 32
  digestFrom (i % 2 ^ 32) (ms.take k) ^^^ (if ms.length ≤ k then 0 else digestFrom 0 (ms.drop k))

/-- R336: the partial sum of a fold over element codes of entry `f`. -/
def foldSum (f ibase : Nat) (codes : List Nat) : Nat := digestWrapped ibase (codes.map fun v => (0x80 + f) * 2 ^ 56 + v)

/-- Some segment whose lanes a fold of a chip-memory image uses serves nothing (09 R294). -/
def State.foldBusy (s : State) (e : Entry) : Bool :=
  !inVat e.insn.base && (List.range (min 16 ((e.insn.deckle.count + 255) / 256))).any s.segmentBusy

/-- The segments whose lanes fold an image: those that hold it, or for an image in chip memory those of its units (09 R294). -/
def Entry.foldSegments (e : Entry) : List Nat :=
  if inVat e.insn.base then (denseRun e.insn.base (streamC e.fmts e.insn.deckle) 0 e.insn.deckle.count).segments
  else List.range (min 16 ((e.insn.deckle.count + 255) / 256))

/-- The one unit of a fold: its partial sum is kept until it completes. -/
def foldUnit (c : CtxId) (s : State) (e : Entry) : Res :=
  if s.foldBusy e then .wait s
  else
  let d := e.insn.deckle
  let cw := streamC e.fmts d
  let w := (fmtAt e.fmts d.fmt).width
  reading c s e [denseRun e.insn.base cw 0 d.count] fun s1 bs =>
    .ok (s1.useLanes e.foldSegments d.count) { e with rcd := some (leBytes 8 (foldSum d.fmt e.insn.stride (denseCodes cw w 0 d.count bs))) }

/-- The partial sum of a fold that has read its image. -/
def Entry.partialSum (e : Entry) : Quad := BitVec.ofNat 64 (leNat (e.rcd.getD []))

/-- The parts of WMARK OP 0 and 1. (log 23: DEDUCED.) -/
def foldParts (finish : CtxId → State → Entry → State) : Parts where
  start := fun _ s e => checked (streamCheck e.fmts (e.insn.q 1)) s fun _ => .ok s e
  units := fun _ _ => 1
  unit := fun c s e _ => foldUnit c s e
  finish := finish

def foldWeightParts : Parts := foldParts fun c s e => s.upCtx c fun x => { x with digW := x.digW ^^^ e.partialSum }
def foldInputParts : Parts := foldParts fun c s e => s.upCtx c fun x => { x with digI := x.digI ^^^ e.partialSum }

/-- A WMARK of operation `k`. -/
def isWmark (k : Nat) (i : Insn) : Bool := i.op == some .wmark && i.wmarkOp == k

/-- WMARK OP 0 (R336). -/
def execFoldWeight (c : CtxId) (n : Seq) (s : State) : Out := whenUp s (State.runInsn foldWeightParts (isWmark 0) c n s)
/-- WMARK OP 1 (R336). -/
def execFoldInput (c : CtxId) (n : Seq) (s : State) : Out := whenUp s (State.runInsn foldInputParts (isWmark 1) c n s)

/-- R339: the watermark record. -/
def watermarkRecord (e : Entry) (digW digI : Quad) (cls : BitVec 32) : List Byte :=
  leBytes 8 e.digP.toNat ++ leBytes 8 digW.toNat ++ leBytes 8 digI.toNat ++ leBytes 4 cls.toNat ++ leBytes 4 e.chips ++
    leBytes 4 e.step.toNat ++ leBytes 4 1 ++ leBytes 8 (e.digN % 2 ^ 32) ++ leBytes 16 0

def watermarkUnit (c : CtxId) (s : State) (e : Entry) : Res :=
  let x := s.ctx c
  writing (e.insn.carrier c) c s e (some 0) [(run e.insn.base 32, sha256of64 (watermarkRecord e x.digW x.digI s.glob.bitClass))] fun s1 e1 => .ok s1 e1

/-- The weight and input digests are cleared (R256). -/
def State.clearFolds (s : State) (c : CtxId) : State := s.upCtx c fun x => { x with digW := 0, digI := 0 }

/-- The parts of WMARK OP 2. -/
def watermarkParts : Parts where
  start := fun _ s e => .ok s e
  units := fun _ _ => 1
  unit := fun c s e _ => watermarkUnit c s e
  finish := fun c s _ => s.clearFolds c

/-- WMARK OP 2 (R339, R340). -/
def execWriteWatermark (c : CtxId) (n : Seq) (s : State) : Out := whenUp s (State.runInsn watermarkParts (isWmark 2) c n s)

/-- The parts of WMARK OP 3; its program digest restarted at acceptance (R338). -/
def clearParts : Parts where
  start := fun _ s e => .ok s e
  units := fun _ _ => 0
  unit := fun _ s e _ => .ok s e
  finish := fun c s _ => s.clearFolds c

/-- WMARK OP 3 (R338). -/
def execClearDigests (c : CtxId) (n : Seq) (s : State) : Out := whenUp s (State.runInsn clearParts (isWmark 3) c n s)

end Sys2Proof.Machine
end

