-- ==== Sys2Proof/Machine/Front.lean ====
section
/-! DEFINITION. Fronts: how a FRONT begins, its record, its arrival, its count, its exit and its faults (07 R253 to R255; 10 R313 to
R332), and a calibration exchange (R328). -/

namespace Sys2Proof.Machine

/-- An event of CK_FRONT_STAT bit `k` is logged (R321; 12 R413). -/
def State.logFront (s : State) (k : Nat) : State := s.logErr ⟨0x11, 8, 0, k, 0⟩

/-- The parity bit of FRONT_VOUT (R315). -/
def oddParity (w : BitVec 16) : Bool := ((List.range 16).filter fun i => w.getLsbD i).length % 2 == 0

/-- FRONT_ARRIVE and FRONT_CAL fall and FRONT_VOUT is released (R317). -/
def State.lowerArrive (s : State) : State :=
  { s with front := { s.front with arrive := false, cal := false, vout := 0, vopar := true } }

/-- CK_CTX_FINFO of FRONT_TIMEOUT (R325). -/
def State.frontTimeout (s : State) (cause : Nat) : FaultRec :=
  ⟨0x0D, BitVec.ofNat 64 (cause + (s.front.num + 1).toNat * 2 ^ 32)⟩

/-- The FRONT in progress faults: its signals fall, and none of the changes of R255 is made. -/
def State.frontFault (s : State) (a : FrontAct) (f : FaultRec) : State :=
  let s1 := { s.lowerArrive with front := { s.lowerArrive.front with act := none } }
  match (s1.ctx a.ctx).entry a.seq with
  | some e => s1.faultEntry a.ctx e 0 f
  | none => s1

/-- The trail part of a FRONT (R349). -/
def frontTrail (x : Ctx) : List (List Byte) := [leBytes 8 (x.vote.toNat + x.gen.toNat * 2 ^ 16)]

/-- R255 and R314: the front in progress completes with the reduced word. -/
def State.frontComplete (s : State) (a : FrontAct) (word : BitVec 16) : State :=
  match (s.ctx a.ctx).entry a.seq with
  | none => s
  | some e =>
    let s1 := s.lowerArrive.upCtx a.ctx fun x => x.frontChanges word a.cmt
    let f := s1.front
    let s2 := { s1 with
      front := { f with
        act := none
        num := f.num + 1
        arm := if a.kind = FrontKind.forced then false else f.arm
        doneRec := if a.recEn then some (a.ctx, f.reca, a.doneRecord (s1.ctx a.ctx) word) else none }
      korni := { s1.korni with words := if s1.korni.mode = 2 then s1.korni.words.tail else s1.korni.words } }
    let s3 := if a.recEn then s2.askXlat a.ctx recordAccess true (recaPage f.reca) else s2
    let s4 := s3.korniEvent 0x05 a.ctx.val (word.toNat + b2n a.cmt * 2 ^ 16 + b2n (a.kind == FrontKind.forced) * 2 ^ 17)
      (quadBytes [BitVec.ofNat 64 a.num.toNat, BitVec.ofNat 64 a.voteOut.toNat])
    let s5 := s4.trace 4 (some a.ctx) s4.front.num.toNat word.toNat
    ((s5.trail a.ctx a.seq e.insn.opcode (frontTrail (s5.ctx a.ctx))).complete a.ctx e)

/-- A front whose record, if any, is written goes on: it completes, or it arrives and waits, or it is withdrawn because its
context's ENABLE has been cleared (R314, R317, R326). -/
def State.frontEnter (s : State) (a : FrontAct) : State :=
  match a.kind with
  | .domain =>
    if !(s.ctx a.ctx).en then s.frontFault a (s.frontTimeout 2)
    else
      { s with front := { s.front with
          act := some { a with phase := .arrived s.clock }, arrive := true, vout := a.voteOut, vopar := oddParity a.voteOut } }
  | _ => s.frontComplete a a.word

/-- Which kind a FRONT that begins now is (R314; in replay mode, R347). -/
def State.frontKind (s : State) : FrontKind :=
  if s.korni.mode = 2 then .forced else if s.front.arm then .forced else if s.front.enable then .domain else .solitary

/-- The word a forced or solitary front completes with. -/
def State.frontWord (s : State) (voteOut : BitVec 16) : BitVec 16 :=
  if s.korni.mode = 2 then s.korni.words.headD 0 else if s.front.arm then s.front.word else voteOut

/-- The ring has room for the trail record of a FRONT, which follows its FRONT record (10 R346, R349). -/
def State.frontTrailReady (s : State) : Bool := !s.trailOn || (s.korniEvent 0x05 0 0 (quadBytes [0, 0])).korniRoom 32 false

/-- A FRONT may begin: R254; no front or calibration is in progress (R328), and in replay mode a FRONT record remains (R347). (log 41: DEDUCED.) -/
def State.frontReady (s : State) (c : CtxId) (e : Entry) : Bool :=
  (s.ctx c).earlierDone e.seq && s.acked c && s.front.act.isNone && !s.front.calBusy && s.front.doneRec.isNone &&
    (s.korni.mode != 2 || !s.korni.words.isEmpty) && s.frontTrailReady

/-- What a FRONT latches when it begins (R313, R330). -/
def State.frontLatch (s : State) (c : CtxId) (e : Entry) : FrontAct :=
  let x := s.ctx c
  let v := x.voteWord ((e.insn.q 2).bits 15 0)
  { ctx := c, seq := e.seq, kind := s.frontKind, phase := .recording, cmt := e.insn.xf.testBit 0, voteOut := v
    word := s.frontWord v, recEn := s.front.recEn, limit := s.front.limit.toNat, num := s.front.num + 1, genBefore := x.gen
    steps := x.steps }

/-- A FRONT begins (R314, R323, R326, R331); FRONT_TIMEOUT comes before the ROW_FAULT of a bad record address. (log 41: DEDUCED.) -/
def State.frontBegin (s : State) (c : CtxId) (e : Entry) : State :=
  let a := s.frontLatch c e
  let s1 := s.putEntry c { e with phase := .active, started := true }
  if a.kind = .domain ∧ s.front.held then s1.frontFault a (s1.frontTimeout 0)
  else if a.kind = .domain ∧ (s.ctx c).en = false then s1.frontFault a (s1.frontTimeout 2)
  else if a.recEn then
    if s.front.reca.toNat < 2 ^ 32 then s1.frontFault a (addrFault (s.front.reca.toNat, 3))
    else ({ s1 with front := { s1.front with act := some a } } : State).askXlat c recordAccess true (recaPage s.front.reca)
  else s1.frontEnter a

/-- FRONT (R254). -/
def execFront (c : CtxId) (n : Seq) (s : State) : Out :=
  whenUp s <|
    match (s.ctx c).entry n with
    | none => s
    | some e => if isOp .front e.insn && (s.ctx c).mayRun e && s.frontReady c e then s.frontBegin c e else s

/-- The write of the front record ends: its request and its translation are given up, and the next request of the port goes out. A good
write updates the line that holds its bytes (11 R375). -/
def State.recordEnds (s : State) (c : CtxId) (ok : Bool) : State :=
  let s1 := s.dropXlats c recordAccess
  match s.front.sent with
  | none => s1
  | some w =>
    let s2 := ({ s1 with front := { s1.front with sent := none } } : State).sendNext w.port
    if ok then s2.putCells w.cells else s2

/-- Whether the record that is due has been written, once its target has answered: none while its translation or a TAG is still to come.
A translation that fails writes nothing. -/
def State.recordWritten (s : State) (c : CtxId) (a : BitVec 48) (ok : Bool) : Option Bool :=
  match s.xlatAns c recordAccess true (recaPage a) with
  | none => none
  | some t => if t.fault || !t.wperm then some false else if s.front.sent.isSome then some ok else none

/-- FRONT_ARRIVED_WRITTEN (R331). A front that completes with its record waits for the ring to take its trail record (R346). -/
def execFrontArrivedWritten (ok : Bool) (s : State) : Out :=
  whenUp s <|
    match s.front.act with
    | none => s
    | some a =>
      if a.phase = .recording then
        let s1 := (s.askXlat a.ctx recordAccess true (recaPage s.front.reca)).recordStep
        match s1.recordWritten a.ctx s.front.reca ok with
        | none => s1
        | some good =>
          if good && a.kind != FrontKind.domain && !s1.frontTrailReady then s1
          else
            let s2 := s1.recordEnds a.ctx good
            if good then s2.frontEnter a else s2.frontFault a (addrFault (s.front.reca.toNat, 3))
      else s

/-- FRONT_DONE_WRITTEN (R331). -/
def execFrontDoneWritten (ok : Bool) (s : State) : Out :=
  whenUp s <|
    match s.front.doneRec with
    | none => s
    | some (c, at_, _) =>
      let s1 := (s.askXlat c recordAccess true (recaPage at_)).recordStep
      match s1.recordWritten c at_ ok with
      | none => s1
      | some good =>
        let s2 := s1.recordEnds c good
        let s3 := { s2 with front := { s2.front with doneRec := none } }
        if good then s3 else ({ s3 with front := { s3.front with recErr := true } } : State).logFront 5

/-- The wait limit of a front (R311). -/
def waitLimit (n : Nat) : Nat := 2 ^ (n + 16)

/-- A calibration's round trip; a count that CK_FRONT_CAL cannot hold is left open (log 4). -/
def State.rttOf (s : State) (n : Nat) : BitVec 16 :=
  if n < 2 ^ 16 then BitVec.ofNat 16 n else (Config.freeCount 16 s.freeCtr).setWidth 16

/-- FRONT_GO can be counted at the moment `t`: since the previous count it has been delivered as 0 once and as asserted for 8 e-cycles
(R318). -/
def State.countFree (s : State) (t : Nat) : Bool := match s.front.lastCount with | some l => decide (l + 9 ≤ t) | none => true

/-- The moment at which FRONT_ARRIVE rose, for a calibration or an arrival. -/
def State.arriveRose (s : State) : Nat :=
  if s.front.calBusy then s.front.calSince
  else
    match s.front.act with
    | some a => match a.phase with | .arrived since => since | _ => 0
    | none => 0

/-- FRONT_GO_COUNT: FRONT_GO is counted `elapsed` reference e-cycles after FRONT_ARRIVE rose (R318 to R320, R328). -/
def execFrontGoCount (elapsed : Nat) (vin : BitVec 16) (vpar : Bool) (s : State) : Out :=
  whenUp s <|
    if elapsed < 8 || !s.countFree (s.arriveRose + elapsed) then s
    else if s.front.calBusy then
      let s1 := s.moveTo (s.front.calSince + elapsed)
      ({ s1.lowerArrive with
        front := { s1.lowerArrive.front with calBusy := false, calValid := true, rtt := s1.rttOf elapsed, lastCount := some s1.clock } }).fresh
    else
      match s.front.act with
      | none => s
      | some a =>
        match a.phase with
        | .arrived since =>
          if a.limit ≠ 0 ∧ waitLimit a.limit < elapsed then s
          else
            let s1 := s.moveTo (since + elapsed)
            let s2 := { s1 with front := { s1.front with lastCount := some s1.clock } }
            if oddParity vin = vpar then
              { s2 with front := { s2.front with
                  act := some { a with phase := .counted (s2.clock + s2.front.delay.toNat) vin } } }
            else
              (({ s2 with front := { s2.front with parity := true } } : State).logFront 4).frontFault a (uncorrectable 4 12 0)
        | _ => s

/-- FRONT_EXIT (R319). -/
def execFrontExit (s : State) : Out :=
  whenUp s <|
    match s.front.act with
    | some a =>
      match a.phase with
      | .counted exit word => if s.frontTrailReady then (s.moveTo exit).frontComplete a word else s
      | _ => s
    | none => s

/-- STRAY_FRONT_GO (R322). -/
def execStrayFrontGo (s : State) : Out :=
  whenUp s <|
    if s.front.arrive then s
    else
      ({ s with front := { s.front with stray := true, strays := satAdd s.front.strays 1, lastCount := some s.clock } } : State).logFront 1

/-- FRONT_GO_HELD (R323). -/
def execFrontGoHeld (s : State) : Out :=
  whenUp s <|
    match s.front.lastCount with
    | none => s
    | some t =>
      let s1 := s.moveTo (t + 2 ^ 20)
      ({ s1 with front := { s1.front with held := true } } : State).logFront 3

/-- FRONT_WAIT_TIMEOUT (R324). -/
def execFrontWaitTimeout (s : State) : Out :=
  whenUp s <|
    match s.front.act with
    | some a =>
      match a.phase with
      | .arrived since =>
        if a.limit = 0 then s
        else
          let s1 := s.moveTo (since + waitLimit a.limit)
          s1.frontFault a (s1.frontTimeout 1)
      | _ => s
    | none => s

/-- R326: the context's front is withdrawn when its ENABLE is cleared. -/
def State.withdrawFront (s : State) (c : CtxId) : State :=
  match s.front.act with
  | some a =>
    match a.phase with
    | .arrived _ => if a.ctx = c then s.frontFault a (s.frontTimeout 2) else s
    | _ => s
  | none => s

/-- R328: a calibration exchange starts, with ENABLE set and no FRONT begun. -/
def State.startCal (s : State) : State :=
  if s.front.enable && !s.front.calBusy && s.front.act.isNone then
    { s with front := { s.front with
        calBusy := true, calSince := s.clock, arrive := true, cal := true, vout := 0, vopar := true } }
  else s

end Sys2Proof.Machine
end

