-- ==== Sys2Proof/Machine/Ports.lean ====
section
/-! DEFINITION. What tile transfers take from a port and send to one (06 R207), with the Korni records of race ports (10 R345 to
R347) and the fault of a failed port (11 R371). -/

namespace Sys2Proof.Machine

/-- The port of a PORT operand, 1 to 12 (06 R167): stream ports 0 to 7, then race ports 0 to 3. -/
def portOf (n : Nat) : Fin 12 := Fin.ofNat 12 (n - 1)

/-- The port is a race port. -/
def isRace (p : Fin 12) : Bool := decide (8 ≤ p.val)

/-- UNCORRECTABLE at a failed port (R371, 12 R396). -/
def portFault (p : Fin 12) : FaultRec := uncorrectable 4 p.val 0

/-- The digest of a race chunk: each byte a UINT8 message at its position in the chunk (R345, R336). -/
def chunkDigest (bs : List Byte) : Quad :=
  BitVec.ofNat 64 (digestFrom 0 (bs.map fun b => (0x80 + 12) * 2 ^ 56 + b.toNat))

/-- A chunk received live meets the digest record of its port, or goes on waiting for it (R347). A chunk belongs to no context: that DIVCTX is 0
where the first divergence is one (R342) is the model's choice. (log 80: DESIGN CHOICE.) -/
def Korni.compareChunk (k : Korni) (g : Nat × Quad) : Korni :=
  match k.races.find? fun e => e.1 == g.1 && e.2.1 with
  | none => { k with racesGot := k.racesGot ++ [g] }
  | some e =>
    let k1 := { k with races := k.races.erase e }
    if e.2.2 == leBytes 8 g.2.toNat then k1
    else if k1.diverged then k1
    else { k1 with diverged := true, divCtx := 0, divSeq := BitVec.ofNat 16 g.1 }

/-- Compares the chunks received live with the digests of the trace (R347). -/
def Korni.compareRace (k : Korni) : Korni := k.racesGot.foldl Korni.compareChunk { k with racesGot := [] }

/-- The chunk of a race port. -/
def Korni.chunkOf (k : Korni) (r : Nat) : List Byte := (k.chunk[r]?).getD []

/-- The bytes of a RACE record for a chunk at stream position `pos` (R345). -/
def racePayload (full : Bool) (pos : Nat) (bs : List Byte) : List Byte :=
  leBytes 8 pos ++ leBytes 8 bs.length ++ (if full then bs else leBytes 8 (chunkDigest bs).toNat ++ leBytes 8 0)

/-- Race port `r` closes its chunk: recorded in record mode, compared in replay mode with digests (R346, R347). (log 32: DEDUCED.) -/
def State.closeChunk (s : State) (r : Nat) : State :=
  let bs := s.korni.chunkOf r
  if bs.isEmpty then s
  else
    let pos := (s.korni.chunkPos[r]?).getD 0
    let s1 := if s.recording then
        s.korniPut 0x04 0 (r + (if s.korni.raceFull then 0 else 4)) (racePayload s.korni.raceFull pos bs)
      else if s.korni.mode = 2 ∧ s.korni.traceFull = some false then
        { s with korni := ({ s.korni with racesGot := s.korni.racesGot ++ [(r, chunkDigest bs)] } : Korni).compareRace }
      else s
    { s1 with korni := { s1.korni with
        chunk := s1.korni.chunk.setIfInBounds r []
        chunkPos := s1.korni.chunkPos.setIfInBounds r (pos + bs.length) } }

/-- Adds received bytes to a race port's chunk, closing it at every 4,096 bytes; `fuel` bounds the chunks. (log 32: DEDUCED.) -/
def State.addChunk (fuel : Nat) (s : State) (r : Nat) (bs : List Byte) : State :=
  match fuel with
  | 0 => s
  | f + 1 =>
    let have_ := s.korni.chunkOf r
    let k := 4096 - have_.length
    let s1 := { s with korni := { s.korni with chunk := s.korni.chunk.setIfInBounds r (have_ ++ bs.take k) } }
    if bs.length < k then s1 else State.addChunk f (s1.closeChunk r) r (bs.drop k)

/-- The ring has room for the RACE records that `n` more bytes of race port `r` can close (R346). -/
def State.chunkRoom (s : State) (r n : Nat) (last : Bool) : Bool :=
  if s.recording then
    let total := (s.korni.chunkOf r).length + n
    let closes := if last then (total + 4095) / 4096 else total / 4096
    s.korniRoom (closes * (if s.korni.raceFull then 16 + 16 + 4096 else 48)) false
  else true

/-- Bytes of the RACE records held for a race port in a replay with full data (R347). -/
def Korni.heldRace (k : Korni) (r : Nat) : List Byte :=
  (k.races.filter fun e => e.1 == r && !e.2.1).flatMap fun e => e.2.2

/-- Takes `n` bytes from the RACE records of a port. -/
def Korni.takeRace (k : Korni) (r n : Nat) : Korni :=
  let rest := (k.heldRace r).drop n
  let others := k.races.filter fun e => !(e.1 == r && !e.2.1)
  { k with races := if rest.isEmpty then others else (r, false, rest) :: others }

/-- What a port gives a transfer. -/
inductive PortGot where
  | got (bs : List Byte) (s : State)
  | wait
  | failed
  deriving DecidableEq, Repr

/-! Pieces (06 R195, R207). -/

/-- Context `c` may move bytes of a stream: no other context is in the middle of a piece with an instruction that is still at work.
(log 27: DESIGN CHOICE.) -/
def State.pieceFree (s : State) (q : Option PortPiece) (c : CtxId) : Bool :=
  match q with
  | some k => k.ctx == c || !(s.ctx k.ctx).atWork k.seq.toNat
  | none => true

/-- The piece that `n` more bytes of an instruction leave it in the middle of: none where a piece or the transfer ends with them. -/
def pieceAfter (q : Option PortPiece) (c : CtxId) (n : Seq) (len : Nat) (last : Bool) : Option PortPiece :=
  let had := match q with
    | some k => if k.ctx = c ∧ k.seq = n then k.done else 0
    | none => 0
  if last ∨ (had + len) % 512 = 0 then none else some ⟨c, n, (had + len) % 512⟩

/-- The race data of a replay come from the trace: its RACE records hold them (R347). -/
def Korni.givesData (k : Korni) : Bool := k.mode == 2 && k.traceFull == some true

/-- Replay, and no RACE record of the trace has said yet whether it holds data or digests. -/
def Korni.undecided (k : Korni) : Bool := k.mode == 2 && k.traceFull == none

/-- A transfer takes the next `len` bytes of a port; `last` says that its transfer ends with them. In replay a transfer of a race port
waits until a RACE record has shown whether the trace holds its data (R347). (log 67: DEDUCED.) -/
def State.portTake (s : State) (p : Fin 12) (c : CtxId) (m : Seq) (n : Nat) (last : Bool) : PortGot :=
  let r := p.val - 8
  if !s.pieceFree (s.port p).inPiece c || (isRace p && s.korni.undecided) then .wait
  else if isRace p && s.korni.givesData then
    let h := s.korni.heldRace r
    if h.length < n then .wait else .got (h.take n) { s with korni := s.korni.takeRace r n }
  else if (s.port p).fail then .failed
  else
    let q := (s.port p).inq
    if q.length < n then .wait
    else
      let s1 := s.upPort p fun x => { x with inq := x.inq.drop n, inPiece := pieceAfter x.inPiece c m n last }
      if isRace p then
        if s.chunkRoom r n last then
          let s2 := State.addChunk (n / 4096 + 2) s1 r (q.take n)
          .got (q.take n) (if last then s2.closeChunk r else s2)
        else .wait
      else .got (q.take n) s1

/-- A transfer of master `m` sends bytes to a port; the write is acknowledged when the beat with its last byte has transferred (11 R358).
Those that wait for an identifier stand in the stream behind the bytes that the port has (R357). (log 27: DESIGN CHOICE.)
(log 75: DESIGN CHOICE.) -/
def State.portPut (s : State) (m : Nat) (p : Fin 12) (c : CtxId) (n : Seq) (bs : List Byte) (last : Bool) : State :=
  let pos := (s.port p).putPos + bs.length
  let s1 := s.upPort p fun x =>
    { x with outq := x.outq ++ bs, putPos := pos, outPiece := pieceAfter x.outPiece c n bs.length last }
  if bs.isEmpty then s1 else { s1 with unacked := s1.unacked ++ [⟨c, n, .port p pos, some m⟩] }

end Sys2Proof.Machine
end

