-- ==== Sys2Proof/Machine/Stages.lean ====
section
/-! DEFINITION. From a pull map to the stages of the fabric and the check value of a span (04 R127 to R133, 05 R147, R156). -/

namespace Sys2Proof.Machine

/-- R128: the stream container width. -/
def streamBits (c : Nat) : Nat := if c ≤ 4 then 4 else if c ≤ 8 then 8 else if c ≤ 16 then 16 else 32

/-- R128: elements per word. -/
def wordElems (c : Nat) : Nat := 32 / streamBits c

/-- The classes of R130. -/
inductive Class where
  | granule
  | word
  | linear
  | spread
  deriving DecidableEq, Repr

/-- R130: every destination element pulls from the source granule of its own number. -/
def granuleTest (w n : Nat) (pi : Array Nat) : Bool :=
  (List.range n).all fun d => pi.getD d 0 / (8 * w) == d / (8 * w)

/-- R130: the word test. -/
def wordTest (w n : Nat) (pi : Array Nat) : Bool :=
  n % w == 0 && (List.range n).all fun d => pi.getD d 0 == pi.getD (d / w * w) 0 + d % w && pi.getD (d / w * w) 0 % w == 0

/-- The stages of R131 as maps on stream indices: D1, then C1, then D2, with C2 and D3 behind the check. -/
structure Stages where
  d1 : List Nat
  c1 : List Nat
  d2 : List Nat
  k : List Nat
  d3 : List Nat
  u : Nat
  h : Nat
  deriving DecidableEq, Repr

/-- A scan that keeps the vectors independent of those kept before: positions kept, at most `most` of them. -/
def keepScan (most : Nat) : List (Nat × Nat) → List (Nat × Nat) → List Nat → List Nat
  | [], _, kept => kept.reverse
  | (j, v) :: r, basis, kept =>
    if most ≤ kept.length then kept.reverse
    else
      let x := basis.foldl (fun a p => if a.testBit p.1 then a ^^^ p.2 else a) v
      if x = 0 then keepScan most r basis kept
      else keepScan most r (basis ++ [(Nat.log2 x, x)]) (j :: kept)

/-- Independent positions of a list of (position, vector), after the vectors `first`. -/
def keepAfter (most : Nat) (first : List Nat) (vs : List (Nat × Nat)) : List Nat :=
  let basis := first.foldl
    (fun (b : List (Nat × Nat)) v =>
      let x := b.foldl (fun a p => if a.testBit p.1 then a ^^^ p.2 else a) v
      if x = 0 then b else b ++ [(Nat.log2 x, x)]) []
  keepScan most vs basis []

/-- Coordinates of `v` over the independent vectors `rs`, as a number whose bit i is the coordinate of the i-th. -/
def coordsOver (rs : List Nat) (v : Nat) : Nat :=
  let basis := ((List.range rs.length).zip rs).foldl
    (fun (b : List (Nat × Nat × Nat)) p =>
      let x := b.foldl (fun (a : Nat × Nat) q => if a.1.testBit q.1 then (a.1 ^^^ q.2.1, a.2 ^^^ q.2.2) else a) (p.2, 2 ^ p.1)
      b ++ [(Nat.log2 x.1, x.1, x.2)]) []
  (basis.foldl (fun (a : Nat × Nat) q => if a.1.testBit q.1 then (a.1 ^^^ q.2.1, a.2 ^^^ q.2.2) else a) (v, 0)).2

/-- R131: the stages of the linear pull map `a` over `n` bits, with `h` sub-lane bits. -/
def linearStages (n h : Nat) (a : Linear) : Stages :=
  let g := h + 3
  let q := (matInv n a.cols).getD []
  let u := matApply q a.cpl
  let idx := List.range n
  -- steps 1 and 2
  let kept := keepAfter h [] (idx.map fun j => (j, q.getD j 0 % 2 ^ h))
  let ws := kept.filter fun j => decide (h ≤ j)
  let others := idx.filter fun j => decide (h ≤ j) && !ws.contains j
  let orderHi := ws ++ others
  let d1 := idx.map fun j => if j < h then 2 ^ j else 2 ^ (h + orderHi.idxOf j)
  let d1i := (matInv n d1).getD []
  -- step 3
  let qd := matMul q d1i
  let tRows := (List.range h).map fun k => matRow qd k
  let fill := keepAfter 3 (tRows.map fun t => t % 2 ^ g) ((List.range g).map fun j => (j, 2 ^ j))
  let c1Rows := tRows ++ (fill.map fun j => 2 ^ j) ++ ((List.range (n - g)).map fun i => 2 ^ (g + i))
  let c1 := colsOfRows n c1Rows
  let c1i := (matInv n c1).getD []
  -- steps 4 to 7
  let r := matMul qd c1i
  let ws' := (r.take h).map fun c => c / 2 ^ h
  let ww := (r.drop h).map fun c => c / 2 ^ h
  let rKept := keepAfter h [] ((List.range h).zip ws')
  let rs := rKept.map fun j => ws'.getD j 0
  let units := keepAfter (n - h - rs.length) rs ((List.range (n - h)).map fun j => (j, 2 ^ j))
  let p3 := rs ++ units.map fun j => 2 ^ j
  let k := ws'.map fun v => coordsOver rs v
  -- steps 8 to 10
  let p2 := matMul ((matInv (n - h) p3).getD []) ww
  let lift (m : List Nat) : List Nat := (List.range h).map (fun j => 2 ^ j) ++ m.map fun c => c * 2 ^ h
  { d1 := d1, c1 := c1, d2 := lift p2, k := k, d3 := lift p3, u := u, h := h }

/-- The index at which stage D2 delivers the element of stream index `s`. -/
def Stages.afterD2 (t : Stages) (s : Nat) : Nat := matApply t.d2 (matApply t.c1 (matApply t.d1 s))

/-- C2 of step 9. -/
def Stages.c2 (t : Stages) (x : Nat) : Nat :=
  (x ^^^ (matApply t.k (x % 2 ^ t.h) * 2 ^ t.h)) ^^^ (t.u % 2 ^ t.h)

/-- D3 of step 10. -/
def Stages.d3Map (t : Stages) (x : Nat) : Nat := matApply t.d3 x ^^^ (t.u / 2 ^ t.h * 2 ^ t.h)

/-- R130 for a map over `n` elements; `lin` is its affine form when the linear test's first half holds. -/
def classOf (w n : Nat) (pi : Array Nat) (lin : Option Linear) : Class :=
  if granuleTest w n pi then .granule
  else if wordTest w n pi then .word
  else if lin.isSome ∧ 8 * w < n then .linear
  else .spread

/-- Words of `w` codes each, of `c` bits, the last filled with zeros (R147). -/
def wordsOf (c w : Nat) : Nat → List Nat → List Nat
  | 0, _ => []
  | k + 1, cs => match cs with
    | [] => []
    | _ => ((List.range w).foldl (fun a j => a + (cs.getD j 0 % 2 ^ c) * 2 ^ (c * j)) 0) :: wordsOf c w k (cs.drop w)

/-- R147: the words D2 must deliver to positions 0, 1, … of a round. `codes` are the source elements in stream order, `pi` the
pull map, `cw` the container width. -/
def roundWords (cw n : Nat) (pi : Array Nat) (lin : Option Linear) (codes : Array Nat) : List Nat :=
  let c := streamBits cw
  let w := wordElems cw
  let dest := (List.range n).map fun d => codes.getD (pi.getD d 0) 0
  match classOf w n pi lin with
  | .granule => wordsOf c w n dest
  | .word => wordsOf c w n dest
  | .spread => dest.map fun x => x % 2 ^ c
  | .linear =>
    let t := linearStages (Nat.log2 n) (Nat.log2 w) (lin.getD ⟨[], 0⟩)
    let out := (List.range n).foldl
      (fun (a : Array Nat) s => a.setIfInBounds (t.afterD2 s) (codes.getD s 0)) (Array.replicate n 0)
    wordsOf c w n out.toList

/-- The affine form of a bare map, when it has one: the map of R127's scale round, and of the units of a two-sweep SPERM, to which
04 R141 gives no class. (log 35: DEDUCED.) -/
def bareLinear (n : Nat) (pi : Array Nat) : Option Linear :=
  if isPow2 n then
    let a := linearOf (Nat.log2 n) fun x => pi.getD x 0
    if (List.range n).all fun x => a.apply x == pi.getD x 0 then some a else none
  else none

/-- The affine form of a linear chain (R124). -/
def chainLinear (c : Chain) (n : Nat) (pi : Array Nat) : Option Linear :=
  if c.isLinear && isPow2 n then some (linearOf (Nat.log2 n) fun x => pi.getD x 0) else none

end Sys2Proof.Machine
end

