-- ==== Sys2Proof/Machine/Tile.lean ====
section
/-! DEFINITION. The tile instructions TLD, TLD.G, TST, TMOV, TREL, TSAVE and TRESTORE (03 R92 to R105; 06 R205 to R210). -/

namespace Sys2Proof.Machine

/-! Images. -/

/-- An image of R92: where its lines and scale lines lie. -/
structure Image where
  base : Int
  stride : Int
  sbase : Int
  sstride : Int
  deriving DecidableEq, Repr

/-- The image of a TLD or TST (R204, R205). -/
def Insn.image (i : Insn) : Image :=
  { base := i.base, stride := i.stride, sbase := (i.base : Int) + i.sbaseOff, sstride := i.hi16 }

/-- The image of a TLD.G (R208). -/
def Insn.gustImage (i : Insn) : Image :=
  let d := i.deckle
  { base := i.base, stride := i.hi16, sbase := (i.base : Int) + (d.lines * i.hi16 : Nat), sstride := d.scaleLineBytes }

/-- The address of an image byte, and whether its image lies in the Vat (R92, R98, R205). -/
def Image.place (m : Image) (b : ImgByte) : Int × Bool :=
  if b.scale then (m.sbase + b.line * m.sstride + b.off, inVat m.base || inVat m.sbase)
  else (m.base + b.line * m.stride + b.off, inVat m.base)

/-- Adds a byte before a list of runs. -/
def addByte (p : Int × Bool) : List Run → List Run
  | [] => [⟨p.1, 1, p.2⟩]
  | r :: rest => if p.1 + 1 = r.addr ∧ p.2 = r.vat then ⟨p.1, r.len + 1, r.vat⟩ :: rest else ⟨p.1, 1, p.2⟩ :: r :: rest

/-- Bytes in order as runs. -/
def runsOf (ps : List (Int × Bool)) : List Run := ps.foldr addByte []

/-- Shares out bytes to runs, in order. -/
def shareOut : List Run → List Byte → List (Run × List Byte)
  | [], _ => []
  | r :: rest, bs => (r, bs.take r.len) :: shareOut rest (bs.drop r.len)

/-- Slot `k`'s runs in an image. -/
def Image.slotRuns (m : Image) (sh : Shape) (k : Nat) : List Run := runsOf ((slotImgBytes sh k).map m.place)

/-- The 256 bytes of slot `k` from the image bytes it takes, the rest zero (R84, R93). -/
def slotOf (sh : Shape) (k : Nat) (bs : List Byte) : List Byte :=
  (((slotImgBytes sh k).zip bs).foldl
    (fun (a : Array Byte) p => a.setIfInBounds (p.1.tile - 256 * k) (if p.1.scale then p.2 else maskContainer sh p.1.off p.2))
    (Array.replicate 256 0)).toList

/-- The image bytes of slot `k` of a tile laid out whole. -/
def slotImage (sh : Shape) (tile : Array Byte) (k : Nat) : List Byte :=
  (slotImgBytes sh k).map fun b => tile.getD b.tile 0

/-- The shape of an instruction's own deckle under the entries it latched. -/
def Entry.shape (e : Entry) : Shape := shapeOf e.fmts e.insn.deckle

/-! TLD (R205). -/

/-- R91 and R97 for a transfer into tiles, then R86. -/
def startLoad (own : Entry → Option FaultRec) (dests : List (Nat × Nat)) (s : State) (e : Entry) : Res :=
  checked (firstOf (own e) fun _ =>
      firstOf (if 0 < e.first then s.laterCheck (e.insn.q 1) dests else none) fun _ => s.outCheck e.insn.operandTiles) s
    fun _ => .ok (dests.foldl (fun s d => s.beginTile d.1 (e.insn.q 1)) s) { e with wrote := true }

/-- The legality of an instruction's one deckle word. -/
def ownWord (e : Entry) : Option FaultRec := ownCheck e.fmts [e.insn.q 1]

def tldUnit (s : State) (c : CtxId) (e : Entry) (k : Nat) : Res :=
  let sh := e.shape
  let td := e.insn.td
  if e.insn.port = 0 then
    reading c s e (e.insn.image.slotRuns sh k) fun s1 bs => .ok (s1.putTile td (256 * k) (slotOf sh k bs)) e
  else if k ≠ e.upTo then .wait s
  else
    match s.portTake (portOf e.insn.port) c e.seq (slotImgBytes sh k).length (decide (k + 1 = sh.slots)) with
    | .got bs s1 => .ok (s1.putTile td (256 * k) (slotOf sh k bs)) e
    | .wait => .wait s
    | .failed => .fault (portFault (portOf e.insn.port)) s

/-- TLD's parts. -/
def tldParts : Parts where
  start := fun _ s e => startLoad ownWord [(e.insn.td, 0)] s e
  units := fun _ e => e.shape.slots
  unit := fun c s e k => tldUnit s c e k
  finish := fun _ s e => s.endTile e.insn.td (e.insn.q 1)

/-- TLD (R205). -/
def execTld (c : CtxId) (n : Seq) (s : State) : Out := whenUp s (State.runInsn tldParts (isOp .tld) c n s)

/-! TLD.G (R99, R208). -/

/-- The receiving tiles with their operand numbers: TD first, then the others ascending (R199). -/
def Insn.receivers (i : Insn) : List (Nat × Nat) :=
  (i.td, 0) :: ((reamTiles i.td (i.q 3)).filter fun t => t != i.td).map fun t => (t, 4)

/-- The words of slot `k` of a TMOV or TLD.G at their tile word positions (05 R147, R156). -/
def slotCheck (k : Nat) (slot : List Byte) : Quad :=
  BitVec.ofNat 64 (routeSum (64 * k) ((List.range 64).map fun i => leNat ((slot.drop (4 * i)).take 4)))

def tldGUnit (s : State) (c : CtxId) (e : Entry) (k : Nat) : Res :=
  let sh := e.shape
  reading c s e (e.insn.gustImage.slotRuns sh k) fun s1 bs =>
    let slot := slotOf sh k bs
    .ok (e.insn.receivers.foldl (fun s d => s.putTile d.1 (256 * k) slot) s1) { e with rchk := e.rchk + slotCheck k slot }

/-- An instruction that crosses planes and was accepted after the one with sequence number `n` has completed. (log 64: DEDUCED.) -/
def Ctx.crossedLater (x : Ctx) (n : Seq) : Bool :=
  ((x.window.dropWhile fun e => e.seq != n).drop 1).any fun e => e.phase == .completed && e.insn.op.any Op.crossesPlane

/-- CK_CTX_RCHK at the completion of an instruction that crosses planes: it holds the value of the last of them in program order
(05 R160; 06 R191). (log 64: DEDUCED.) -/
def State.putRchk (s : State) (c : CtxId) (e : Entry) : State :=
  s.upCtx c fun x => { x with rchk := if x.crossedLater e.seq then x.rchk else e.rchk }

/-- TLD.G's parts. -/
def tldGParts : Parts where
  start := fun _ s e => startLoad ownWord e.insn.receivers s e
  units := fun _ e => e.shape.slots
  unit := fun c s e k => tldGUnit s c e k
  finish := fun c s e => (e.insn.receivers.foldl (fun s d => s.endTile d.1 (e.insn.q 1)) s).putRchk c e

/-- TLD.G (R208). -/
def execTldG (c : CtxId) (n : Seq) (s : State) : Out := whenUp s (State.runInsn tldGParts (isOp .tldG) c n s)

/-! TST (R206). -/

/-- The source operand TA read with word `w`. -/
def Insn.srcA (i : Insn) (w : Quad) : Operand := ⟨i.ta, 1, w, i.reint⟩

/-- The first element, by element index, of each group of a deckle. -/
def groupFirsts (d : Deckle) : Array Nat :=
  (List.range d.count).reverse.foldl (fun (a : Array Nat) k => a.setIfInBounds (d.groupOf k) k) (Array.replicate d.groups 0)

/-- R206: each group of the image consists of elements of one group of the recorded deckle. -/
def groupsAgree (own recorded : Deckle) : Bool :=
  let f := groupFirsts own
  (List.range own.count).all fun k => recorded.groupOf k == recorded.groupOf (f.getD (own.groupOf k) 0)

/-- R206's test on TST. -/
def State.tstGroups (s : State) (e : Entry) : Option FaultRec :=
  let own := e.insn.deckle
  if own.group ≠ 0 ∧ e.insn.reint = false ∧ groupsAgree own (deckleOf (s.tile e.insn.ta).deckle) = false then
    some (deckleMismatch (tileInfo e.insn.ta 1 0))
  else none

/-- The checks of an instruction that reads tile TA with its one deckle word. (log 29: DEDUCED.) -/
def State.srcChecks (s : State) (e : Entry) (own : Option FaultRec) (more : Unit → Option FaultRec) : Option FaultRec :=
  let src := e.insn.srcA (e.insn.q 1)
  firstOf own fun _ => firstOf (s.recordedCheck e.fmts [src]) fun _ => firstOf (s.readChecks e.fmts [src]) fun _ =>
    firstOf (more ()) fun _ => s.outCheck e.insn.operandTiles

/-- The tile TA as a reader with the instruction's deckle lays it out (R88, R89, R206). -/
def State.relaid (s : State) (e : Entry) : Array Byte :=
  let src := e.insn.srcA (e.insn.q 1)
  let own := e.shape
  let scales :=
    if own.d.group = 0 then #[]
    else if src.reint then s.srcScales e.fmts src
    else
      let rd := (s.srcShape e.fmts src).d
      let sc := s.srcScales e.fmts src
      (groupFirsts own.d).map fun k => sc.getD (rd.groupOf k) 0
  (layTile own (s.srcCodes e.fmts src) scales).toArray

def tstUnit (s : State) (c : CtxId) (e : Entry) (k : Nat) : Res :=
  let sh := e.shape
  let bs := slotImage sh (s.relaid e) k
  if e.insn.port = 0 then
    writing (e.insn.carrier c) c s e (some 0) (shareOut (e.insn.image.slotRuns sh k) bs) fun s1 e1 => .ok s1 e1
  else if k ≠ e.upTo then .wait s
  else if (s.port (portOf e.insn.port)).fail then .fault (portFault (portOf e.insn.port)) s
  else if s.pieceFree (s.port (portOf e.insn.port)).outPiece c then
    .ok (s.portPut (e.insn.master c) (portOf e.insn.port) c e.seq bs (decide (k + 1 = sh.slots))) { e with wrote := true }
  else .wait s

/-- TST's parts. -/
def tstParts : Parts where
  start := fun _ s e => checked (s.srcChecks e (ownWord e) fun _ => s.tstGroups e) s fun _ => .ok s e
  units := fun _ e => e.shape.slots
  unit := fun c s e k => tstUnit s c e k
  finish := fun _ s e => s.lastUses [] [(e.insn.ta, e.insn.lastA)]

/-- TST (R206). -/
def execTst (c : CtxId) (n : Seq) (s : State) : Out := whenUp s (State.runInsn tstParts (isOp .tst) c n s)

/-! TMOV (R100, R209). -/

/-- The deckle a TMOV's destination records (R100). -/
def State.movedWord (s : State) (e : Entry) : Quad := if e.insn.reint then e.insn.q 1 else (s.tile e.insn.ta).deckle

/-- The word that a TMOV recorded as it began. -/
def Entry.movedTo (e : Entry) : Quad := BitVec.ofNat 64 (leNat (e.rcd.getD []))

/-- A TMOV's destination takes its state before its slots move; where source and destination are one tile the state changes at
the end, since the bytes stay and the tile is still to be read. -/
def tmovStart (s : State) (e : Entry) : Res :=
  checked (s.srcChecks e (ownWord e) fun _ => none) s fun _ =>
    let e1 := { e with rcd := some (leBytes 8 (s.movedWord e).toNat) }
    if e.insn.td = e.insn.ta then .ok s e1
    else .ok (s.beginTile e.insn.td (s.movedWord e)) { e1 with wrote := true }

/-- The shape whose footprint slots a TMOV copies. -/
def State.movedShape (s : State) (e : Entry) : Shape := s.srcShape e.fmts (e.insn.srcA (e.insn.q 1))

def tmovUnit (s : State) (e : Entry) (k : Nat) : Res :=
  let slot := s.tileBytes e.insn.ta (256 * k) 256
  .ok (s.putTile e.insn.td (256 * k) slot) { e with rchk := e.rchk + slotCheck k slot, wrote := true }

/-- TMOV's completion: the copy is whole, and a moved source is left empty (R90, R100). -/
def tmovFinish (c : CtxId) (s : State) (e : Entry) : State :=
  let s1 := if e.insn.td = e.insn.ta then
      s.upTile e.insn.td fun _ => { deckle := e.movedTo, inUse := true, incomplete := false, lost := false }
    else s.endTile e.insn.td e.movedTo
  (s1.lastUses [e.insn.td] [(e.insn.ta, e.insn.lastA)]).putRchk c e

/-- TMOV's parts. -/
def tmovParts : Parts where
  start := fun _ s e => tmovStart s e
  units := fun s e => (s.movedShape e).slots
  unit := fun _ s e k => tmovUnit s e k
  finish := tmovFinish

/-- TMOV (R209). -/
def execTmov (c : CtxId) (n : Seq) (s : State) : Out := whenUp s (State.runInsn tmovParts (isOp .tmov) c n s)

/-! TREL (R105). -/

/-- TREL's parts. -/
def trelParts : Parts where
  start := fun _ s e => .ok s e
  units := fun _ _ => 0
  unit := fun _ s e _ => .ok s e
  finish := fun _ s e => s.lastUse e.insn.td

/-- TREL (R105). -/
def execTrel (c : CtxId) (n : Seq) (s : State) : Out := whenUp s (State.runInsn trelParts (isOp .trel) c n s)

/-! TSAVE and TRESTORE (R101 to R104, R210). -/

/-- A save area header entry (R101). -/
structure SaveEntry where
  deckle : Quad
  word : Quad
  deriving DecidableEq, Repr

def SaveEntry.inUse (h : SaveEntry) : Bool := h.word.bit 0
def SaveEntry.incomplete (h : SaveEntry) : Bool := h.word.bit 1
def SaveEntry.lost (h : SaveEntry) : Bool := h.word.bit 2
def SaveEntry.slots (h : SaveEntry) : Nat := h.word.bits 15 8
/-- The tile holds data in the area. -/
def SaveEntry.live (h : SaveEntry) : Bool := h.inUse && !h.lost

/-- The slot count of a deckle word. -/
def slotsOf (prog : List Quad) (q : Quad) : Nat := (shapeOf prog (deckleOf q)).slots

/-- The entry TSAVE writes for tile TD + k (R102). -/
def State.saveEntry (s : State) (e : Entry) (k : Nat) : SaveEntry :=
  if (e.insn.q 3).getLsbD k then
    let t := s.tile (e.insn.td + k)
    let n := if t.inUse && !t.lost then slotsOf e.fmts t.deckle else 0
    ⟨t.deckle, BitVec.ofNat 64 (b2n t.inUse + b2n t.incomplete * 2 + b2n t.lost * 4 + n * 256)⟩
  else ⟨0, 0⟩

/-- The header of a TSAVE, as the tiles stand when it begins. -/
def State.saveHeader (s : State) (e : Entry) : List SaveEntry := (List.range 64).map (s.saveEntry e)

/-- The header that a TSAVE formed or a TRESTORE read when it began. -/
def Entry.header (e : Entry) : List SaveEntry :=
  let bs := e.rcd.getD []
  (List.range 64).map fun k =>
    ⟨BitVec.ofNat 64 (leNat ((bs.drop (16 * k)).take 8)), BitVec.ofNat 64 (leNat ((bs.drop (16 * k + 8)).take 8))⟩

/-- The tile and slot of each data unit of a save area, in order. -/
def saveData (hs : List SaveEntry) : List (Nat × Nat) :=
  (List.range hs.length).flatMap fun k => (List.range (hs.getD k ⟨0, 0⟩).slots).map fun j => (k, j)

/-- Bytes of a header. -/
def headerBytes (hs : List SaveEntry) : List Byte := hs.flatMap fun h => leBytes 8 h.deckle.toNat ++ leBytes 8 h.word.toNat

/-- The 256 bytes of a save area at unit `k`. -/
def areaRun (i : Insn) (k : Nat) : Run := runAt i.base ((i.base : Int) + (256 * k : Nat)) 256

/-- R85 for the tiles a TSAVE saves: a live masked tile whose recorded deckle is illegal. -/
def State.saveCheck (s : State) (i : Insn) : Option FaultRec :=
  ((maskList (i.q 3)).find? fun k =>
    let t := s.tile (i.td + k)
    t.inUse && !t.lost && !wordLegal s.fmtProg t.deckle).map fun k => deckleIllegalFault (tileInfo (i.td + k) 5 k)

/-- The 256 bytes of unit `k` of a save area. The data of a tile whose engine has gone out of service since the TSAVE began are open (12
R398). -/
def State.saveBytes (s : State) (e : Entry) (k : Nat) : List Byte :=
  if k < 4 then ((e.rcd.getD []).drop (256 * k)).take 256
  else
    let p := (saveData e.header).getD (k - 4) (0, 0)
    if (s.tile (e.insn.td + p.1)).lost then freeBytes s.freeCtr 256 else s.tileBytes (e.insn.td + p.1) (256 * p.2) 256

def tsaveUnit (s : State) (c : CtxId) (e : Entry) (k : Nat) : Res :=
  writing (e.insn.carrier c) c s e (some 0) [(areaRun e.insn k, s.saveBytes e k)] fun s1 e1 => .ok s1.fresh e1

/-- The format entries of the recorded deckles that a TSAVE saves data under. -/
def State.savedFmts (s : State) (i : Insn) : List Nat :=
  (maskList (i.q 3)).filterMap fun k =>
    let t := s.tile (i.td + k)
    if t.inUse && !t.lost then some (deckleOf t.deckle).fmt else none

/-- TSAVE names no format entry: it reads those of the recorded deckles when it begins (12 R405), and checks and saves under them as they stand
then. (log 22: DEDUCED.) -/
def tsaveStart (s : State) (e : Entry) : Res :=
  let ns := s.savedFmts e.insn
  let s1 := s.compareAll (fmtRegs ns)
  let e1 := { e with fmts := s1.fmtProg }
  checked (firstOf (s1.entriesBad ns) fun _ => firstOf (s1.saveCheck e.insn) fun _ => s1.engineMapFault e.insn) s1 fun _ =>
    .ok s1 { e1 with rcd := some (headerBytes (s1.saveHeader e1)) }

/-- TSAVE's parts. -/
def tsaveParts : Parts where
  start := fun _ s e => tsaveStart s e
  units := fun _ e => 4 + (saveData e.header).length
  unit := fun c s e k => tsaveUnit s c e k
  finish := fun _ s _ => s

/-- TSAVE (R102). -/
def execTsave (c : CtxId) (n : Seq) (s : State) : Out := whenUp s (State.runInsn tsaveParts (isOp .tsave) c n s)

/-- R103: a checked entry that fails. In the deckle word of an entry that holds no data, bits 63:33 are recorded as they stand and are no
reserved bits of the entry. That a live entry whose word is ill-formed by R77 alone, GAXIS 1 with GROUP 0, fails too is the model's choice.
(log 22: DEDUCED.) (log 76: DESIGN CHOICE.) -/
def badEntry (prog : List Quad) (h : SaveEntry) : Bool :=
  h.word.bits 7 3 != 0 || h.word.bits 63 16 != 0 ||
  (if h.live then !(deckleWellFormed h.deckle && wordLegal prog h.deckle) || h.slots != slotsOf prog h.deckle
   else h.slots != 0)

/-- R103 over the masked entries. (log 22: DEDUCED.) -/
def headerCheck (prog : List Quad) (i : Insn) (hs : List SaveEntry) : Option FaultRec :=
  ((maskList (i.q 3)).find? fun k => badEntry prog (hs.getD k ⟨0, 0⟩)).map fun k =>
    deckleIllegalFault (tileInfo (i.td + k) 5 k)

/-- The state each masked tile takes before data moves (R103): of an entry with IN_USE and LOST both set, IN_USE clear. (log 22: DEDUCED.) -/
def State.restoreState (s : State) (i : Insn) (hs : List SaveEntry) : State :=
  (maskList (i.q 3)).foldl (fun s k =>
    let h := hs.getD k ⟨0, 0⟩
    s.upTile (i.td + k) fun _ =>
      if h.live then { deckle := h.deckle, inUse := true, incomplete := true, lost := false }
      else { deckle := h.deckle, inUse := false, incomplete := h.incomplete, lost := h.lost }) s

/-- The units of tile TD + j in a save area. -/
def Entry.unitsOf (e : Entry) (j : Nat) : List Nat :=
  let d := saveData e.header
  (List.range d.length).filterMap fun i => if (d.getD i (0, 0)).1 = j then some (i + 4) else none

/-- A restored tile takes its entry's state, INCOMPLETE too, after its slots have committed (R103, R108). -/
def State.settleTile (e : Entry) (s : State) (j : Nat) : State :=
  let h := e.header.getD j ⟨0, 0⟩
  if h.live && (e.unitsOf j).all e.unitDone then
    s.upTile (e.insn.td + j) fun t => { t with deckle := h.deckle, inUse := true, incomplete := h.incomplete }
  else s

/-- The first unit of the header whose read does not proceed by itself, with what it meets (R96, R104). -/
def State.headerStop (c : CtxId) (e : Entry) : State → List Nat → Option (Nat × Reach)
  | _, [] => none
  | s, k :: r =>
    match s.reachRead c e.seq.toNat [areaRun e.insn k] with
    | .ok s1 =>
      match s1.readHit c e [areaRun e.insn k] with
      | .ok s2 => State.headerStop c e s2 r
      | x => some (k, x)
    | x => some (k, x)

/-- The format entries of the deckles that a TRESTORE restores data under. -/
def Entry.restoredFmts (e : Entry) : List Nat :=
  (maskList (e.insn.q 3)).filterMap fun k =>
    let h := e.header.getD k ⟨0, 0⟩
    if h.live then some (deckleOf h.deckle).fmt else none

/-- The header has been read: the format entries that it names are read (12 R405), its checks follow, and the tiles take their state. -/
def trestoreChecked (s0 : State) (e0 : Entry) : Res :=
  let s := s0.compareAll (fmtRegs e0.restoredFmts)
  let e := { e0 with fmts := s.fmtProg }
  checked (firstOf (s.entriesBad e.restoredFmts) fun _ => firstOf (headerCheck e.fmts e.insn e.header) fun _ =>
    s.outCheck e.insn.operandTiles) s fun _ =>
    .ok ((maskList (e.insn.q 3)).foldl (State.settleTile e) (s.restoreState e.insn e.header)) { e with wrote := true }

/-- The four units of the header. -/
def headerRuns (i : Insn) : List Run := (List.range 4).map (areaRun i)

/-- A header that is not read whole: no tile takes state from it (R103), and the lowest unit whose read fails decides. -/
def trestoreStopped (c : CtxId) (s : State) (e : Entry) (r : Res) : Res :=
  match State.headerStop c e s (List.range 4) with
  | some (_, .wait s1) => .wait s1
  | some (k, .fault f s1) => if e.upTo < k then .ok s1 (e.failUnit k f) else .fault f s1
  | _ => r

/-- TRESTORE reads and checks the whole header at every issue (R103, R104), unit by unit: where the read of a unit faults, those of the units
below it have been made, and the completed count is that unit where it lies above FIRST (R96). (log 22: DEDUCED.) -/
def trestoreStart (c : CtxId) (s : State) (e : Entry) : Res :=
  match s.reachRead c e.seq.toNat (headerRuns e.insn) with
  | .wait s1 => .wait s1
  | .ok s1 =>
    match s1.readHit c e (headerRuns e.insn) with
    | .ok s2 =>
      trestoreChecked (s2.demand c e.seq.toNat (headerRuns e.insn))
        { e with rcd := some (s1.readBytes c e.seq.toNat (headerRuns e.insn)) }
    | .wait s2 => trestoreStopped c s e (.wait s2)
    | .fault f s2 => trestoreStopped c s e (.fault f s2)
  | .fault f s1 => trestoreStopped c s e (.fault f s1)

/-- A data unit of TRESTORE; entries whose mask bit is clear keep their data in the area. -/
def trestoreUnit (s : State) (c : CtxId) (e : Entry) (k : Nat) : Res :=
  if k < 4 then .ok s e
  else
    let p := (saveData e.header).getD (k - 4) (0, 0)
    if (e.insn.q 3).getLsbD p.1 then
      reading c s e [areaRun e.insn k] fun s1 bs =>
        .ok (State.settleTile (e.commitUnit k) (s1.putTile (e.insn.td + p.1) (256 * p.2) bs) p.1) e
    else .ok s e

/-- TRESTORE's parts. -/
def trestoreParts : Parts where
  start := fun c s e => trestoreStart c s e
  units := fun _ e => 4 + (saveData e.header).length
  unit := fun c s e k => trestoreUnit s c e k
  finish := fun _ s _ => s

/-- TRESTORE (R103). -/
def execTrestore (c : CtxId) (n : Seq) (s : State) : Out := whenUp s (State.runInsn trestoreParts (isOp .trestore) c n s)

end Sys2Proof.Machine
end

