-- ==== Sys2Proof/Machine/Perm.lean ====
section
/-! DEFINITION. PERM, PERM.X and SPERM (04 R110 to R144; 06 R211, R212). -/

namespace Sys2Proof.Machine

/-- The index list's bytes of a chain over `n` entries, none without a list. -/
def Chain.listRuns (c : Chain) (n : Nat) : List Run :=
  match c.listLink with
  | none => []
  | some (_, l) => [run l.addr (4 * n)]

/-- The entries of a list from its bytes. -/
def listEntries (n : Nat) (bs : List Byte) : List Nat := denseCodes 32 32 0 n bs

/-- The least rejection of a chain at acceptance as a fault (R125). -/
def chainFault (ch : Chain) (use : ListUse) (n : Option Nat) : Option FaultRec :=
  (chainReason ch use n).map fun p => patternInvalid p.1 p.2 0

/-- Reasons 8 and 9 as a fault (R125). -/
def listFault (ch : Chain) (n : Nat) (es : List Nat) : Option FaultRec :=
  match ch.listLink with
  | none => none
  | some (i, _) => (listReason n es).map fun p => patternInvalid p.1 i p.2

/-- A chain's pull map as an array over its domain. -/
def pullArray (ch : Chain) (n : Nat) (es : List Nat) : Array Nat :=
  ((List.range n).map (chainPull es ch.links)).toArray

/-- A ream of source operands: its tiles, operand number, word and REINT (R137). -/
def reamOperands (ts : List Nat) (number : Nat) (w : Quad) (reint : Bool) : List Operand :=
  ts.map fun t => ⟨t, number, w, reint⟩

/-- The codes of a ream's elements by ream index. -/
def State.reamCodes (s : State) (prog : List Quad) (os : List Operand) : Array Nat :=
  (os.flatMap fun o => (s.srcCodes prog o).toList).toArray

/-- The scales of a ream's groups, numbered tile by tile (R127). -/
def State.reamScales (s : State) (prog : List Quad) (os : List Operand) : Array Nat :=
  (os.flatMap fun o => (s.srcScales prog o).toList).toArray

/-- The source group of each ream index (R127). -/
def State.reamGroups (s : State) (prog : List Quad) (os : List Operand) : Array Nat :=
  ((List.range os.length).flatMap fun r =>
    let d := (s.srcShape prog (os.getD r ⟨0, 0, 0, false⟩)).d
    (List.range d.count).map fun k => r * d.groups + d.groupOf k).toArray

/-- R127: the map γ of destination groups, if the pull map carries groups onto groups. -/
def groupMap (own : Deckle) (tiles : Nat) (pi srcGroups : Array Nat) : Option (Array Nat) :=
  let n := own.count
  let f := groupFirsts own
  let src (k : Nat) : Nat := srcGroups.getD (pi.getD k 0) 0
  let gamma := ((List.range tiles).flatMap fun r => f.toList.map fun k => src (r * n + k)).toArray
  if (List.range (tiles * n)).all fun k => src k == gamma.getD (k / n * own.groups + own.groupOf (k % n)) 0 then some gamma
  else none

/-- What a permutation within tiles delivers: the destination codes, the destination scales and the check value. -/
structure Permuted where
  codes : Array Nat
  scales : Array Nat
  check : Quad
  deriving DecidableEq, Repr

/-- A permutation of a ream (R127 to R131, R135, R156); none when the pull map breaks R127. -/
def State.permuteReam (s : State) (prog : List Quad) (ch : Chain) (own : Shape) (os : List Operand) (es : List Nat) :
    Option Permuted :=
  let n := own.d.count * os.length
  let pi := pullArray ch n es
  let codes := s.reamCodes prog os
  let words := roundWords own.c n pi (chainLinear ch n pi) codes
  let dest := pi.map fun k => codes.getD k 0
  if own.d.group = 0 then some ⟨dest, #[], BitVec.ofNat 64 (routeSum 0 words)⟩
  else
    match groupMap own.d os.length pi (s.reamGroups prog os) with
    | none => none
    | some gamma =>
      let sc := s.reamScales prog os
      let h := gamma.size
      let words2 := roundWords 8 h gamma (bareLinear h gamma) sc
      some ⟨dest, gamma.map fun g => sc.getD g 0, BitVec.ofNat 64 (routeSum 0 (words ++ words2))⟩

/-- Part `r` of `n` of an array. -/
def slice (a : Array Nat) (r n : Nat) : Array Nat := a.extract (r * n) (r * n + n)

/-- Writes a ream whole at one point (R136, R137). -/
def State.commitReam (s : State) (word : Quad) (own : Shape) (p : Permuted) (ts : List Nat) : State :=
  (List.range ts.length).foldl (fun s r =>
    s.commitTile (ts.getD r 0) word (layTile own (slice p.codes r own.d.count) (slice p.scales r own.d.groups))) s

/-- The checks of PERM and PERM.X (R91, R126). -/
def State.permChecks (s : State) (e : Entry) (os : List Operand) : Option FaultRec :=
  firstOf (ownWord e) fun _ => firstOf (s.recordedCheck e.fmts os) fun _ => firstOf (s.readChecks e.fmts os) fun _ =>
    firstOf (chainFault e.chain .any (some (os.length * e.insn.deckle.count))) fun _ => s.outCheck e.insn.operandTiles

/-- The one unit of PERM and PERM.X: the list, its reasons, the round, and the commit point. -/
def permUnit (c : CtxId) (s : State) (e : Entry) (os : List Operand) (ts : List Nat) : Res :=
  let n := os.length * e.insn.deckle.count
  reading c s e (e.chain.listRuns n) fun s1 bs =>
    let es := listEntries n bs
    checked (listFault e.chain n es) s1 fun _ =>
      match s1.permuteReam e.fmts e.chain e.shape os es with
      | none => .fault (patternInvalid 10 0 0) s1
      | some p => .ok (s1.commitReam (e.insn.q 1) e.shape p ts) { e with rchk := e.rchk + p.check, wrote := true }

/-- PERM's parts. -/
def permParts : Parts where
  start := fun _ s e => checked (s.permChecks e [e.insn.srcA (e.insn.q 1)]) s fun _ => .ok s e
  units := fun _ _ => 1
  unit := fun c s e _ => permUnit c s e [e.insn.srcA (e.insn.q 1)] [e.insn.td]
  finish := fun c s e => (s.lastUses [e.insn.td] [(e.insn.ta, e.insn.lastA)]).putRchk c e

/-- PERM (R211). -/
def execPerm (c : CtxId) (n : Seq) (s : State) : Out := whenUp s (State.runInsn permParts (isOp .perm) c n s)

/-- The source ream of PERM.X. -/
def Insn.permXSources (i : Insn) : List Operand := reamOperands (reamTiles i.ta (i.q 2)) 3 (i.q 1) i.reint

/-- PERM.X's parts. -/
def permXParts : Parts where
  start := fun _ s e => checked (s.permChecks e e.insn.permXSources) s fun _ => .ok s e
  units := fun _ _ => 1
  unit := fun c s e _ => permUnit c s e e.insn.permXSources (reamTiles e.insn.td (e.insn.q 3))
  finish := fun c s e =>
    (s.lastUses (reamTiles e.insn.td (e.insn.q 3)) ((reamTiles e.insn.ta (e.insn.q 2)).map fun t => (t, e.insn.lastA))).putRchk c e

/-- PERM.X (R211). -/
def execPermX (c : CtxId) (n : Seq) (s : State) : Out := whenUp s (State.runInsn permXParts (isOp .permX) c n s)

/-! SPERM (R139 to R144, R212). -/

/-- The domain N of a SPERM. -/
def Entry.spermN (e : Entry) : Nat :=
  match e.chain.links with
  | [] => 1
  | l :: _ => l.nm1 + 1

/-- The container width C of a SPERM's images. -/
def Entry.spermC (e : Entry) : Nat := streamC e.fmts e.insn.deckle

/-- The chunk size Z (R140). -/
def Entry.spermZ (e : Entry) : Nat := e.insn.spermEngines * 262144 / streamBits e.spermC

/-- The number of chunks B (R141). -/
def Entry.spermB (e : Entry) : Nat := (e.spermN + e.spermZ - 1) / e.spermZ

/-- The push map of a link without a list (R123, R124). -/
def linkPush (l : Link) : Nat → Nat :=
  if l.kind = 1 then (if l.inv then affineForward l else affineBackward l)
  else (if l.inv then matrixForward l else matrixBackward l)

/-- The push maps of the links before the list, and of those behind it, in the order the data meets them. -/
def pushThrough : List Link → Nat → Nat
  | [], s => s
  | l :: r, s => pushThrough r (linkPush l s)

/-- The links before the chain's list, and those behind it; all of them before it where there is none. -/
def Chain.beforeList (c : Chain) : List Link := c.links.takeWhile fun l => l.kind != 3
def Chain.afterList (c : Chain) : List Link := (c.links.dropWhile fun l => l.kind != 3).drop 1

/-- The list position that source element `s` reads. -/
def Entry.listPos (e : Entry) (s : Nat) : Nat := pushThrough e.chain.beforeList s

/-- The push map f, with the list's entry at each position (SPERM admits INV = 1 alone, R122). -/
def Entry.push (e : Entry) (entry : Nat → Nat) (s : Nat) : Nat :=
  let p := e.listPos s
  match e.chain.listLink with
  | none => p
  | some _ => pushThrough e.chain.afterList (entry p)

/-- The list's bytes that source elements 0 to m − 1 need. -/
def Entry.listNeeds (e : Entry) (m : Nat) : List Run :=
  match e.chain.listLink with
  | none => []
  | some (_, l) => runsOf ((List.range m).flatMap fun s =>
      (List.range 4).map fun j => (((l.addr + 4 * e.listPos s + j : Nat) : Int), inVat l.addr))

/-- The entries those bytes give, as a map from list positions. -/
def Entry.entryMap (e : Entry) (m : Nat) (bs : List Byte) : Nat → Nat :=
  let es := listEntries m bs
  let a := (List.range m).foldl (fun (a : Array Nat) s => a.setIfInBounds (e.listPos s) (es.getD s 0)) (Array.replicate e.spermN 0)
  fun p => a.getD p 0

/-- The link of a SPERM's list. -/
def Entry.listAt (e : Entry) : Nat :=
  match e.chain.listLink with
  | some (i, _) => i
  | none => 0

/-- The bucket positions given out before source element `m`: how many lower elements share each bucket (R141). -/
def Entry.bucketCounts (e : Entry) (f : Nat → Nat) (m : Nat) : Array Nat :=
  (List.range m).foldl (fun (a : Array Nat) s => let b := f s / e.spermZ; a.setIfInBounds b (a.getD b 0 + 1))
    (Array.replicate e.spermB 0)

/-- The size of bucket `b`. -/
def Entry.bucketSize (e : Entry) (b : Nat) : Nat := min e.spermZ (e.spermN - b * e.spermZ)

/-- The lower of two failing list positions with their reasons. -/
def lowerPos (a b : Option (Nat × Nat)) : Option (Nat × Nat) :=
  match a, b with
  | none, y => y
  | x, none => x
  | some x, some y => if x.2 ≤ y.2 then some x else some y

/-- R143: what rejects chunk `i` in sweep 1, as (reason, list position). A chain without a list is a permutation, and fills each bucket
exactly. -/
def Entry.chunkReason (e : Entry) (entry : Nat → Nat) (i : Nat) : Option (Nat × Nat) :=
  let n := e.spermN
  let lo := i * e.spermZ
  let chunk := (List.range (min n (lo + e.spermZ) - lo)).map fun k => lo + k
  let big := chunk.foldl (fun a s => if n ≤ entry (e.listPos s) then lowerPos a (some (8, e.listPos s)) else a) none
  let high := (chunk.foldl
    (fun (p : Array Nat × Option (Nat × Nat)) s =>
      if n ≤ entry (e.listPos s) then p
      else
        let b := e.push entry s / e.spermZ
        let k := p.1.getD b 0 + 1
        (p.1.setIfInBounds b k, if e.bucketSize b < k then lowerPos p.2 (some (9, e.listPos s)) else p.2))
    (e.bucketCounts (e.push entry) lo, none)).2
  lowerPos big high

/-- The source elements of bucket `b`, ascending. -/
def Entry.bucket (e : Entry) (f : Nat → Nat) (b : Nat) : List Nat := (List.range e.spermN).filter fun s => f s / e.spermZ == b

/-- R143: a repeated destination within bucket `b`, as the list position of the later entry. -/
def Entry.bucketReason (e : Entry) (f : Nat → Nat) (b : Nat) : Option Nat :=
  if e.chain.listLink.isNone then none
  else
    let ps := ((e.bucket f b).map fun s => (e.listPos s, f s)).mergeSort fun x y => decide (x.1 ≤ y.1)
    (ps.foldl (fun (a : List Nat × Option Nat) p =>
      match a.2 with
      | some _ => a
      | none => if a.1.contains p.2 then (a.1, some p.1) else (p.2 :: a.1, none)) ([], none)).2

/-- The width of a SPERM's elements. -/
def Entry.spermW (e : Entry) : Nat := (fmtAt e.fmts e.insn.deckle.fmt).width

/-- The check value of a unit's round. The map of a unit of SPERM's two sweeps is no chain; its class is that of 04 R127's bare maps.
(log 35: DEDUCED.) -/
def unitCheck (cw n : Nat) (pi : Array Nat) (lin : Option Linear) (codes : Array Nat) : Quad :=
  BitVec.ofNat 64 (routeSum 0 (roundWords cw n pi lin codes))

/-- Source, destination, scratch image or list of a SPERM overlap: the destination's contents are then open (R144). -/
def Entry.spermOverlap (e : Entry) : Bool :=
  let n := e.spermN
  let image (a : Nat) : Run := denseRun a e.spermC 0 n
  anyMeet ([image e.insn.spermSrc, image e.insn.spermDst] ++
    (if n ≤ e.spermZ then [] else [image e.insn.spermScr]) ++ e.chain.listRuns n)

/-- A piece of a dense image: its base, container width, first element and number of elements. -/
structure Piece where
  base : Int
  width : Nat
  first : Nat
  count : Nat
  deriving DecidableEq, Repr

def Piece.run (p : Piece) : Run := denseRun p.base p.width p.first p.count
def Piece.edges (p : Piece) : List Run := denseEdges p.base p.width p.first p.count

/-- A unit of a SPERM up to its writes: its list is read and tested, and its reads are judged with the pieces it writes, which the list may
decide (R96, R199). A list that is misplaced faults with the rest of the unit that is known; reasons 8 and 9 come after the addresses that
are read. (log 35: DEDUCED.) -/
def spermAccess (c : CtxId) (s : State) (e : Entry) (list src : List Run) (known : List Piece) (reason : List Byte → Option FaultRec)
    (pieces : List Byte → List Piece) (r : State → Res) : Res :=
  let judged (s : State) (ps : List Piece) (r : State → Res) : Res :=
    judging c s e (list ++ src ++ ps.flatMap Piece.edges) (ps.map Piece.run) r
  match s.reachRead c e.seq.toNat list with
  | .wait s1 => .wait s1
  | .fault f s1 => if f.code = 0x0A then .fault f s1 else judged s1 known fun s2 => .fault f s2
  | .ok s1 =>
    let bs := s1.readBytes c e.seq.toNat list
    match reason bs with
    | some f => judged s1 [] fun s2 => .fault f s2
    | none => judged s1 (pieces bs) r

/-- The one unit of a SPERM whose domain fits its ream (R140). (log 35: DEDUCED.) -/
def spermWhole (c : CtxId) (s : State) (e : Entry) : Res :=
  let n := e.spermN
  let cw := e.spermC
  let src := denseRun e.insn.spermSrc cw 0 n
  let dst : Piece := ⟨e.insn.spermDst, cw, 0, n⟩
  spermAccess c s e (e.chain.listRuns n) [src] [dst] (fun bs => listFault e.chain n (listEntries n bs)) (fun _ => [dst]) fun s0 =>
    reading c s0 e (e.chain.listRuns n ++ [src]) fun s1 _ =>
      let who := e.seq.toNat
      let es := listEntries n (s1.readBytes c who (e.chain.listRuns n))
      let codes := (denseCodes cw e.spermW 0 n (s1.runBytes c who src)).toArray
      let pi := pullArray e.chain n es
      let out := orFree s1 e.spermOverlap e.spermW ((List.range n).map fun d => codes.getD (pi.getD d 0) 0)
      writingDense (e.insn.carrier c) c s1 e (some 0) [(e.insn.spermDst, cw, 0, out)] fun s2 e2 =>
        .ok s2.fresh { e2 with rchk := e2.rchk + unitCheck cw n pi (chainLinear e.chain n pi) codes }

/-- The elements of chunk `lo` to lo + m − 1 that go to each bucket, by place in the chunk. -/
def Entry.chunkOrder (e : Entry) (f : Nat → Nat) (lo m : Nat) : List (List Nat) :=
  (List.range e.spermB).map fun b => (List.range m).filter fun k => f (lo + k) / e.spermZ == b

/-- Where a chunk's bucket runs go in the scratch image: each behind what lower chunks have put in its bucket (R141). -/
def Entry.chunkPieces (e : Entry) (f : Nat → Nat) (lo m : Nat) : List (Piece × List Nat) :=
  let counts := e.bucketCounts f lo
  ((List.range e.spermB).zip (e.chunkOrder f lo m)).filterMap fun p =>
    if p.2.isEmpty then none
    else some (⟨e.insn.spermScr, e.spermC, p.1 * e.spermZ + counts.getD p.1 0, p.2.length⟩, p.2)

/-- Unit `i` of sweep 1 (R141). In the unit's own map the bucket runs lie in ascending order of bucket. (log 35: DEDUCED.) -/
def spermFirst (c : CtxId) (s : State) (e : Entry) (i : Nat) : Res :=
  let cw := e.spermC
  let lo := i * e.spermZ
  let m := min e.spermN (lo + e.spermZ) - lo
  let list := e.listNeeds (lo + m)
  let src := denseRun e.insn.spermSrc cw lo m
  let entry (bs : List Byte) : Nat → Nat := e.entryMap (lo + m) bs
  spermAccess c s e list [src] [] (fun bs => (e.chunkReason (entry bs) i).map fun p => patternInvalid p.1 e.listAt p.2)
    (fun bs => (e.chunkPieces (e.push (entry bs)) lo m).map Prod.fst) fun s0 =>
    reading c s0 e (list ++ [src]) fun s1 _ =>
      let who := e.seq.toNat
      let f := e.push (entry (s1.readBytes c who list))
      let codes := (denseCodes cw e.spermW lo m (s1.runBytes c who src)).toArray
      let pi := (e.chunkOrder f lo m).flatten.toArray
      let pieces := (e.chunkPieces f lo m).map fun p => (p.1.base, cw, p.1.first, p.2.map fun k => codes.getD k 0)
      writingDense (e.insn.carrier c) c s1 e none pieces fun s2 e2 =>
        .ok s2 { e2 with rchk := e2.rchk + unitCheck cw m pi (bareLinear m pi) codes }

/-- The unit of sweep 2 for bucket `b` (R141), once every unit of sweep 1 has committed. (log 35: DEDUCED.) -/
def spermSecond (c : CtxId) (s : State) (e : Entry) (b : Nat) : Res :=
  if e.upTo < e.spermB then .wait s
  else
  let cw := e.spermC
  let n := e.spermN
  let lo := b * e.spermZ
  let m := e.bucketSize b
  let list := e.listNeeds n
  let scr := denseRun e.insn.spermScr cw lo m
  let dst : Piece := ⟨e.insn.spermDst, cw, lo, m⟩
  let push (bs : List Byte) : Nat → Nat := e.push (e.entryMap n bs)
  spermAccess c s e list [scr] [dst] (fun bs => (e.bucketReason (push bs) b).map fun p => patternInvalid 9 e.listAt p) (fun _ => [dst]) fun s0 =>
    reading c s0 e (list ++ [scr]) fun s1 _ =>
      let who := e.seq.toNat
      let f := push (s1.readBytes c who list)
      let codes := (denseCodes cw e.spermW lo m (s1.runBytes c who scr)).toArray
      let es := (e.bucket f b).map fun x => f x - lo
      let pi := inverseList m es
      let out := orFree s1 e.spermOverlap e.spermW ((List.range m).map fun d => codes.getD (pi.getD d 0) 0)
      writingDense (e.insn.carrier c) c s1 e (some 0) [(e.insn.spermDst, cw, lo, out)] fun s2 e2 =>
        .ok s2.fresh { e2 with rchk := e2.rchk + unitCheck cw m pi (bareLinear m pi) codes }

/-- SPERM's checks. -/
def spermStart (s : State) (e : Entry) : Res :=
  checked (firstOf3 (streamCheck e.fmts (e.insn.q 1)) (fun _ => chainFault e.chain .pushOnly none)
    fun _ => s.outCheck e.insn.operandTiles) s fun _ => .ok s e

def spermUnit (c : CtxId) (s : State) (e : Entry) (k : Nat) : Res :=
  if e.spermN ≤ e.spermZ then spermWhole c s e
  else if k < e.spermB then spermFirst c s e k
  else spermSecond c s e (k - e.spermB)

/-- SPERM's parts. -/
def spermParts : Parts where
  start := fun _ s e => spermStart s e
  units := fun _ e => if e.spermN ≤ e.spermZ then 1 else 2 * e.spermB
  unit := fun c s e k => spermUnit c s e k
  finish := fun c s e => (s.leaveReam e none).putRchk c e

/-- SPERM (R212). -/
def execSperm (c : CtxId) (n : Seq) (s : State) : Out := whenUp s (State.runInsn spermParts (isOp .sperm) c n s)

end Sys2Proof.Machine
end

