-- ==== Sys2Proof/Machine/Gather.lean ====
section
/-! DEFINITION. GATH and SCAT (06 R213 to R215; 08 R264, R283). -/

namespace Sys2Proof.Machine

/-- OOB, DUP and LIMIT (R204). -/
def Insn.oob (i : Insn) : Bool := (i.q 2).bit 48
def Insn.dup (i : Insn) : Bool := (i.q 2).bit 49
def Insn.limit (i : Insn) : Nat := (i.q 3).bits 63 32

/-- The list's link. -/
def Entry.gatherLink (e : Entry) : Link := e.chain.links.headD ⟨0, []⟩

/-- R213: the pattern is a single index-list link with INV = 0 over ROWS entries. (log 34: DEDUCED.) -/
def gatherPattern (e : Entry) : Option FaultRec :=
  let l := e.gatherLink
  if l.kind ≠ 3 ∨ l.inv = true ∨ l.nextEn = true then some (patternInvalid 7 0 0)
  else if l.reservedSet then some (patternInvalid 2 0 0)
  else if l.nm1 + 1 ≠ e.insn.deckle.rows then some (patternInvalid 4 0 0)
  else if l.addr % 4 ≠ 0 then some (patternInvalid 7 0 0)
  else none

/-- A hole. -/
def isHole (x : Nat) : Bool := x == 0xFFFFFFFF

/-- R214: the first entry, from position `r` on, that is rejected. (log 34: DEDUCED.) -/
def entriesFault (i : Insn) (scat : Bool) : Nat → List Nat → List Nat → Option FaultRec
  | _, _, [] => none
  | r, seen, x :: rest =>
    if isHole x then entriesFault i scat (r + 1) seen rest
    else if i.limit ≤ x then
      (if i.oob then entriesFault i scat (r + 1) seen rest else some (patternInvalid 8 0 r))
    else if scat && !i.dup && seen.contains x then some (patternInvalid 9 0 r)
    else entriesFault i scat (r + 1) (x :: seen) rest

/-- The entries an instruction read when it began. -/
def Entry.rows (e : Entry) : List Nat := listEntries e.insn.deckle.rows (e.rcd.getD [])

/-- The row that line `r` moves from or to, if it moves (R214). -/
def Entry.rowOf (e : Entry) (scat : Bool) (r : Nat) : Option Nat :=
  let es := e.rows
  let x := es.getD r 0xFFFFFFFF
  if isHole x ∨ e.insn.limit ≤ x then none
  else if scat && (es.drop (r + 1)).contains x then none
  else some x

/-- The address of a byte of row `x`, and whether it is one of an image based in the Vat: beyond 48 bits it is a ROW_FAULT for either (R215). -/
def Insn.rowPlace (i : Insn) (x off : Nat) : Int × Bool :=
  let a := i.base + x * i.stride + off
  ((a : Int), inVat i.base && decide (a < 2 ^ 48))

/-- The address path has taken the instruction, or its list is short enough for the bypass (R264, R283). -/
def Entry.pathReady (e : Entry) : Bool := decide (e.insn.deckle.rows ≤ 64) || e.granted

/-- The bytes of the list. -/
def Entry.listRead (e : Entry) : List Run := [run e.gatherLink.addr (4 * e.insn.deckle.rows)]

/-- The list is read and checked before any slot moves (R213). -/
def readList (c : CtxId) (s : State) (e : Entry) (scat : Bool) (r : State → Entry → Res) : Res :=
  reading c s e e.listRead fun s1 bs =>
    let e1 := { e with rcd := some bs }
    checked (entriesFault e.insn scat 0 [] e1.rows) s1 fun _ => r s1 e1

/-- GATH begins. That a destination which fails R97 faults before a pattern which R213 rejects is the model's choice. (log 78: DESIGN CHOICE.) -/
def gathStart (c : CtxId) (s : State) (e : Entry) : Res :=
  if !e.pathReady then .wait s
  else
    checked (firstOf (ownWord e) fun _ =>
        firstOf (if 0 < e.first then s.laterCheck (e.insn.q 1) [(e.insn.td, 0)] else none) fun _ =>
          firstOf (gatherPattern e) fun _ => s.outCheck e.insn.operandTiles) s fun _ =>
      readList c s e false fun s1 e1 => .ok (s1.beginTile e.insn.td (e.insn.q 1)) { e1 with wrote := true }

/-- The image bytes of slot `k` that GATH reads, with their places. -/
def Entry.gathBytes (e : Entry) (k : Nat) : List (ImgByte × Option (Int × Bool)) :=
  (slotImgBytes e.shape k).map fun b => (b, (e.rowOf false b.line).map fun x => e.insn.rowPlace x b.off)

/-- Puts the bytes read in their places, zeros elsewhere. -/
def fillHoles : List (ImgByte × Option (Int × Bool)) → List Byte → List Byte
  | [], _ => []
  | (_, none) :: r, bs => 0 :: fillHoles r bs
  | (_, some _) :: r, [] => 0 :: fillHoles r []
  | (_, some _) :: r, b :: bs => b :: fillHoles r bs

def gathUnit (s : State) (c : CtxId) (e : Entry) (k : Nat) : Res :=
  let ps := e.gathBytes k
  reading c s e (runsOf (ps.filterMap Prod.snd)) fun s1 bs =>
    .ok (s1.putTile e.insn.td (256 * k) (slotOf e.shape k (fillHoles ps bs))) e

/-- GATH's parts. -/
def gathParts : Parts where
  start := gathStart
  units := fun _ e => e.shape.slots
  unit := fun c s e k => gathUnit s c e k
  finish := fun _ s e => s.endTile e.insn.td (e.insn.q 1)

/-- GATH (R213, R214). -/
def execGath (c : CtxId) (n : Seq) (s : State) : Out := whenUp s (State.runInsn gathParts (isOp .gath) c n s)

def scatStart (c : CtxId) (s : State) (e : Entry) : Res :=
  if !e.pathReady then .wait s
  else
    checked (s.srcChecks e (ownWord e) fun _ => gatherPattern e) s fun _ =>
      readList c s e true fun s1 e1 => .ok s1 e1

def scatUnit (s : State) (c : CtxId) (e : Entry) (k : Nat) : Res :=
  let tile := s.relaid e
  let ps := (slotImgBytes e.shape k).filterMap fun b =>
    (e.rowOf true b.line).map fun x => (e.insn.rowPlace x b.off, tile.getD b.tile 0)
  writing (e.insn.carrier c) c s e (some 0) (shareOut (runsOf (ps.map Prod.fst)) (ps.map Prod.snd)) fun s1 e1 => .ok s1 e1

/-- SCAT's parts. -/
def scatParts : Parts where
  start := scatStart
  units := fun _ e => e.shape.slots
  unit := fun c s e k => scatUnit s c e k
  finish := fun _ s e => s.lastUses [] [(e.insn.ta, e.insn.lastA)]

/-- SCAT (R213, R214). -/
def execScat (c : CtxId) (n : Seq) (s : State) : Out := whenUp s (State.runInsn scatParts (isOp .scat) c n s)

end Sys2Proof.Machine
end

