-- ==== Sys2Proof/Machine/Press.lean ====
section
/-! DEFINITION. CONV, PRESS in its four modes, and HROT (07 R226 to R234). -/

namespace Sys2Proof.Machine

/-- OVF of a block-scaled element applies to E4M3 and E5M2 (02 R60). -/
def blockOvf (n : Nat) : Bool := n == 3 || n == 4

/-- The elements of each group of a deckle, in ascending order of element index. -/
def groupMembers (d : Deckle) : Array (List Nat) :=
  (List.range d.count).reverse.foldl
    (fun (a : Array (List Nat)) k => a.setIfInBounds (d.groupOf k) (k :: a.getD (d.groupOf k) []))
    (Array.replicate d.groups [])

/-- Values encoded into a destination shape: the codes by element index and the scales by group (R55 to R60, R226, R230).
`word k` is the random word of element `k`. -/
def encodeVals (prog : List Quad) (own : Shape) (sel : Sel) (vals : Array Val) (word : Nat → Nat) : Array Nat × Array Nat :=
  let f := own.d.elemFmt prog
  if own.d.group = 0 then
    (((List.range own.d.count).map fun k => convertVal f sel (word k) (vals.getD k .nan)).toArray, #[])
  else
    (groupMembers own.d).toList.foldl (fun (p : Array Nat × Array Nat) ks =>
      let q := quantizeGroup f sel (blockOvf own.d.fmt) (ks.map fun k => (vals.getD k .nan, word k))
      ((ks.zip q.2).foldl (fun a kc => a.setIfInBounds kc.1 kc.2) p.1, p.2.push q.1))
      (Array.replicate own.d.count 0, #[])

/-- A tile's bytes from values. -/
def encodeTile (prog : List Quad) (own : Shape) (sel : Sel) (vals : Array Val) (word : Nat → Nat) : List Byte :=
  let p := encodeVals prog own sel vals word
  layTile own p.1 p.2

/-! CONV (R226 to R228). -/

/-- The source deckle word of CONV and of PRESS operand TA. -/
def Insn.wordA (i : Insn) : Quad := BitVec.ofNat 64 ((i.q 2).bits 32 0)
/-- The deckle word of PRESS operand TB. -/
def Insn.wordB (i : Insn) : Quad := BitVec.ofNat 64 ((i.q 3).bits 32 0)

/-- SMODE, NFS and the address of the scale record. -/
def Insn.smode (i : Insn) : Nat := bitsOf i.xf 1 0
def Insn.convNfs (i : Insn) : Bool := i.xf.testBit 2
def Insn.srec (i : Insn) : Int := vatAddr ((i.q 2).bits 55 38 * 512)

/-- The conversion test of R59 on two format entries. -/
def convTest (prog : List Quad) (a b : Nat) : Option FaultRec :=
  if convDefined (fmtAt prog a) (fmtAt prog b) then none else some (deckleIllegalFault ownInfo)

/-- A shape test (R226, R229). -/
def shapeTest (ok : Bool) : Option FaultRec := if ok then none else some (deckleMismatch ownInfo)

/-- CONV's checks, in the order of R91 and R226. -/
def State.convChecks (s : State) (e : Entry) : Option FaultRec :=
  let i := e.insn
  let src := i.srcA i.wordA
  firstOf (ownCheck e.fmts [i.q 1, i.wordA]) fun _ => firstOf (s.recordedCheck e.fmts [src]) fun _ =>
    firstOf (s.readChecks e.fmts [src]) fun _ => firstOf (shapeTest (i.deckle.count == i.deckleA.count)) fun _ =>
      firstOf (convTest e.fmts i.deckleA.fmt i.deckle.fmt) fun _ => s.outCheck i.operandTiles

/-- The value a CONV converts (R227). -/
def scaled (smode : Nat) (scale v : Val) : Val :=
  if smode = 1 then valMul v scale else if smode = 2 then valDiv v scale else v

def convUnit (c : CtxId) (s : State) (e : Entry) : Res :=
  let i := e.insn
  let vals := s.srcVals e.fmts (i.srcA i.wordA)
  let out := vals.map (scaled i.smode (fp32At (e.rcd.getD []) 0))
  let met := i.convNfs && (vals.any (fun v => !valIsFinite v) || out.any fun v => !valIsFinite v)
  .ok ((s.commitTile i.td (i.q 1) (encodeTile e.fmts e.shape i.sel out (e.srWord 0))).upCtx c fun x => x.meetNonfinite met)
    { e with wrote := true }

/-- CONV's checks, and its scale record. (log 33: DEDUCED.) -/
def convStart (c : CtxId) (s : State) (e : Entry) : Res :=
  checked (s.convChecks e) s fun _ => if e.insn.smode = 0 then .ok s e else readScale c s e e.insn.srec

/-- CONV's parts. -/
def convParts : Parts where
  start := convStart
  units := fun _ _ => 1
  unit := fun c s e _ => convUnit c s e
  finish := fun _ s e => s.lastUses [e.insn.td] [(e.insn.ta, e.insn.lastA)]

/-- CONV (R226). -/
def execConv (c : CtxId) (n : Seq) (s : State) : Out := whenUp s (State.runInsn convParts (isOp .conv) c n s)

/-! PRESS (R229 to R231). -/

/-- MODE. -/
def Insn.mode (i : Insn) : Nat := bitsOf i.xf 1 0

/-- The source operands of a PRESS. -/
def Insn.pressSources (i : Insn) : List Operand :=
  i.srcA i.wordA :: (if i.mode = 2 then [] else [⟨i.tb, 2, i.wordB, i.reint⟩])

/-- The shapes of R229. -/
def pressShapes (i : Insn) : Bool :=
  let a := i.deckleA
  let b := i.deckleB
  let d := i.deckle
  if i.mode = 0 then a.cols % 8 == 0 && b.rows == 8 && b.cols == 8 && d.rows == a.rows && d.cols == a.cols
  else if i.mode = 1 then
    a.cols % 2 == 0 && b.rows == a.rows && b.cols == a.cols && d.rows == a.rows && d.cols == a.cols
  else if i.mode = 2 then a.rows % 8 == 0 && a.cols % 8 == 0 && d.rows == a.rows && d.cols == a.cols
  else b.rows == a.cols && d.rows == a.rows && d.cols == b.cols

/-- PRESS's checks. -/
def State.pressChecks (s : State) (e : Entry) : Option FaultRec :=
  let i := e.insn
  firstOf (ownCheck e.fmts (i.q 1 :: i.wordA :: (if i.mode = 2 then [] else [i.wordB]))) fun _ =>
    firstOf (s.recordedCheck e.fmts i.pressSources) fun _ => firstOf (s.readChecks e.fmts i.pressSources) fun _ =>
      firstOf (shapeTest (pressShapes i)) fun _ =>
        firstOf (convTest e.fmts (if i.mode = 2 then i.deckleA.fmt else 0) i.deckle.fmt) fun _ => s.outCheck i.operandTiles

/-- The exact products of destination element (r, k), in the order of R229; `a` and `b` give the operands' elements. -/
def pressProducts (mode k8 : Nat) (a b : Nat → Nat → Val) (r k : Nat) : List Val :=
  if mode = 0 then (List.range 8).map fun j => valMul (b (k % 8) j) (a r (k / 8 * 8 + j))
  else if mode = 1 then
    let x0 := a r (k / 2 * 2)
    let x1 := a r (k / 2 * 2 + 1)
    let cc := b r (k / 2 * 2)
    let ss := b r (k / 2 * 2 + 1)
    if k % 2 = 0 then [valMul x0 cc, valNeg (valMul x1 ss)] else [valMul x0 ss, valMul x1 cc]
  else (List.range k8).map fun j => valMul (a r j) (b j k)

/-- A dot product finished for a destination (R230): its exact last step for an FP32 destination, rounded once by the final
rounding, otherwise its FP32 result. -/
def pressResult (own : Shape) (sel : Sel) (ps : List Val) : Val :=
  let v := dotExact (own.d.fmt == 0 && sel.rnd == 3) ps
  if own.d.fmt = 0 then v else round32 v

/-- An operand's elements by row and column. -/
def elemsAt (vals : Array Val) (cols r c : Nat) : Val := vals.getD (r * cols + c) .nan

/-- The values of a PRESS's destination, before the final rounding. -/
def State.pressVals (s : State) (e : Entry) : Array Val :=
  let i := e.insn
  let own := e.shape
  let av := s.srcVals e.fmts (i.srcA i.wordA)
  let a := elemsAt av i.deckleA.cols
  if i.mode = 2 then
    ((List.range own.d.count).map fun k =>
      let r := k / own.d.cols
      let c := k % own.d.cols
      a (r / 8 * 8 + c % 8) (c / 8 * 8 + r % 8)).toArray
  else
    let bv := s.srcVals e.fmts ⟨i.tb, 2, i.wordB, i.reint⟩
    let b := elemsAt bv i.deckleB.cols
    ((List.range own.d.count).map fun k =>
      pressResult own i.sel (pressProducts i.mode i.deckleA.cols a b (k / own.d.cols) (k % own.d.cols))).toArray

def pressUnit (s : State) (e : Entry) : Res :=
  let i := e.insn
  .ok (s.commitTile i.td (i.q 1) (encodeTile e.fmts e.shape i.sel (s.pressVals e) fun _ => 0)) { e with wrote := true }

/-- PRESS's parts. -/
def pressParts : Parts where
  start := fun _ s e => checked (s.pressChecks e) s fun _ => .ok s e
  units := fun _ _ => 1
  unit := fun _ s e _ => pressUnit s e
  finish := fun _ s e =>
    s.lastUses [e.insn.td] ((e.insn.ta, e.insn.lastA) :: (if e.insn.mode = 2 then [] else [(e.insn.tb, e.insn.lastB)]))

/-- A PRESS of mode `m`. -/
def isPress (m : Nat) (i : Insn) : Bool := i.op == some .press && i.mode == m

/-- PRESS mode 0, MAT8 (R229). -/
def execMat8 (c : CtxId) (n : Seq) (s : State) : Out := whenUp s (State.runInsn pressParts (isPress 0) c n s)
/-- PRESS mode 1, ROT2 (R229). -/
def execRot2 (c : CtxId) (n : Seq) (s : State) : Out := whenUp s (State.runInsn pressParts (isPress 1) c n s)
/-- PRESS mode 2, TRANS8 (R229, R230). -/
def execTrans8 (c : CtxId) (n : Seq) (s : State) : Out := whenUp s (State.runInsn pressParts (isPress 2) c n s)
/-- PRESS mode 3, MATMUL (R229). -/
def execMatmul (c : CtxId) (n : Seq) (s : State) : Out := whenUp s (State.runInsn pressParts (isPress 3) c n s)

/-! HROT (R232 to R234). -/

/-- The source deckle word of HROT (R233). -/
def Insn.hrotWord (i : Insn) : Quad :=
  let q := i.q 1
  BitVec.ofNat 64 (q.bits 26 0 - q.bits 24 20 * 2 ^ 20 + i.sfmt * 2 ^ 20 + (if i.hrotInv then 3 * 2 ^ 29 else 0))

/-- R233: a programmable SFMT is admitted. -/
def hrotAdmits (prog : List Quad) (i : Insn) : Bool :=
  i.sfmt < 16 ||
  (fmtNamedOk prog i.sfmt && (if i.hrotInv then scaledFmtOk prog i.sfmt else (fmtAt prog i.sfmt).kind == .float))

/-- The reams of HROT. -/
def Insn.hrotSources (i : Insn) : List Operand := reamOperands (reamTiles i.ta (i.q 2)) 3 i.hrotWord false
def Insn.hrotDests (i : Insn) : List Nat := reamTiles i.td (i.q 2)

/-- HROT's checks. -/
def State.hrotChecks (s : State) (e : Entry) : Option FaultRec :=
  let i := e.insn
  firstOf (if hrotAdmits e.fmts i then none else some (deckleIllegalFault ownInfo)) fun _ =>
    firstOf (ownCheck e.fmts [i.q 1, i.hrotWord]) fun _ => firstOf (s.recordedCheck e.fmts i.hrotSources) fun _ =>
      firstOf (s.readChecks e.fmts i.hrotSources) fun _ => firstOf (convTest e.fmts 0 i.deckle.fmt) fun _ =>
        s.outCheck i.operandTiles

/-- One level of the butterfly (R234). -/
def hadamardLevel (n span : Nat) (v : Array Val) : Array Val :=
  ((List.range n).map fun p =>
    if p / span % 2 = 0 then add32 (v.getD p .nan) (v.getD (p + span) .nan)
    else sub32 (v.getD (p - span) .nan) (v.getD p .nan)).toArray

/-- hadamard of R234 over 2^m values. -/
def hadamard (m : Nat) (v : Array Val) : Array Val := (List.range m).foldl (fun a l => hadamardLevel (2 ^ m) (2 ^ l) a) v

/-- The results of one segment; `sign p` is the sign word's top bit for position `p` (R234). -/
def rotateSegment (m : Nat) (inv : Bool) (sign : Nat → Bool) (v : Array Val) : Array Val :=
  let n := 2 ^ m
  let signed (a : Array Val) : Array Val :=
    ((List.range n).map fun p => if sign p then valNeg (a.getD p .nan) else a.getD p .nan).toArray
  let start := v.map round32
  if inv then (signed (hadamard m start)).map fun x => valShift x (-((m / 2 : Nat) : Int))
  else (hadamard m (signed start)).map fun x => valShift x (-(((m + 1) / 2 : Nat) : Int))

/-- The results of a whole ream, by ream index. -/
def rotateReam (m : Nat) (inv : Bool) (sign : Nat → Bool) (v : Array Val) : Array Val :=
  ((List.range (v.size / 2 ^ m)).flatMap fun g =>
    (rotateSegment m inv (fun p => sign (g * 2 ^ m + p)) (v.extract (g * 2 ^ m) (g * 2 ^ m + 2 ^ m))).toList).toArray

def hrotUnit (s : State) (e : Entry) : Res :=
  let i := e.insn
  let own := e.shape
  let n := own.d.count
  let vals := (i.hrotSources.flatMap fun o => (s.srcVals e.fmts o).toList).toArray
  let res := rotateReam i.hrotLog i.hrotInv (fun k => (squallWord e.coord 0x02 0 k).testBit 31) vals
  let ts := i.hrotDests
  .ok ((List.range ts.length).foldl (fun s r =>
      s.commitTile (ts.getD r 0) (i.q 1)
        (encodeTile e.fmts own i.sel (res.extract (r * n) (r * n + n)) fun k => e.srWord 0 (r * n + k))) s)
    { e with wrote := true }

/-- HROT's parts. -/
def hrotParts : Parts where
  start := fun _ s e => checked (s.hrotChecks e) s fun _ => .ok s e
  units := fun _ _ => 1
  unit := fun _ s e _ => hrotUnit s e
  finish := fun _ s e =>
    s.lastUses e.insn.hrotDests ((reamTiles e.insn.ta (e.insn.q 2)).map fun t => (t, e.insn.lastA))

/-- HROT (R232 to R234). -/
def execHrot (c : CtxId) (n : Seq) (s : State) : Out := whenUp s (State.runInsn hrotParts (isOp .hrot) c n s)

end Sys2Proof.Machine
end

