-- ==== Sys2Proof/Machine/Vat.lean ====
section
/-! DEFINITION. The Vat instructions VLD, VST, VOP in its eleven operations, AMAX, UPD and COMMIT (07 R235 to R246; 09 R296 to
R307). -/

namespace Sys2Proof.Machine

/-! VLD and VST (R235, R236). -/

/-- The container width must be 32 and GROUP 0 (R235). -/
def columnCheck (e : Entry) : Option FaultRec :=
  if e.shape.c = 32 ∧ e.shape.d.group = 0 then ownWord e else some (deckleIllegalFault ownInfo)

/-- The place of byte `off` of line `l` in the word matrix. -/
def Insn.columnPlace (i : Insn) (b : ImgByte) : Int × Bool :=
  (((0x40000000 + (i.q 2).bits 26 0 + 4 * b.line + b.off / 4 * i.stride + b.off % 4 : Nat) : Int), true)

/-- The runs of slot `k`. -/
def Entry.columnRuns (e : Entry) (k : Nat) : List Run := runsOf ((slotImgBytes e.shape k).map e.insn.columnPlace)

def vldUnit (s : State) (c : CtxId) (e : Entry) (k : Nat) : Res :=
  reading c s e (e.columnRuns k) fun s1 bs => .ok (s1.putTile e.insn.td (256 * k) (slotOf e.shape k bs)) e

/-- VLD's parts. -/
def vldParts : Parts where
  start := fun _ s e => startLoad columnCheck [(e.insn.td, 0)] s e
  units := fun _ e => e.shape.slots
  unit := fun c s e k => vldUnit s c e k
  finish := fun _ s e => s.endTile e.insn.td (e.insn.q 1)

/-- VLD (R236). -/
def execVld (c : CtxId) (n : Seq) (s : State) : Out := whenUp s (State.runInsn vldParts (isOp .vld) c n s)

def vstUnit (s : State) (c : CtxId) (e : Entry) (k : Nat) : Res :=
  writing (e.insn.carrier c) c s e (some 0) (shareOut (e.columnRuns k) (slotImage e.shape (s.relaid e) k)) fun s1 e1 => .ok s1 e1

/-- VST's parts. -/
def vstParts : Parts where
  start := fun _ s e => checked (s.srcChecks e (columnCheck e) fun _ => none) s fun _ => .ok s e
  units := fun _ e => e.shape.slots
  unit := fun c s e k => vstUnit s c e k
  finish := fun _ s e => s.lastUses [] [(e.insn.ta, e.insn.lastA)]

/-- VST (R236). -/
def execVst (c : CtxId) (n : Seq) (s : State) : Out := whenUp s (State.runInsn vstParts (isOp .vst) c n s)

/-! VOP (R237 to R240). -/

/-- The operation reads A, reads image B, reads D. -/
def vopReadsA (op : Nat) : Bool := op != 0x0A
def vopReadsB (op : Nat) : Bool := op != 0x00 && op != 0x07 && op != 0x0A
def vopReadsD (op : Nat) : Bool := op == 0x04
/-- CMPLT and CMPEQ. -/
def vopCompares (op : Nat) : Bool := op == 0x08 || op == 0x09

/-- The elements of unit `u` of an image of `n` elements: the first and the count (R220). -/
def unitFirst (u : Nat) : Nat := 256 * u
def unitCount (n u : Nat) : Nat := min 256 (n - 256 * u)
/-- The number of units. -/
def unitsIn (n : Nat) : Nat := (n + 255) / 256

/-- The width of a format entry. -/
def Entry.widthOf (e : Entry) (f : Nat) : Nat := (fmtAt e.fmts f).width

/-- R238's conversions, tested against R59. The 0 or 1 of CMPLT and CMPEQ is written to D of any format, INDEX32 too, without such a test.
(log 21: DEDUCED.) -/
def vopConv (e : Entry) : Option FaultRec :=
  let i := e.insn
  let d := i.deckle.fmt
  if vopCompares i.vopOp then none
  else if i.vopOp = 0x0A then
    (if (fmtAt e.fmts d).kind = .scaleExp then some (deckleIllegalFault ownInfo) else none)
  else
    firstOf (convTest e.fmts i.afmt d) fun _ => firstOf (if vopReadsB i.vopOp then convTest e.fmts i.bfmt d else none) fun _ =>
      firstOf (if vopReadsD i.vopOp then convTest e.fmts d d else none) fun _ =>
        if i.vopOp = 0x07 then convTest e.fmts 0 d else none

/-- VOP's checks: the stream deckle, the entries it names, its conversions. (log 30: DEDUCED.) -/
def vopChecks (e : Entry) : Option FaultRec :=
  firstOf (streamCheck e.fmts (e.insn.q 1)) fun _ =>
    firstOf (if e.insn.fmts.all (fmtNamedOk e.fmts) then none else some (deckleIllegalFault ownInfo)) fun _ => vopConv e

/-- D overlaps A or B without being the same image, or A and B overlap (R240). (log 36: DEDUCED.) -/
def Entry.vopOverlap (e : Entry) : Bool :=
  let i := e.insn
  let n := i.deckle.count
  let dc := streamC e.fmts i.deckle
  let source (o f : Nat) : Run := denseRun (vatAddr o) (e.widthOf f) 0 n
  let clash (o f : Nat) : Bool :=
    (denseRun (vatAddr i.vopDst) dc 0 n).meets (source o f) && !(o == i.vopDst && f == i.deckle.fmt && dc == e.widthOf f)
  (vopReadsA i.vopOp && clash i.vopSrcA i.afmt) || (vopReadsB i.vopOp && clash i.vopSrcB i.bfmt) ||
    (vopReadsA i.vopOp && vopReadsB i.vopOp && (source i.vopSrcA i.afmt).meets (source i.vopSrcB i.bfmt))

/-- A VOP result from the operands' values (R237, R238). -/
def vopResult (f : Fmt) (sel : Sel) (op word : Nat) (a b d : Val) : Nat :=
  let down := sel.rnd == 3
  let conv := convertVal f sel word
  let flag (t : Bool) : Nat := convertVal f sel word (.fin false (b2n t) 1)
  match op with
  | 0x00 => conv a
  | 0x01 => conv (valAdd down a b)
  | 0x02 => conv (valAdd down a (valNeg b))
  | 0x03 => conv (valMul a b)
  | 0x04 => conv (valAdd down (valMul a b) d)
  | 0x05 => conv (valMin a b)
  | 0x06 => conv (valMax a b)
  | 0x07 => conv (valMul a b)
  | 0x08 => flag (valCmpLt a b)
  | _ => flag (valCmpEq a b)

/-- A RAND element (R239) from its word and, under SR, its second word. -/
def randResult (f : Fmt) (sel : Sel) (r second : Nat) : Nat :=
  match f.kind with
  | .sint => r / 2 ^ (32 - f.width)
  | .uint => r / 2 ^ (32 - f.width)
  | .index => r
  | .bit => r / 2 ^ 31
  | _ => convertVal f sel second (valPow false r (-32))

/-- The codes of unit `u`'s destination elements. `av`, `bv`, `dv` are the operands' codes. -/
def Entry.vopCodes (e : Entry) (first : Nat) (av bv dv : Array Nat) (scale : Val) (m : Nat) : List Nat :=
  let i := e.insn
  let f := fmtAt e.fmts i.deckle.fmt
  (List.range m).map fun j =>
    let k := first + j
    if i.vopOp = 0x0A then
      randResult f i.sel (squallWord e.coord (bitsOf i.srcbField 7 0) 0 k) (e.srWord 1 k)
    else
      let b := if i.vopOp = 0x07 then scale else elemVal (fmtAt e.fmts i.bfmt) (bv.getD j 0)
      vopResult f i.sel i.vopOp (e.srWord 0 k) (elemVal (fmtAt e.fmts i.afmt) (av.getD j 0)) b (elemVal f (dv.getD j 0))

def vopUnit (c : CtxId) (s : State) (e : Entry) (u : Nat) : Res :=
  if s.segmentBusy (u % 16) then .wait s
  else
  let i := e.insn
  let op := i.vopOp
  let first := unitFirst u
  let m := unitCount i.deckle.count u
  let dc := streamC e.fmts i.deckle
  let ra := if vopReadsA op then [denseRun (vatAddr i.vopSrcA) (e.widthOf i.afmt) first m] else []
  let rb := if vopReadsB op then [denseRun (vatAddr i.vopSrcB) (e.widthOf i.bfmt) first m] else []
  let rd := if vopReadsD op then [denseRun (vatAddr i.vopDst) dc first m] else []
  reading c s e (ra ++ rb ++ rd ++ [denseRun (vatAddr i.vopDst) dc first m]) fun s1 _ =>
    let who := e.seq.toNat
    let av := (denseCodes (e.widthOf i.afmt) (e.widthOf i.afmt) first m (s1.readBytes c who ra)).toArray
    let bv := (denseCodes (e.widthOf i.bfmt) (e.widthOf i.bfmt) first m (s1.readBytes c who rb)).toArray
    let dv := (denseCodes dc (e.widthOf i.deckle.fmt) first m (s1.readBytes c who rd)).toArray
    let out := orFree s1 e.vopOverlap (e.widthOf i.deckle.fmt) (e.vopCodes first av bv dv (fp32At (e.rcd.getD []) 0) m)
    writingDense (laneCarrier (u % 16)) c s1 e (some 0) [(vatAddr i.vopDst, dc, first, out)] fun s2 e2 => .ok ((s2.useLanes [u % 16] m)) e2

/-- VOP's checks, and the scale record of SCALE. (log 33: DEDUCED.) -/
def vopStart (c : CtxId) (s : State) (e : Entry) : Res :=
  checked (vopChecks e) s fun _ => if e.insn.vopOp = 0x07 then readScale c s e (vatAddr e.insn.vopSrcB) else .ok s e

/-- VOP's parts. -/
def vopParts : Parts where
  start := vopStart
  units := fun _ e => unitsIn e.insn.deckle.count
  unit := fun c s e u => vopUnit c s e u
  finish := fun _ s _ => s

/-- A VOP of operation `k`. -/
def isVop (k : Nat) (i : Insn) : Bool := i.op == some .vop && i.vopOp == k

/-- VOP COPY (R237). -/
def execCopy (c : CtxId) (n : Seq) (s : State) : Out := whenUp s (State.runInsn vopParts (isVop 0x00) c n s)
/-- VOP ADD (R237). -/
def execAdd (c : CtxId) (n : Seq) (s : State) : Out := whenUp s (State.runInsn vopParts (isVop 0x01) c n s)
/-- VOP SUB (R237). -/
def execSub (c : CtxId) (n : Seq) (s : State) : Out := whenUp s (State.runInsn vopParts (isVop 0x02) c n s)
/-- VOP MUL (R237). -/
def execMul (c : CtxId) (n : Seq) (s : State) : Out := whenUp s (State.runInsn vopParts (isVop 0x03) c n s)
/-- VOP FMA (R237). -/
def execFma (c : CtxId) (n : Seq) (s : State) : Out := whenUp s (State.runInsn vopParts (isVop 0x04) c n s)
/-- VOP MIN (R237). -/
def execMin (c : CtxId) (n : Seq) (s : State) : Out := whenUp s (State.runInsn vopParts (isVop 0x05) c n s)
/-- VOP MAX (R237). -/
def execMax (c : CtxId) (n : Seq) (s : State) : Out := whenUp s (State.runInsn vopParts (isVop 0x06) c n s)
/-- VOP SCALE (R237). -/
def execScale (c : CtxId) (n : Seq) (s : State) : Out := whenUp s (State.runInsn vopParts (isVop 0x07) c n s)
/-- VOP CMPLT (R237). -/
def execCmplt (c : CtxId) (n : Seq) (s : State) : Out := whenUp s (State.runInsn vopParts (isVop 0x08) c n s)
/-- VOP CMPEQ (R237). -/
def execCmpeq (c : CtxId) (n : Seq) (s : State) : Out := whenUp s (State.runInsn vopParts (isVop 0x09) c n s)
/-- VOP RAND (R239). -/
def execRand (c : CtxId) (n : Seq) (s : State) : Out := whenUp s (State.runInsn vopParts (isVop 0x0A) c n s)

/-! AMAX (R241, R242; 09 R296 to R302). -/

/-- A valid scale: positive, finite, normal FP32 (R301). -/
def validScale (code : Nat) : Bool := decide (0x00800000 ≤ code) && decide (code < 0x7F800000)

/-- A finite FP32 code. -/
def finite32 (code : Nat) : Bool := code / 2 ^ 23 % 256 != 255

/-- The code of a valid or +0 value, exact in FP32. -/
def codeOf32 (v : Val) : Nat := convertVal fp32 selInternal 0 v

/-- Value times 2^e. -/
def timesPow (v : Val) (e : Int) : Val := valShift v e

/-- A curve's fields (R296, R297). -/
structure Curve where
  lo : Quad
  hi : Quad
  deriving DecidableEq, Repr

def Curve.tmax (k : Curve) : Nat := k.lo.bits 31 0
def Curve.margin (k : Curve) : Int := signedOf (k.lo.bits 39 32) 8
def Curve.backoff (k : Curve) : Int := signedOf (k.lo.bits 47 40) 8
def Curve.emin (k : Curve) : Int := signedOf (k.lo.bits 55 48) 8
def Curve.emax (k : Curve) : Int := signedOf (k.lo.bits 63 56) 8
def Curve.reduce (k : Curve) : Nat := k.hi.bits 1 0
def Curve.pow2 (k : Curve) : Bool := k.hi.bit 2
def Curve.boen (k : Curve) : Bool := k.hi.bit 3
def Curve.grow (k : Curve) : Nat := k.hi.bits 7 4

/-- R299. -/
def Curve.wellFormed (k : Curve) : Bool :=
  validScale k.tmax && decide (-126 ≤ k.emin) && decide (k.emin ≤ 127) && decide (-126 ≤ k.emax) && decide (k.emax ≤ 127) &&
  decide (k.emin ≤ k.emax) && decide (k.reduce ≤ 1) && k.hi.bits 63 8 == 0

/-- Curve `n` of the table. -/
def State.curve (s : State) (n : Nat) : Curve :=
  ⟨((s.tab.scurve[2 * n]?).getD {}).val, ((s.tab.scurve[2 * n + 1]?).getD {}).val⟩

/-- A register of curve `n` whose copies all differ, as its number in the table (12 R406). -/
def State.curveBad (s : State) (n : Nat) : Option Nat :=
  [2 * n, 2 * n + 1].find? fun k => ((s.tab.scurve[k]?).getD {}).vote == none

/-- A nonzero positive value rounded toward zero to a 24-bit significand (R301). -/
def truncate24 : Val → Val
  | .fin s n d =>
    let e := floorLog2 n d - 23
    let p := scalePow n d (-e)
    valPow s (p.1 / p.2) e
  | v => v

/-- The lesser and greater of two values of R301's clamp. -/
def clampScale (v lo hi : Val) : Val :=
  let a := if valLt v lo then lo else v
  if valLt hi a then hi else a

/-- ⌊log2⌋ of a positive value. -/
def log2Of : Val → Int
  | .fin _ n d => floorLog2 n d
  | _ => 0

/-- derive_scale of R301: the new SCALE's code. `ring` holds the entries 0 to len − 1. -/
def deriveScale (k : Curve) (skipped : Bool) (oldCode lstep : Nat) (ring : List Nat) : Nat :=
  let len := ring.length
  let old := elemVal fp32 oldCode
  let valid := validScale oldCode
  let two (e : Int) : Val := valPow false 1 e
  let result :=
    if skipped && k.boen then (if valid then timesPow old k.backoff else two k.emin)
    else
      let largest :=
        if k.reduce = 0 then valMaxAbs ((ring.filter finite32).map (elemVal fp32))
        else
          let x := ring.getD (lstep % len) 0
          if finite32 x then valAbs (elemVal fp32 x) else valZero false
      if valIsZero largest then (if valid then old else two 0)
      else
        let quotient := valDiv (elemVal fp32 k.tmax) largest
        let r := if k.pow2 then two (log2Of quotient - k.margin) else truncate24 (timesPow quotient (-k.margin))
        let cap := timesPow old (k.grow : Int)
        if valid && decide (k.grow < 15) && valLt cap r then cap else r
  codeOf32 (clampScale result (two k.emin) (two k.emax))

/-- The record address of AMAX. -/
def Insn.recAt (i : Insn) : Int := vatAddr ((i.q 3).bits 26 0)
def Insn.amaxSrc (i : Insn) : Int := vatAddr ((i.q 2).bits 26 0)
def Insn.amaxFinal (i : Insn) : Bool := i.xf.testBit 0
def Insn.amaxNfs (i : Insn) : Bool := i.xf.testBit 1

/-- R299 and R406 on the curve that a record names, with FINAL: an ill-formed curve makes CURVE the failing field. -/
def State.curveFault (s : State) (n : Nat) : Option FaultRec :=
  match s.curveBad n with
  | some k => some ⟨0x0E, BitVec.ofNat 64 (1 + k * 256)⟩
  | none => if (s.curve n).wellFormed then none else some (recordFault 13)

/-- What is wrong with the record of an AMAX, its fields in ascending order (R222, R241; 09 R299). -/
def State.amaxFault (s : State) (final : Bool) (bs : List Byte) : Option FaultRec :=
  firstOf (scaleHeadFault bs) fun _ => firstOf (if final then s.curveFault (numAt bs 13 1) else none) fun _ => scaleTailFault bs

/-- The curve registers that an AMAX with FINAL reads: those of the curve that its record names, where it names one (R298; 12 R405). -/
def amaxRegs (final : Bool) (bs : List Byte) : List TabReg :=
  if final && (scaleHeadFault bs).isNone then curveRegs (numAt bs 13 1) else []

/-- AMAX reads its record, with the curve that FINAL takes (R298), before it reads the image. -/
def amaxStart (c : CtxId) (s : State) (e : Entry) : Res :=
  checked (streamCheck e.fmts (e.insn.q 1)) s fun _ =>
    reading c s e [scaleRun e.insn.recAt] fun s1 bs =>
      let s2 := s1.compareAll (amaxRegs e.insn.amaxFinal bs)
      checked (s2.amaxFault e.insn.amaxFinal bs) s2 fun _ =>
        let k := s2.curve (numAt bs 13 1)
        .ok s2 { e with rcd := some (bs ++ leBytes 8 k.lo.toNat ++ leBytes 8 k.hi.toNat) }

/-- Replaces `bs.length` bytes at `o`. -/
def patch (l : List Byte) (o : Nat) (bs : List Byte) : List Byte := l.take o ++ bs ++ l.drop (o + bs.length)

/-- The record after a fold (R242); the operand holds the 512 bytes of the record and then the curve. -/
def foldRecord (rcd : List Byte) (step : Nat) (a : Nat) (final skipped : Bool) : List Byte :=
  let bs := rcd.take 512
  let len := numAt bs 12 1
  let at_ := 64 + 4 * (step % len)
  let old := numAt bs at_ 4
  let new := if numAt bs 8 4 ≠ step then a
    else codeOf32 (valMax (valAbs (elemVal fp32 old)) (elemVal fp32 a))
  let b1 := patch (patch bs at_ (leBytes 4 new)) 8 (leBytes 4 step)
  if final then
    let k : Curve := ⟨BitVec.ofNat 64 (numAt rcd 512 8), BitVec.ofNat 64 (numAt rcd 520 8)⟩
    let ring := (List.range len).map fun i => numAt b1 (64 + 4 * i) 4
    patch (patch b1 0 (leBytes 4 (deriveScale k skipped (numAt bs 0 4) step ring))) 4 (leBytes 4 (step + 1))
  else b1

def amaxUnit (c : CtxId) (s : State) (e : Entry) : Res :=
  let i := e.insn
  let d := i.deckle
  let n := d.count
  let f := fmtAt e.fmts d.fmt
  let cw := streamC e.fmts d
  reading c s e [denseRun i.amaxSrc cw 0 n] fun s1 bs =>
    let m := valMaxAbs ((denseCodes cw f.width 0 n bs).map (elemVal f))
    let a := codeOf32 m
    let rcd := foldRecord (e.rcd.getD []) e.step.toNat a i.amaxFinal (s1.ctx c).skipped
    writing (laneCarrier (vatSegment (vatOffset i.amaxSrc))) c s1 e (some 0) [(runAt i.recAt i.recAt 512, rcd)] fun s2 e2 =>
      .ok ((s2.useLanes (denseRun i.amaxSrc cw 0 n).segments n).upCtx c fun x => x.meetNonfinite (i.amaxNfs && !valIsFinite m)) e2

/-- AMAX's parts. -/
def amaxParts : Parts where
  start := amaxStart
  units := fun _ _ => 1
  unit := fun c s e _ => amaxUnit c s e
  finish := fun _ s _ => s

/-- AMAX (R242). -/
def execAmax (c : CtxId) (n : Seq) (s : State) : Out := whenUp s (State.runInsn amaxParts (isOp .amax) c n s)

/-! UPD and COMMIT (R243 to R246; 09 R303 to R306). -/

/-- The first of the address fields of a descriptor, at offsets 0, 8, … below `m`, with a bit above 47 set (R222). -/
def addrFieldsFault (bs : List Byte) (lo m : Nat) : Option Nat :=
  ((List.range m).map fun k => lo + 8 * k).find? fun o => numAt bs (o + 6) 2 != 0

/-- The first failing field of an update descriptor. -/
def updDescFault (bs : List Byte) : Option FaultRec :=
  match addrFieldsFault bs 0 9 with
  | some o => some (recordFault o)
  | none => if numAt bs 112 16 ≠ 0 then some (recordFault 112) else none

/-- An FP32 constant of the descriptor. -/
def Entry.updConst (e : Entry) (o : Nat) : Val := fp32At (e.rcd.getD []) o
/-- An image base of the descriptor, by number: GRAD 0, HIGH 1 and 2, LOW 3 and 4, FIRST 5 and 6, SECOND 7 and 8. -/
def Entry.updBase (e : Entry) (k : Nat) : Nat := numAt (e.rcd.getD []) (8 * k) 6

/-- The container width of image `k`. -/
def Entry.updC (e : Entry) (k : Nat) : Nat :=
  if k = 0 then streamC e.fmts e.insn.deckle else if k ≤ 4 then 16 else 32

/-- Image `k` whole. -/
def Entry.updImage (e : Entry) (k : Nat) : Run := denseRun (e.updBase k) (e.updC k) 0 e.insn.deckle.count

/-- What UPD computes for one element (R244). -/
structure Updated where
  weight : Nat
  first : Nat
  second : Nat
  nonfinite : Bool
  deriving DecidableEq, Repr

/-- The last operation of a result: a fused multiply-add rounded under the instruction's selections. -/
def finalFma (sel : Sel) (word : Nat) (a b c : Val) : Nat := convertVal fp32 sel word (valAdd (sel.rnd == 3) (valMul a b) c)

/-- R244 for one element; `word j` is its random word of draw `j`. -/
def updElement (e : Entry) (sel : Sel) (word : Nat → Nat) (grad weight first second : Val) : Updated :=
  let g := mul32 grad (e.updConst 72)
  let newFirst := finalFma sel (word 1) (e.updConst 76) first (mul32 (e.updConst 80) g)
  let newSecond := finalFma sel (word 2) (e.updConst 84) second (mul32 (e.updConst 88) (mul32 g g))
  let den := add32 (sqrt32 (mul32 (floatVal fp32 newSecond) (e.updConst 96))) (e.updConst 100)
  let dir := div32 (mul32 (floatVal fp32 newFirst) (e.updConst 92)) den
  let dir2 := fma32 (e.updConst 104) weight dir
  { weight := finalFma sel (word 0) (e.updConst 108) dir2 weight
    first := newFirst
    second := newSecond
    nonfinite := !valIsFinite g }

/-- The parity of the current generation (R224, R305). -/
def Ctx.parity (x : Ctx) : Nat := x.gen.toNat % 2
def State.parity (s : State) (c : CtxId) : Nat := (s.ctx c).parity

/-- Images of a descriptor overlap: the staged images are then open (R304). -/
def Entry.updOverlap (e : Entry) : Bool := anyMeet ((List.range 9).map e.updImage)

/-- A current image, with parity `p`, or the gradient holds the byte at an address. -/
def Entry.updKeeps (e : Entry) (p : Nat) (a : Int) : Bool := ([0, 1 + p, 3 + p, 5 + p, 7 + p].map e.updImage).any fun k => k.meets ⟨a, 1, false⟩

/-- The bytes of a staged image's run with the bytes that a current image or the gradient holds left out (R304). -/
def Entry.updKeep (e : Entry) (p : Nat) (r : Run) : List Run :=
  runsOf (((List.range r.len).map fun (i : Nat) => (r.addr + (i : Int), r.vat)).filter fun a => !e.updKeeps p a.1)

/-- The open byte that an instruction leaves at an address (log 4). -/
def Entry.openByte (e : Entry) (a : Int) : Byte := Config.freeByte (e.openNo.getD 0) a.toNat

/-- The open bytes of a run. -/
def Entry.openBytes (e : Entry) (r : Run) : List Byte := (List.range r.len).map fun (i : Nat) => e.openByte (r.addr + (i : Int))

/-- What a run of a staged image holds after an UPD whose images overlap: where a current image or the gradient holds a byte, that byte as
it stands in `s` (R304; 10 R349). -/
def Entry.updLeft (e : Entry) (s : State) (c : CtxId) (p : Nat) (r : Run) : List Byte :=
  ((List.range r.len).zip (s.runBytes c e.seq.toNat r)).map fun x =>
    if e.updKeeps p (r.addr + x.1) then x.2 else e.openByte (r.addr + x.1)

/-- The writes of a unit: the staged images' runs with their bytes. -/
def Entry.updWrites (e : Entry) (p : Nat) (ws : List (Run × List Byte)) : List (Run × List Byte) :=
  if e.updOverlap then (ws.flatMap fun w => e.updKeep p w.1).map fun r => (r, e.openBytes r) else ws

/-- What the staged images' runs hold after a unit (10 R349). -/
def Entry.updFinal (e : Entry) (s : State) (c : CtxId) (p : Nat) (ws : List (Run × List Byte)) : List (Run × List Byte) :=
  if e.updOverlap then ws.map fun w => (w.1, e.updLeft s c p w.1) else ws

/-- SEALED is clear for good: an UPD has written, faulted or completed (R245; 06 R197). (log 37: DEDUCED.) -/
def Ctx.unseal (x : Ctx) : Ctx := { x with sealedGen := false }

/-- UPD's checks, and its descriptor; the open contents of overlapping images take one number for the whole instruction. -/
def updStart (c : CtxId) (s : State) (e : Entry) : Res :=
  checked (firstOf (streamCheck e.fmts (e.insn.q 1)) fun _ =>
      if (fmtAt e.fmts e.insn.deckle.fmt).kind = .float then none else some (deckleIllegalFault ownInfo)) s fun _ =>
    reading c s e [run e.insn.base 128] fun s1 bs =>
      checked (updDescFault bs) s1 fun _ =>
        let e1 := { e with rcd := some bs }
        if e1.updOverlap && e1.openNo.isNone then .ok s1.fresh { e1 with openNo := some s1.freeCtr } else .ok s1 e1

/-- Unit `u` of UPD: its images are judged together (R304), then the current ones are read and the staged ones written. -/
def updUnit (c : CtxId) (s0 : State) (e : Entry) (u : Nat) : Res :=
  if s0.segmentBusy (u % 16) then .wait s0
  else
  let i := e.insn
  let n := i.deckle.count
  let first := unitFirst u
  let m := unitCount n u
  let p := s0.parity c
  let t := 1 - p
  let piece (k : Nat) : Run := denseRun (e.updBase k) (e.updC k) first m
  let rs := [piece 0, piece (1 + p), piece (3 + p), piece (5 + p), piece (7 + p)]
  let staged := [piece (1 + t), piece (3 + t), piece (5 + t), piece (7 + t)]
  -- where images overlap, a staged run may hold bytes of a current one
  let all := if e.updOverlap then rs ++ staged else rs
  judging c s0 e all staged fun s =>
  reading c s e all fun s1 _ =>
    let who := e.seq.toNat
    let codes (k w : Nat) : Array Nat := (denseCodes (e.updC k) w first m (s1.runBytes c who (piece k))).toArray
    let f := fmtAt e.fmts i.deckle.fmt
    let grad := codes 0 f.width
    let hi := codes (1 + p) 16
    let lo := codes (3 + p) 16
    let fm := codes (5 + p) 32
    let sm := codes (7 + p) 32
    let out := (List.range m).map fun j =>
      updElement e i.sel (fun d => e.srWord d (first + j)) (floatVal f (grad.getD j 0))
        (floatVal fp32 (hi.getD j 0 * 65536 + lo.getD j 0)) (floatVal fp32 (fm.getD j 0)) (floatVal fp32 (sm.getD j 0))
    let ws := staged.zip [out.flatMap fun x => leBytes 2 (x.weight / 65536), out.flatMap fun x => leBytes 2 x.weight,
      out.flatMap fun x => leBytes 4 x.first, out.flatMap fun x => leBytes 4 x.second]
    let ls := e.updFinal s1 c p ws
    writing (laneCarrier (u % 16)) c s1 e none (e.updWrites p ws) fun s2 e2 =>
      let e3 := (List.range 4).foldl (fun a k => a.note s2 k [ls.getD k (⟨0, 0, false⟩, [])]) e2
      .ok ((s2.useLanes [u % 16] m).upCtx c fun x => x.unseal.meetNonfinite (i.xf.testBit 0 && out.any Updated.nonfinite)) e3

/-- UPD's parts. -/
def updParts : Parts where
  start := updStart
  units := fun _ e => unitsIn e.insn.deckle.count
  unit := fun c s e u => updUnit c s e u
  finish := fun c s _ => s.upCtx c Ctx.unseal

/-- UPD (R244). -/
def execUpd (c : CtxId) (n : Seq) (s : State) : Out := whenUp s (State.runInsn updParts (isOp .upd) c n s)

/-- COMMIT's parts. -/
def commitParts : Parts where
  start := fun _ s e => .ok s e
  units := fun _ _ => 0
  unit := fun _ s e _ => .ok s e
  finish := fun c s _ => s.upCtx c fun x => { x with sealedGen := true }

/-- COMMIT (R246). -/
def execCommit (c : CtxId) (n : Seq) (s : State) : Out := whenUp s (State.runInsn commitParts (isOp .commit) c n s)

end Sys2Proof.Machine
end

