-- ==== Sys2Proof/Machine/Screen.lean ====
section
/-! DEFINITION. The Screen's sorter: its descriptor and checks, SORT, DISP and COMB (07 R247 to R252; 08 R266 to R282). -/

namespace Sys2Proof.Machine

/-! The descriptor (R247). -/

/-- A field of the Screen descriptor: `k` bytes at `o`. -/
def Entry.desc (e : Entry) (o k : Nat) : Nat := numAt (e.rcd.getD []) o k
def Entry.scCount (e : Entry) : Nat := e.desc 0 4
def Entry.scChoice (e : Entry) : Nat := e.desc 4 1
def Entry.scFmt (e : Entry) (k : Nat) : Nat := e.desc (5 + k) 1
def Entry.scExperts (e : Entry) : Nat := e.desc 8 2 + 1
def Entry.scFlags (e : Entry) : Nat := e.desc 10 2
def Entry.scCap (e : Entry) : Nat := e.desc 12 4
def Entry.scAddr (e : Entry) (k : Nat) : Nat := e.desc (16 + 8 * k) 6
def Entry.scStride (e : Entry) (k : Nat) : Nat := e.desc (64 + 4 * k) 4
def Entry.scWork (e : Entry) : Nat := e.desc 72 4
/-- Entries of the expert and combine lists: T × K. -/
def Entry.scEntries (e : Entry) : Nat := e.scCount * e.scChoice

/-- The width in bytes of fixed entry `f`. -/
def fixedBytes (f : Nat) : Nat := (fmtAt [] f).width / 8

/-- The largest number of records (R247). -/
def sorterMost : Nat := 16777216

/-- The first offset of a list whose test fails. -/
def firstBad (l : List (Nat × Bool)) : Option Nat := (l.find? fun p => !p.2).map Prod.fst

/-- An address field: bits 63:48 zero, aligned (R247, R270). -/
def addrOk (e : Entry) (k align : Nat) : Nat × Bool :=
  (16 + 8 * k, e.desc (16 + 8 * k + 6) 2 == 0 && e.scAddr k % align == 0)
/-- An address field that must be zero. -/
def addrZero (e : Entry) (k : Nat) : Nat × Bool := (16 + 8 * k, e.desc (16 + 8 * k) 8 == 0)

/-- The reserved bytes 127:76. -/
def tailZero (e : Entry) : Nat × Bool := (76, e.desc 76 52 == 0)

/-- SORT's flags (R247). -/
def Entry.sortDesc (e : Entry) : Bool := e.scFlags.testBit 0
def Entry.sortIota (e : Entry) : Bool := e.scFlags.testBit 1
def Entry.sortKeys (e : Entry) : Bool := e.scFlags.testBit 2
/-- DISP's POLICY (R247, R279). -/
def Entry.policy (e : Entry) : Nat := bitsOf e.scFlags 1 0

/-- The first failing field of a SORT descriptor (R247, R249, R270, R271). -/
def sortDescBad (e : Entry) : Option Nat :=
  let w := fixedBytes (e.scFmt 0)
  firstBad [(0, decide (1 ≤ e.scCount) && decide (e.scCount ≤ sorterMost)), (4, e.scChoice == 0),
    (5, [0, 1, 2, 8, 9, 10, 12, 13].contains (e.scFmt 0)), (6, e.desc 6 2 == 0), (8, e.desc 8 2 == 0),
    (10, e.scFlags / 8 == 0), (12, e.scCap == 0), addrOk e 0 w, (if e.sortIota then addrZero e 1 else addrOk e 1 4),
    (if e.sortKeys then addrOk e 2 w else addrZero e 2), addrOk e 3 4, addrZero e 4, addrZero e 5,
    (64, e.scStride 0 == 0), (68, e.scStride 1 == 0), (72, e.scWork % 1024 == 0), tailZero e]

/-- The first failing field of a DISP descriptor (R247, R270, R271, R279). -/
def dispDescBad (e : Entry) : Option Nat :=
  firstBad [(0, decide (1 ≤ e.scCount) && decide (e.scEntries ≤ sorterMost)),
    (4, decide (1 ≤ e.scChoice) && decide (e.scChoice ≤ 8)), (5, decide (e.scFmt 0 ≤ 2)), (6, e.desc 6 2 == 0),
    (8, decide (e.scExperts * e.scCap ≤ sorterMost)), (10, decide (e.scFlags ≤ 2)), (12, decide (1 ≤ e.scCap)),
    addrOk e 0 4, addrOk e 1 (fixedBytes (e.scFmt 0)), addrOk e 2 4, addrOk e 3 4, addrOk e 4 4,
    (if e.policy = 1 then addrOk e 5 4 else addrZero e 5), (64, e.scStride 0 == 0), (68, e.scStride 1 == 0),
    (72, e.scWork % 1024 == 0), tailZero e]

/-- A format of COMB's rows (R271). -/
def rowFmtOk (f : Nat) : Bool := decide (f ≤ 4)

/-- The first failing field of a COMB descriptor (R247, R270, R271). -/
def combDescBad (e : Entry) : Option Nat :=
  let d := e.scCap
  let wb := fixedBytes (e.scFmt 1)
  let wc := fixedBytes (e.scFmt 2)
  firstBad [(0, decide (1 ≤ e.scCount) && decide (e.scEntries ≤ sorterMost)),
    (4, decide (1 ≤ e.scChoice) && decide (e.scChoice ≤ 8)), (5, decide (e.scFmt 0 ≤ 2)), (6, rowFmtOk (e.scFmt 1)),
    (7, rowFmtOk (e.scFmt 2)), (8, e.desc 8 2 == 0), (10, e.scFlags == 0), (12, decide (1 ≤ d) && decide (d ≤ 65536)),
    addrOk e 0 (fixedBytes (e.scFmt 0)), addrOk e 1 4, addrOk e 2 wb, addrOk e 3 wc, addrZero e 4, addrZero e 5,
    (64, decide (d * wb ≤ e.scStride 0) && e.scStride 0 % wb == 0), (68, decide (d * wc ≤ e.scStride 1) && e.scStride 1 % wc == 0),
    (72, e.scWork == 0), tailZero e]

/-! Images. -/

/-- A whole image of `n` bytes at address field `k`. -/
def Entry.scImage (e : Entry) (k n : Nat) : Run := run (e.scAddr k) n

/-- SORT's inputs and outputs, in the order of R249. -/
def Entry.sortIns (e : Entry) : List Run :=
  e.scImage 0 (e.scCount * fixedBytes (e.scFmt 0)) :: (if e.sortIota then [] else [e.scImage 1 (4 * e.scCount)])
def Entry.sortOuts (e : Entry) : List Run :=
  e.scImage 3 (4 * e.scCount) :: (if e.sortKeys then [e.scImage 2 (e.scCount * fixedBytes (e.scFmt 0))] else [])

/-- DISP's inputs and outputs, in the order of R251; the spill list at its whole range (R280). -/
def Entry.dispIns (e : Entry) : List Run :=
  [e.scImage 0 (4 * e.scEntries), e.scImage 1 (e.scEntries * fixedBytes (e.scFmt 0))]
def Entry.dispOuts (e : Entry) : List Run :=
  [e.scImage 2 (4 * e.scExperts * e.scCap), e.scImage 3 (4 * e.scEntries), e.scImage 4 (4 * (e.scExperts + 1))] ++
    (if e.policy = 1 then [e.scImage 5 (4 * e.scEntries)] else [])

/-- COMB's weights and combine list, one expert output row, and its output rows. -/
def Entry.combIns (e : Entry) : List Run :=
  [e.scImage 0 (e.scEntries * fixedBytes (e.scFmt 0)), e.scImage 1 (4 * e.scEntries)]
def Entry.combRow (e : Entry) (x : Nat) : Run :=
  runAt (e.scAddr 2) ((e.scAddr 2 + x * e.scStride 0 : Nat) : Int) (e.scCap * fixedBytes (e.scFmt 1))
def Entry.combOut (e : Entry) (t : Nat) : Run :=
  runAt (e.scAddr 3) ((e.scAddr 3 + t * e.scStride 1 : Nat) : Int) (e.scCap * fixedBytes (e.scFmt 2))
def Entry.combOuts (e : Entry) : List Run := (List.range e.scCount).map e.combOut

/-- The working area of `n` records, which WORK places in the Vat wherever it lies (R247, R268, R272). -/
def Entry.workRun (e : Entry) (n : Nat) : Run := ⟨vatAddr e.scWork, 8 * n, true⟩

/-- Images in two of several groups overlap. (log 36: DEDUCED.) -/
def groupsMeet : List (List Run) → Bool
  | [] => false
  | g :: r => r.any (fun h => g.any fun a => h.any a.meets) || groupsMeet r

/-- The images that R272 check 1 judges: those whose base lies in the Vat. -/
def vatImages (rs : List Run) : List Run := rs.filter Run.vat

/-! The sorter (R266, R267). -/

/-- A key is a NaN of a float format. -/
def keyIsNan (f : Fmt) (key : Nat) : Bool := f.kind == .float && valIsNan (floatVal f key)

/-- The exclusive-or of a code with all ones of its width. -/
def invCode (w code : Nat) : Nat := 2 ^ w - 1 - code % 2 ^ w

/-- sort_code of R266. -/
def sortCode (f : Fmt) (descending : Bool) (key : Nat) : Nat :=
  let w := f.width
  let flip := key ^^^ 2 ^ (w - 1)
  let code :=
    match f.kind with
    | .uint => key
    | .index => key
    | .sint => flip
    | _ => if keyIsNan f key then 2 ^ w - 1 else if key.testBit (w - 1) then invCode w key else flip
  if descending then invCode w code else code

/-- rank_code of R276. -/
def rankCode (f : Fmt) (weight : Nat) : Nat :=
  let w := f.width
  let code := if keyIsNan f weight then 0 else if weight.testBit (w - 1) then invCode w weight else weight ^^^ 2 ^ (w - 1)
  invCode w code

/-- One stable counting pass over the digit that `digit` gives (R267). -/
def sortPass {α : Type} (digit : α → Nat) (rs : List α) : List α :=
  (List.range 256).flatMap fun b => rs.filter fun r => digit r == b

/-- Stable passes over the `k` lowest 8-bit digits of a code, lowest first. -/
def sortPasses {α : Type} (code : α → Nat) (k : Nat) (rs : List α) : List α :=
  (List.range k).foldl (fun l p => sortPass (fun r => code r / 2 ^ (8 * p) % 256) l) rs

/-- The words of an image of `w`-byte elements. -/
def wordsAt (w n : Nat) (bs : List Byte) : List Nat :=
  let a := bs.toArray
  (List.range n).map fun i => leNat ((List.range w).map fun j => a.getD (w * i + j) 0)

/-- A record: its input position, its code, its payload. -/
structure SortRec where
  pos : Nat
  code : Nat
  payload : Nat
  deriving DecidableEq, Repr

/-- The records of a SORT in sorted order (R249). -/
def sortedRecs (f : Fmt) (descending : Bool) (keys payloads : List Nat) : List SortRec :=
  let rs := ((List.range keys.length).zip (keys.zip payloads)).map fun r => (⟨r.1, sortCode f descending r.2.1, r.2.2⟩ : SortRec)
  sortPasses SortRec.code (f.width / 8) rs

/-! Dispatch (R250, R277). -/

/-- A dispatch entry: its position and its expert. -/
structure DispRec where
  pos : Nat
  expert : Nat
  code : Nat
  deriving DecidableEq, Repr

/-- Numbers the entries of each run of equal experts from 0; `n` entries of `cur` came before. -/
def numberRuns (cur n : Nat) : List DispRec → List (DispRec × Nat)
  | [] => []
  | r :: rest =>
    let k := if r.expert = cur then n else 0
    (r, k) :: numberRuns r.expert (k + 1) rest

/-- Passes over the expert number: two digits when E exceeds 256 (R277). -/
def byExpert (experts : Nat) (rs : List DispRec) : List DispRec := sortPasses DispRec.expert (if 256 < experts then 2 else 1) rs

/-- The rank pass: entries by expert, then by rank code, then by position. -/
def rankPass (f : Fmt) (experts : Nat) (rs : List DispRec) : List DispRec :=
  byExpert experts (sortPasses DispRec.code (f.width / 8) rs)

/-- The mark pass: every ranked entry with its rank within its expert. -/
def markPass (f : Fmt) (experts : Nat) (rs : List DispRec) : List (DispRec × Nat) := numberRuns 0 0 (rankPass f experts rs)

/-- The kept entries in input order. -/
def keptInOrder (rs : List DispRec) (cap : Nat) (marked : List (DispRec × Nat)) : List DispRec :=
  let kept := marked.foldl (fun (a : Array Bool) m => if m.2 < cap then a.setIfInBounds m.1.pos true else a)
    (Array.replicate rs.length false)
  rs.filter fun r => kept.getD r.pos false

/-- The slot pass: each kept entry with its slot. -/
def slotPass (experts : Nat) (kept : List DispRec) : List (DispRec × Nat) := numberRuns 0 0 (byExpert experts kept)

/-- What DISP computes. -/
structure Dispatched where
  gather : List Nat
  combine : List Nat
  counts : List Nat
  spill : List Nat
  overflow : Nat
  firstOver : Nat
  deriving DecidableEq, Repr

/-- DISP's results from its expert list and gate weights (R250, R251). -/
def dispatch (f : Fmt) (experts cap choice : Nat) (es ws : List Nat) : Dispatched :=
  let rs := ((List.range es.length).zip (es.zip ws)).map fun r => (⟨r.1, r.2.1, rankCode f r.2.2⟩ : DispRec)
  let marked := markPass f experts rs
  let slots := slotPass experts (keptInOrder rs cap marked)
  let hole := 0xFFFFFFFF
  let above := marked.filter fun m => decide (cap ≤ m.2)
  let combine := (slots.foldl (fun (a : Array Nat) p => a.setIfInBounds p.1.pos (p.1.expert * cap + p.2))
    (Array.replicate es.length hole)).toList
  { gather := (slots.foldl (fun (a : Array Nat) p => a.setIfInBounds (p.1.expert * cap + p.2) (p.1.pos / choice))
      (Array.replicate (experts * cap) hole)).toList
    combine := combine
    counts := (slots.foldl (fun (a : Array Nat) p => a.setIfInBounds p.1.expert (p.2 + 1)) (Array.replicate experts 0)).toList ++
      [above.length]
    spill := ((List.range es.length).zip combine).filterMap fun p => if p.2 = hole then some p.1 else none
    overflow := above.length
    firstOver := ((above.headD (⟨0, 0, 0⟩, 0)).1).expert }

/-! Running a Screen instruction. -/

/-- The instruction begins: the descriptor is read and checked, then check 1 of R272; from then on the working area holds open
contents (R269). `ins` and `outs` are its images, `n` its records. (log 38: DEDUCED.) -/
def screenBegin (c : CtxId) (s : State) (e : Entry) (descBad : Entry → Option Nat) (images : Entry → List Run) (records : Entry → Nat)
    (r : State → Entry → Res) : Res :=
  if !e.granted then .wait s
  else
    reading c s e [run e.insn.base 128] fun s1 bs =>
      let e1 := { e with rcd := some bs }
      match descBad e1 with
      | some o => .fault (recordFault o) s1
      | none =>
        let n := records e1
        let work := if n = 0 then [] else [e1.workRun n]
        match s1.lowestFault c (work ++ vatImages (images e1)) with
        | some p => .fault (addrFault p) s1
        | none =>
          match s1.reach c e.seq.toNat true work with
          | .wait s2 => .wait s2
          | .fault f s2 => .fault f s2
          | .ok s2 =>
            if n = 0 then r s2 e1
            else
              r ({ s2 with vat := putBytes s2.vat e1.scWork (freeBytes s2.freeCtr (8 * n)),
                           screen := { s2.screen with bufFree := some s2.freeCtr } } : State).fresh { e1 with wrote := true }

/-- The records that counting passes over the `k` lowest digits of some codes place: every pass all of them, but that a pass whose records
share one digit may be left out (R267; 15 R469). `at_` numbers the passes' free choices. (log 16: DESIGN CHOICE.) -/
def State.placedBy (s : State) (at_ k : Nat) (codes : List Nat) : Nat :=
  ((List.range k).map fun p =>
    let digits := codes.map fun c => c / 2 ^ (8 * p) % 256
    if digits.all (· == digits.headD 0) && (Config.freeCount (at_ + p) s.freeCtr).getLsbD 0 then 0 else codes.length).sum

/-- Counter 8 advances by the records placed. (log 16: DESIGN CHOICE.) -/
def State.tallyPlaced (s : State) (n : Nat) : State := (s.tally 8 n).fresh

/-- Passes that have run to their end count once (15 R469), when the instruction writes its outputs or faults there; one that waits makes them
anew. (log 16: DESIGN CHOICE.) -/
def Res.placing (r : Res) (n : Nat) : Res :=
  match r with
  | .ok s e => .ok (s.tallyPlaced n) e
  | .wait s => .wait s
  | .fault f s => .fault f (s.tallyPlaced n)

/-- Open contents, numbered `k`, of a run: one byte for each address, whichever images hold it (log 4). -/
def openRun (k : Nat) (r : Run) : List Byte := (List.range r.len).map fun (i : Nat) => Config.freeByte k (r.addr + (i : Int)).toNat

/-- Output images: what is computed, or open contents where images overlap (R248). -/
def orOpen (s : State) (free : Bool) (ps : List (Run × List Byte)) : List (Run × List Byte) :=
  if free then ps.map fun p => (p.1, openRun s.freeCtr p.1) else ps

/-- Writes the output images, each noted for the trail in its order. (log 38: DEDUCED.) -/
def writeOutputs (c : CtxId) (s : State) (e : Entry) (free : Bool) (ps : List (Run × List Byte)) (image : Nat → Nat) : Res :=
  let ws := orOpen s free ps
  writing (e.insn.carrier c) c s e none ws fun s1 e1 =>
    let e2 := ((List.range ws.length).zip ws).foldl (fun a p => a.note s1 (image p.1) [p.2]) e1
    .ok (if free then s1.fresh else s1) e2

/-- 32-bit words as bytes. -/
def words4 (ws : List Nat) : List Byte := ws.flatMap (leBytes 4)

def sortStart (c : CtxId) (s : State) (e : Entry) : Res :=
  screenBegin c s e sortDescBad (fun e => e.sortIns ++ e.sortOuts) (fun e => e.scCount) fun s1 e1 => .ok s1 e1

/-- The descriptor's own bytes as an image. -/
def Entry.descRun (e : Entry) : Run := run e.insn.base 128

/-- A SORT: its inputs are read before its last pass writes (08 R273). -/
def sortUnit (c : CtxId) (s : State) (e : Entry) : Res :=
  let n := e.scCount
  let f := fmtAt [] (e.scFmt 0)
  let w := fixedBytes (e.scFmt 0)
  reading c s e e.sortIns fun s1 bs =>
    let keys := wordsAt w n bs
    let payloads := if e.sortIota then List.range n else wordsAt 4 n (bs.drop (w * n))
    let out := sortedRecs f e.sortDesc keys payloads
    let free := groupsMeet ((e.sortIns ++ e.sortOuts ++ [e.workRun n, e.descRun]).map fun r => [r])
    let ka := keys.toArray
    let placed := s1.placedBy 32 (f.width / 8) (keys.map (sortCode f e.sortDesc))
    (writeOutputs c s1 e free
      (e.sortOuts.zip [words4 (out.map SortRec.payload), out.flatMap fun r => leBytes w (ka.getD r.pos 0)]) id).placing placed

/-- SORT's parts. -/
def sortParts : Parts where
  start := sortStart
  units := fun _ _ => 1
  unit := fun c s e _ => sortUnit c s e
  finish := fun _ s _ => s

/-- SORT (R249). -/
def execSort (c : CtxId) (n : Seq) (s : State) : Out := whenUp s (State.runInsn sortParts (isOp .sort) c n s)

/-- The expert list and gate weights from the bytes read. -/
def Entry.dispLists (e : Entry) (bs : List Byte) : List Nat × List Nat :=
  (wordsAt 4 e.scEntries bs, wordsAt (fixedBytes (e.scFmt 0)) e.scEntries (bs.drop (4 * e.scEntries)))

/-- DISP's results. -/
def Entry.dispResult (e : Entry) (bs : List Byte) : Dispatched :=
  let l := e.dispLists bs
  dispatch (fmtAt [] (e.scFmt 0)) e.scExperts e.scCap e.scChoice l.1 l.2

/-- The digits of an expert number (R277). -/
def Entry.expertDigits (e : Entry) : Nat := if 256 < e.scExperts then 2 else 1

/-- The records that a DISP's rank passes place (R277). -/
def Entry.rankPlaced (e : Entry) (s : State) (bs : List Byte) : Nat :=
  let l := e.dispLists bs
  let f := fmtAt [] (e.scFmt 0)
  s.placedBy 32 (f.width / 8) (l.2.map (rankCode f)) + s.placedBy 40 e.expertDigits l.1

/-- The records that its rank and slot passes place (R277). -/
def Entry.dispPlaced (e : Entry) (s : State) (bs : List Byte) : Nat :=
  let hole := 0xFFFFFFFF
  let kept := (((e.dispLists bs).1.zip (e.dispResult bs).combine).filter fun p => p.2 != hole).map Prod.fst
  e.rankPlaced s bs + s.placedBy 48 e.expertDigits kept

/-- Checks 2 and 3 of R272 (R250, R274). -/
def dispFault (e : Entry) (bs : List Byte) : Option FaultRec :=
  let es := (e.dispLists bs).1
  match ((List.range es.length).zip es).find? fun p => decide (e.scExperts ≤ p.2) with
  | some p => some (patternInvalid 8 0 p.1)
  | none =>
    let d := e.dispResult bs
    if e.policy = 2 ∧ 0 < d.overflow then
      some ⟨0x07, BitVec.ofNat 64 (d.firstOver + d.overflow * 2 ^ 32)⟩
    else none

/-- DISP begins. That its expert list and its gate weights are read together, so that ROW_FAULT of a weight comes before PATTERN_INVALID of an
expert number that is too high, is the model's choice (R272). Check 3 follows the rank passes, which count where it fails (R277; 15 R469).
(log 78: DESIGN CHOICE.) -/
def dispStart (c : CtxId) (s : State) (e : Entry) : Res :=
  screenBegin c s e dispDescBad (fun e => e.dispIns ++ e.dispOuts) Entry.scEntries fun s1 e1 =>
    reading c s1 e1 e1.dispIns fun s2 bs =>
      match dispFault e1 bs with
      | some f => .fault f (if f.code = 7 then s2.tallyPlaced (e1.rankPlaced s2 bs) else s2)
      | none => .ok s2 e1

def dispUnit (c : CtxId) (s : State) (e : Entry) : Res :=
  reading c s e e.dispIns fun s1 bs =>
    let d := e.dispResult bs
    let free := groupsMeet ((e.dispIns ++ e.dispOuts ++ [e.workRun e.scEntries, e.descRun]).map fun r => [r])
    let spill := if free then e.scImage 5 (4 * e.scEntries) else e.scImage 5 (4 * d.spill.length)
    let runs := e.dispOuts.take 3 ++ (if e.policy = 1 then [spill] else [])
    (writeOutputs c s1 e free
      (runs.zip [words4 d.gather, words4 d.combine, words4 d.counts, words4 d.spill]) id).placing (e.dispPlaced s1 bs)

/-- DISP's parts. -/
def dispParts : Parts where
  start := dispStart
  units := fun _ _ => 1
  unit := fun c s e _ => dispUnit c s e
  finish := fun _ s _ => s

/-- DISP (R250, R251). -/
def execDisp (c : CtxId) (n : Seq) (s : State) : Out := whenUp s (State.runInsn dispParts (isOp .disp) c n s)

/-! Combine (R252, R281, R282). -/

def combStart (c : CtxId) (s : State) (e : Entry) : Res :=
  screenBegin c s e combDescBad (fun e => e.combIns ++ e.combOuts) (fun _ => 0) fun s1 e1 => .ok s1 e1

/-- One output element: the products in ascending choice, summed and rounded (R230, R252). -/
def combElement (sel : Sel) (fc : Nat) (word : Nat) (ps : List Val) : Nat :=
  let v := dotExact (fc == 0 && sel.rnd == 3) ps
  convertVal (fmtAt [] fc) sel word (if fc = 0 then v else round32 v)

/-- The codes of output row `t`. `row x` gives the codes of expert output row `x`. -/
def Entry.combRowCodes (e : Entry) (ws xs : Array Nat) (row : Nat → Array Nat) (t : Nat) : List Nat :=
  let k := e.scChoice
  let fa := fmtAt [] (e.scFmt 0)
  let fb := fmtAt [] (e.scFmt 1)
  (List.range e.scCap).map fun i =>
    combElement e.insn.sel (e.scFmt 2) (e.srWord 0 (t * e.scCap + i)) <|
      (List.range k).map fun j =>
        let x := xs.getD (t * k + j) 0
        if isHole x then valZero false
        else valMul (elemVal fa (ws.getD (t * k + j) 0)) (elemVal fb ((row x).getD i 0))

/-- A COMB: its lists and the rows they name are read before an output row is written (08 R273). That both lists are read whole before any row
is, and that of the rows the lowest failing address faults (R281), is the model's choice. (log 78: DESIGN CHOICE.) -/
def combUnit (c : CtxId) (s : State) (e : Entry) : Res :=
  let n := e.scEntries
  let wa := fixedBytes (e.scFmt 0)
  let wb := fixedBytes (e.scFmt 1)
  let wc := fixedBytes (e.scFmt 2)
  reading c s e e.combIns fun s1 bs =>
    let ws := (wordsAt wa n bs).toArray
    let xs := wordsAt 4 n (bs.drop (wa * n))
    let named := (xs.filter fun x => !isHole x).eraseDups
    reading c s1 e (named.map e.combRow) fun s2 _ =>
      let rows := named.map fun x => (x, (wordsAt wb e.scCap (s2.runBytes c e.seq.toNat (e.combRow x))).toArray)
      let row (x : Nat) : Array Nat := ((rows.find? fun p => p.1 == x).map Prod.snd).getD #[]
      let free := groupsMeet ((e.combIns.map fun r => [r]) ++ [named.map e.combRow, e.combOuts, [e.descRun]])
      writeOutputs c s2 e free
        ((List.range e.scCount).map fun t =>
          (e.combOut t, (e.combRowCodes ws xs.toArray row t).flatMap (leBytes wc))) fun _ => 0

/-- COMB's parts. -/
def combParts : Parts where
  start := combStart
  units := fun _ _ => 1
  unit := fun c s e _ => combUnit c s e
  finish := fun _ s _ => s

/-- COMB (R252). -/
def execComb (c : CtxId) (n : Seq) (s : State) : Out := whenUp s (State.runInsn combParts (isOp .comb) c n s)

end Sys2Proof.Machine
end

