-- ==== Sys2Proof/Machine/Engine.lean ====
section
/-! DEFINITION. The events of a window: the scoreboard (06 R191), one slot or unit (03 R95, R96; 12 R391 to R393, R396), a span's check
(05 R159), the Screen's grants and errors (08 R263, R264, R275), a lane's error (09 R293), and the end of a drain (06 R178, R197 to
R199). -/

namespace Sys2Proof.Machine

/-! The scoreboard. -/

/-- How an instruction uses a resource that is not a byte range. -/
inductive UseKind where
  | none
  | read
  | write
  deriving DecidableEq, Repr

/-- Two uses of which at least one writes. -/
def UseKind.clash : UseKind → UseKind → Bool
  | .none, _ => false
  | _, .none => false
  | .read, .read => false
  | _, _ => true

/-- What an instruction touches (R191). `all` is every byte of the Vat and of chip memory. -/
structure Uses where
  alone : Bool := false
  all : Bool := false
  reads : List Run := []
  writes : List Run := []
  rTiles : List Nat := []
  wTiles : List Nat := []
  port : Nat := 0
  gen : UseKind := .none
  dig : UseKind := .none
  fmt : UseKind := .none
  pat : Option Nat := none
  deriving DecidableEq, Repr

/-- The bytes of an image, line by line (R92, R207). -/
def Image.lineRuns (m : Image) (sh : Shape) : List Run :=
  ((List.range sh.d.lines).map fun l => ⟨m.base + l * m.stride, sh.lineBytes, inVat m.base⟩) ++
    ((List.range sh.d.scaleLines).map fun l => ⟨m.sbase + l * m.sstride, sh.d.scaleLineBytes, inVat m.sbase⟩)

/-- The words of a VLD or VST (R236). -/
def Entry.columnRanges (e : Entry) : List Run :=
  let i := e.insn
  let sh := e.shape
  (List.range (sh.lineBytes / 4)).map fun j => run (0x40000000 + (i.q 2).bits 26 0 + j * i.stride) (4 * sh.d.lines)

/-- The list and rows of a GATH or SCAT (R215). -/
def Entry.gatherRows (e : Entry) : List Run :=
  let i := e.insn
  if i.limit = 0 then [] else [run i.base ((i.limit - 1) * i.stride + e.shape.lineBytes)]
def Entry.gatherList (e : Entry) : List Run := [run e.gatherLink.addr (4 * e.insn.deckle.rows)]

/-- A source whose last use changes its state counts as written. -/
def readTile (t : Nat) (last : Bool) : List Nat × List Nat := if last then ([], [t]) else ([t], [])

/-- The rows that any entry of COMB's list could name (R282). -/
def Entry.combReach (e : Entry) : Run :=
  run (e.scAddr 2) ((2 ^ 32 - 1) * e.scStride 0 + e.scCap * fixedBytes (e.scFmt 1))

/-- The images of an UPD of parity `p`: those of the current generation where `p` is its parity, else the staged ones (09 R305). -/
def Entry.updImages (e : Entry) (p : Nat) : List Run := [1 + p, 3 + p, 5 + p, 7 + p].map e.updImage

/-- What an instruction touches, where the current generation of its context has parity `p`. An instruction with a source tile reads the
format entry of the tile's recorded deckle (log 22). (log 43: DEDUCED.) -/
def Entry.uses (e : Entry) (p : Nat) : Uses :=
  let i := e.insn
  let a := readTile i.ta i.lastA
  match i.op with
  | none => {}
  | some o =>
    match o with
    | .setpat => { reads := [run i.setpatSrc 256], pat := some i.setReg }
    | .setfmt => { reads := [run i.setfmtSrc 16], fmt := .write }
    | .fence => { alone := true }
    | .front => { alone := true }
    | .loop => {}
    | .br => {}
    | .halt => {}
    | .tld => { reads := if i.port = 0 then i.image.lineRuns e.shape else [], port := i.port, wTiles := [i.td] }
    | .tldG => { reads := i.gustImage.lineRuns e.shape, wTiles := i.receivers.map Prod.fst }
    | .tst => { writes := if i.port = 0 then i.image.lineRuns e.shape else [], port := i.port, rTiles := a.1, wTiles := a.2, fmt := .read }
    | .tmov => { rTiles := a.1, wTiles := i.td :: a.2, fmt := .read }
    | .trel => { wTiles := [i.td] }
    | .tsave => { rTiles := i.tiles, writes := [run i.base (1024 + 32768 * maskCount (i.q 3))], fmt := .read }
    | .trestore => { wTiles := i.tiles, reads := [run i.base 2098176], fmt := .read }
    | .perm => { reads := e.chain.listRuns i.deckle.count, rTiles := a.1, wTiles := i.td :: a.2, fmt := .read }
    | .permX =>
      let src := reamTiles i.ta (i.q 2)
      { reads := e.chain.listRuns (i.deckle.count * maskCount (i.q 2)), rTiles := if i.lastA then [] else src
        wTiles := reamTiles i.td (i.q 3) ++ (if i.lastA then src else []), fmt := .read }
    | .sperm =>
      let n := (e.spermN * e.spermC + 7) / 8
      { reads := run i.spermSrc n :: e.chain.listRuns e.spermN, writes := [run i.spermDst n, run i.spermScr n], wTiles := i.spermReam }
    | .gath => { reads := e.gatherList ++ e.gatherRows, wTiles := [i.td] }
    | .scat => { reads := e.gatherList, writes := e.gatherRows, rTiles := a.1, wTiles := a.2, fmt := .read }
    | .conv =>
      { reads := if bitsOf i.xf 1 0 = 0 then [] else [run (0x40000000 + (i.q 2).bits 55 38 * 512) 4], rTiles := a.1
        wTiles := i.td :: a.2, fmt := .read }
    | .press =>
      let b := if i.usesTb then readTile i.tb i.lastB else ([], [])
      { rTiles := a.1 ++ b.1, wTiles := i.td :: (a.2 ++ b.2), fmt := .read }
    | .hrot =>
      let src := reamTiles i.ta (i.q 2)
      { rTiles := if i.lastA then [] else src, wTiles := reamTiles i.td (i.q 2) ++ (if i.lastA then src else [])
        fmt := .read }
    | .sort =>
      if e.rcd.isNone then { all := true }
      else { reads := e.descRun :: e.sortIns, writes := e.workRun e.scCount :: e.sortOuts }
    | .disp =>
      if e.rcd.isNone then { all := true }
      else { reads := e.descRun :: e.dispIns, writes := e.workRun e.scEntries :: e.dispOuts }
    | .comb =>
      if e.rcd.isNone then { all := true }
      else { reads := e.descRun :: e.combReach :: e.combIns, writes := e.combOuts }
    | .vld => { reads := e.columnRanges, wTiles := [i.td] }
    | .vst => { writes := e.columnRanges, rTiles := a.1, wTiles := a.2, fmt := .read }
    | .vop =>
      let n := i.deckle.count
      { reads := (if vopReadsA i.vopOp then [denseRun (vatAddr i.vopSrcA) (e.widthOf i.afmt) 0 n] else []) ++
          (if vopReadsB i.vopOp then [denseRun (vatAddr i.vopSrcB) (e.widthOf i.bfmt) 0 n]
           else if i.vopOp = 0x07 then [runAt (vatAddr i.vopSrcB) (vatAddr i.vopSrcB) 4] else [])
        writes := [denseRun (vatAddr i.vopDst) (streamC e.fmts i.deckle) 0 n] }
    | .amax =>
      { reads := [denseRun i.amaxSrc (streamC e.fmts i.deckle) 0 i.deckle.count], writes := [runAt i.recAt i.recAt 512] }
    | .upd =>
      if e.rcd.isNone then { all := true, gen := .read }
      else { reads := e.descRun :: e.updImage 0 :: e.updImages p, writes := e.updImages (1 - p), gen := .read }
    | .commit => { gen := .write }
    | .wmark =>
      if i.wmarkOp < 2 then
        { reads := [denseRun i.base (streamC e.fmts i.deckle) 0 i.deckle.count], dig := .read }
      else if i.wmarkOp = 2 then { writes := [run i.base 32], dig := .write }
      else { dig := .write }

/-- Some run of one list overlaps one of the other. -/
def listsMeet (a b : List Run) : Bool := a.any fun r => b.any r.meets

/-- The lists share a tile register. -/
def tilesMeet (a b : List Nat) : Bool := a.any b.contains

/-- The instruction touches some byte of memory. -/
def Uses.touches (u : Uses) : Bool := u.all || !u.reads.isEmpty || !u.writes.isEmpty

/-- Two instructions conflict (R191, R106, R194, R254). (log 43: DEDUCED.) -/
def Uses.conflict (a b : Uses) : Bool :=
  a.alone || b.alone || (a.all && b.touches) || (b.all && a.touches) ||
  listsMeet a.writes (b.reads ++ b.writes) || listsMeet a.reads b.writes ||
  tilesMeet a.wTiles (b.rTiles ++ b.wTiles) || tilesMeet a.rTiles b.wTiles ||
  (a.port != 0 && a.port == b.port) || a.gen.clash b.gen || a.dig.clash b.dig || a.fmt.clash b.fmt ||
  (a.pat.isSome && a.pat == b.pat)

/-- The entry conflicts with no earlier instruction that has not ended. -/
def Ctx.free (x : Ctx) (e : Entry) : Bool :=
  (x.earlier e.seq).all fun f => f.phase.ended || !(f.uses x.parity).conflict (e.uses x.parity)

/-- The context's window goes on: it runs, or it drains. -/
def Ctx.works (x : Ctx) : Bool := x.st == .run || x.st == .draining

/-- The counters of timing that an instruction advances: an engine's for its tiles, the planes' for what crosses them, and the v-slots' for
the Vat it reads and writes, the slots of hosted engines' tiles among them (12 R398; 15 R469). (log 16: DESIGN CHOICE.) -/
def State.timesOf (s : State) (p : Nat) (e : Entry) : List Nat :=
  let u := e.uses p
  let hosted := e.insn.tiles.any fun t => s.hosted (t / 8)
  let reads := u.all || hosted || u.reads.any fun r => inVat r.addr
  let writes := u.all || hosted || u.writes.any fun r => inVat r.addr
  (if e.insn.tiles.isEmpty then [] else [3]) ++ (if e.insn.op.any Op.crossesPlane then [4] else []) ++
    (if reads || (writes && (e.insn.op == some .vop || e.insn.op == some .sperm)) then [5] else []) ++ (if writes then [6] else [])

/-- The counters of timing that a unit's self-test advances. (log 16: DESIGN CHOICE.) -/
def testTimes : TestUnit → List Nat
  | .engine _ => [3]
  | .plane _ => [4]
  | .macroOf _ _ => [5, 6]
  | _ => []

/-- SCOREBOARD_BEGIN (R191). -/
def execScoreboardBegin (c : CtxId) (n : Seq) (s : State) : Out :=
  whenUp s <|
    match (s.ctx c).entry n with
    | some e =>
      if e.phase = .waiting ∧ (s.ctx c).works ∧ (s.ctx c).free e then (s.mark (s.timesOf (s.parity c) e)).putEntry c { e with phase := .ready } else s
    | none => s

/-! One slot or unit. -/

/-- The parts of an instruction that runs by parts. -/
def partsOf (i : Insn) : Option Parts :=
  match i.op with
  | none => none
  | some o =>
    match o with
    | .setpat => some setpatParts
    | .setfmt => some setfmtParts
    | .fence => some fenceParts
    | .loop => none
    | .br => none
    | .halt => none
    | .tld => some tldParts
    | .tldG => some tldGParts
    | .tst => some tstParts
    | .tmov => some tmovParts
    | .trel => some trelParts
    | .tsave => some tsaveParts
    | .trestore => some trestoreParts
    | .perm => some permParts
    | .permX => some permXParts
    | .sperm => some spermParts
    | .gath => some gathParts
    | .scat => some scatParts
    | .conv => some convParts
    | .press => some pressParts
    | .hrot => some hrotParts
    | .sort => some sortParts
    | .disp => some dispParts
    | .comb => some combParts
    | .vld => some vldParts
    | .vst => some vstParts
    | .vop => some vopParts
    | .amax => some amaxParts
    | .upd => some updParts
    | .commit => some commitParts
    | .front => none
    | .wmark => some (if i.wmarkOp = 0 then foldWeightParts else if i.wmarkOp = 1 then foldInputParts
        else if i.wmarkOp = 2 then watermarkParts else clearParts)

/-- After a unit has committed or failed: the instruction faults when every unit below the failing one has committed, and
completes when all have (R95, R96). -/
def State.afterUnit (P : Parts) (c : CtxId) (s : State) (e : Entry) : State :=
  match e.failed with
  | some (k, f) => if e.upTo = k then s.faultUnit c e k f else s.putEntry c e
  | none => if e.upTo = P.units s e then State.finishEntry P c s e else s.putEntry c e

/-- The unit may run: it exists, has not committed, and lies below a failing one. -/
def unitOpen (P : Parts) (s : State) (e : Entry) (k : Nat) : Bool :=
  decide (k < P.units s e) && !e.unitDone k && (match e.failed with | some (j, _) => decide (k < j) | none => true)

/-- One unit runs and commits, waits or fails. -/
def State.runUnit (P : Parts) (c : CtxId) (s : State) (e : Entry) (k : Nat) : State :=
  match P.unit c s e k with
  | .ok s1 e1 => (s1.forget c e1).afterUnit P c (e1.commitUnit k)
  | .wait s1 => s1.putEntry c e
  | .fault f s1 => s1.afterUnit P c (e.failUnit k f)

/-- The count of a number in a list of (number, count), 0 where it has none. -/
def countAt (l : List (Nat × Nat)) (k : Nat) : Nat := ((l.find? fun p => p.1 == k).map Prod.snd).getD 0

/-- The list with the count of `k` set. -/
def setCount (l : List (Nat × Nat)) (k v : Nat) : List (Nat × Nat) := (k, v) :: l.filter fun p => p.1 != k

/-- The planes of a mask, ascending. -/
def planesOf (m : BitVec 5) : List Nat := (List.range 5).filter fun p => m.getLsbD p

/-- The planes that the last failure of a span was carried by. -/
def Entry.failedPlanes (e : Entry) (span : Nat) : List Nat := (e.spanPlanes.filter fun p => p.1 == span).map Prod.snd

/-- A span has failed on some planes, and is counted (05 R159). -/
def Entry.spanFailed (e : Entry) (span : Nat) (planes : List Nat) : Entry :=
  { e with
    spanFails := setCount e.spanFails span (countAt e.spanFails span + 1)
    spanPlanes := (planes.map fun p => (span, p)) ++ e.spanPlanes.filter fun p => p.1 != span }

/-- A failed check of a span on planes that were all active, or a parity mismatch between a plane and a tile (05 R158, R159): the planes
are tested, and the third failure in succession faults. UNIT names the lowest plane of several. A span whose words a substitution of an
engine has lost fails for that, and runs again: no plane has erred (05 R165). (log 28: DEDUCED.) -/
def State.spanFails (P : Parts) (c : CtxId) (s : State) (e : Entry) (span : Nat) (planes : List Nat) : State :=
  if e.spanLost.contains span then s.putEntry c { e with spanLost := e.spanLost.filter fun k => k != span }
  else
    let s1 := planes.foldl (fun s p => (s.logErr ⟨0x03, 1, p, 0, 0⟩).startTest (.plane (Fin.ofNat 5 p))) s
    let e1 := e.spanFailed span planes
    if 3 ≤ countAt e1.spanFails span then s1.afterUnit P c (e1.failUnit span (uncorrectable 2 (planes.headD 0) 0))
    else s1.putEntry c e1

/-- A span that runs again avoids the planes of its last failure where another plane is active (05 R159). -/
def State.avoids (s : State) (e : Entry) (span : Nat) (planes : List Nat) : Bool :=
  !(planes.any (e.failedPlanes span).contains) || !(List.range 5).any fun p => s.planeActive p && !(e.failedPlanes span).contains p

/-- The instruction's words cross a plane (05 R160). -/
def Entry.crosses (e : Entry) : Bool := e.insn.op.any Op.crossesPlane

/-- A slot or unit of the instruction runs, with what the protection of the stores and of a plane's path into a tile reports (R391, R393;
05 R158). (log 15: DEDUCED.) -/
def State.slotEvent (P : Parts) (c : CtxId) (s : State) (e : Entry) (k : Nat) (d : Detect) : State :=
  match d with
  | .clean => s.runUnit P c e k
  | .corrected w unit loc =>
    match s.testUnitOf w unit loc with
    | none => s
    | some u => ((s.logCorrected (testKind u) (testNumber u) loc.toNat).runUnit P c e k).startTest u
  | .uncorrectable w unit loc =>
    match s.testUnitOf w unit loc with
    | none =>
      if w = .fabric ∧ e.crosses ∧ unit.val < 5 ∧ s.planeActive unit.val ∧ s.avoids e k [unit.val] then s.spanFails P c e k [unit.val]
      else s.putEntry c e
    | some u =>
      let s1 := s.logUncorrectable (testKind u) (testNumber u) loc.toNat
      -- the header of a TRESTORE that has begun has been read
      if e.insn.op = some .trestore ∧ k < 4 then s.putEntry c e
      else if w = .memory then ((s1.dropLine c e.seq.toNat loc.toNat).putEntry c e).startTest u
      else (s1.afterUnit P c (e.failUnit k (uncorrectable (whereNumber w) unit.val (finfoLoc w loc)))).startTest u

/-- The unit runs if it may. -/
def State.slotAt (P : Parts) (c : CtxId) (s : State) (e : Entry) (k : Nat) (d : Detect) : State :=
  if unitOpen P s e k then State.slotEvent P c s e k d else s.putEntry c e

/-- SLOT_COMMIT: one slot or unit finishes, commits or fails (R95, R96). What the protection reports may lie in what the instruction reads
as it begins; otherwise it belongs to the unit. -/
def execSlotCommit (c : CtxId) (n : Seq) (slot : Nat) (d : Detect) (s : State) : Out :=
  whenUp s <|
    match (s.ctx c).entry n with
    | none => s
    | some e =>
      match partsOf e.insn with
      | none => s
      | some P =>
        if (s.ctx c).mayRun e then
          s.served e fun s0 =>
            match State.startEntry P c s0 e d with
            | .wait s1 => s1
            | .fault f s1 => s1.faultUnit c e e.upTo f
            | .ok s1 e1 =>
              if e.started then State.slotAt P c s1 e1 slot d
              else State.slotAt P c (s1.dropHit c n) e1 slot (s1.hitOf c n)
        else s

/-! Spans (05 R159). -/

/-- The totals received agree with the source's: one for a span, one for each receiver of a gust (05 R155, R157). -/
def totalsAgree (i : Insn) (source : Quad) (received : List Quad) : Bool :=
  received.all (· == source) && received.length == (if i.op = some .tldG then i.receivers.length else 1)

/-- SPAN_CHECK: the totals of a span are compared (05 R157 to R159, R163). -/
def execSpanCheck (c : CtxId) (n : Seq) (span : Nat) (planes : BitVec 5) (received : List Quad) (s : State) : Out :=
  whenUp s <|
    match (s.ctx c).entry n with
    | none => s
    | some e =>
      match partsOf e.insn, e.insn.op with
      | some P, some o =>
        let ps := planesOf planes
        -- a gust slot occupies one plane (05 R155)
        if (s.ctx c).mayRun e && o.crossesPlane && !ps.isEmpty && (o != .tldG || ps.length == 1) then
          s.served e fun s0 =>
            match State.startEntry P c s0 e with
            | .wait s1 => s1
            | .fault f s1 => s1.faultUnit c e e.upTo f
            | .ok s1 e1 =>
              if unitOpen P s1 e1 span then
                match P.unit c s1 e1 span with
                | .ok s2 e2 =>
                  if ps.all s1.planeActive && s1.avoids e1 span ps then
                    if totalsAgree e.insn (e2.rchk - e1.rchk) received then
                      (s2.forget c e2).afterUnit P c (e2.commitUnit span)
                    else s1.spanFails P c e1 span ps
                  else s1.putEntry c e1
                | .wait s2 => s2.putEntry c e1
                | .fault f s2 => s2.afterUnit P c (e1.failUnit span f)
              else s1.putEntry c e1
        else s
      | _, _ => s

/-! The Screen (08 R263, R264, R275). -/

/-- SORT, DISP and COMB. -/
def usesSorter (i : Insn) : Bool := i.op == some .sort || i.op == some .disp || i.op == some .comb

/-- The context's oldest instruction of a kind that may begin and waits for a grant. -/
def Ctx.offer (x : Ctx) (kind : Insn → Bool) : Option Entry :=
  if x.works then x.window.find? fun e => kind e.insn && (e.phase == .ready || e.phase == .active) && !e.granted else none

/-- The contexts in the order of R263's ties: from the one next after the pointer. (log 40: DEDUCED.) -/
def afterPtr (p : Fin 8) : List CtxId := (List.range 8).map fun i => ctxOf (p.val + 1 + i)

/-- The offer that wins: the highest QOS, ties to the context next after the pointer. (log 40: DEDUCED.) -/
def State.bestOffer (s : State) (kind : Insn → Bool) (p : Fin 8) : Option (CtxId × Entry) :=
  (afterPtr p).foldl (fun b c =>
    match (s.ctx c).offer kind, b with
    | none, b => b
    | some e, none => some (c, e)
    | some e, some (d, f) => if (s.ctx d).qos < (s.ctx c).qos then some (c, e) else some (d, f)) none

/-- SCREEN_GRANT (R263). -/
def execScreenGrant (s : State) : Out :=
  whenUp s <|
    if s.screen.owner.isSome || s.testing .screen then s
    else
      match s.bestOffer usesSorter s.screen.ptr with
      | none => s
      | some (c, e) => { s.putEntry c { e with granted := true } with screen := { s.screen with owner := some (c, e.seq), ptr := c } }

/-- GATH and SCAT with more than 64 rows. -/
def usesPath (i : Insn) : Bool := i.needsScreen && !usesSorter i

/-- ADDRESS_PATH_GRANT (R264). -/
def execAddressPathGrant (s : State) : Out :=
  whenUp s <|
    if 4 ≤ s.screen.paths.length || s.testing .screen then s
    else
      match s.bestOffer usesPath s.screen.pathPtr with
      | none => s
      | some (c, e) =>
        { s.putEntry c { e with granted := true } with
          screen := { s.screen with paths := s.screen.paths ++ [(c, e.seq)], pathPtr := c } }

/-- SCREEN_ERROR (R275): the progress of a unit is discarded, also of one that the instruction has not begun. -/
def execScreenError (c : CtxId) (n : Seq) (s : State) : Out :=
  whenUp s <|
    match (s.ctx c).entry n with
    | none => s
    | some e =>
      match partsOf e.insn with
      | none => s
      | some P =>
        if e.granted && (s.ctx c).mayRun e && !s.testing .screen then
          let s1 := (s.logErr ⟨0x04, 3, 0, 0, 0⟩).startTest .screen
          if 3 ≤ e.screenFail + 1 then s1.afterUnit P c (e.failUnit e.upTo (uncorrectable 5 0 0))
          else s1.putEntry c { e with screenFail := e.screenFail + 1 }
        else s

/-! Lanes (09 R293, R294). -/

/-- Register `r` of lane `lane` of a segment, 32 bits: zero since a clear, or open contents since a unit has used it (09 R293). -/
def State.laneReg (s : State) (seg lane r : Nat) : BitVec 32 :=
  match (s.laneFree[seg]?).getD none with
  | none => 0
  | some k => BitVec.ofNat 32 (leNat ((List.range 4).map fun j => Config.freeByte k (((seg * 256 + lane) * 8 + r) * 4 + j)))

/-- The segment whose lanes run unit `u` of an instruction, for an instruction that lanes run. R220 defines the units of VOP and UPD: that a unit
of AMAX, or of a fold of WMARK over a Vat image, is 256 elements and runs on the segment that holds the first of them is the model's choice
(R293). (log 79: DESIGN CHOICE.) -/
def Entry.laneSegment (e : Entry) (u : Nat) : Option Nat :=
  let i := e.insn
  let held (base : Int) : Nat := vatSegment (vatOffset (denseRun base (streamC e.fmts i.deckle) (256 * u) 1).addr)
  match i.op with
  | some .vop => some (u % 16)
  | some .upd => some (u % 16)
  | some .amax => some (held i.amaxSrc)
  | some .wmark => if i.wmarkOp < 2 then some (if inVat i.base then held i.base else u % 16) else none
  | _ => none

/-- The unit of R95 that a lane unit belongs to. -/
def Entry.laneUnit (e : Entry) (u : Nat) : Nat := if e.insn.op = some .vop ∨ e.insn.op = some .upd then u else 0

/-- Every macro of a segment is tested. (log 42: DEDUCED.) -/
def State.testSegment (s : State) (g : Nat) : State :=
  (List.range 16).foldl (fun s m => s.startTest (.macroOf (Fin.ofNat 16 g) (Fin.ofNat 16 m))) s

/-- A lane unit's parity error: it is logged, the segment tested, and the third in succession faults (R293; 12 R395, R413). -/
def State.laneFails (P : Parts) (c : CtxId) (s : State) (e : Entry) (g unit : Nat) : State :=
  let times := countAt e.laneFails unit + 1
  let s1 := ((s.logErr ⟨0x04, 2, 16 * g, 0, 0⟩).testSegment g).loadLanes [g]
  if 3 ≤ times then
    (s1.fresh).afterUnit P c (e.failUnit (e.laneUnit unit) (uncorrectable 1 g (Config.freeCount 17 s1.freeCtr).toNat))
  else s1.putEntry c { e with laneFails := setCount e.laneFails unit times }

/-- LANE_PARITY_ERROR (R293), in a unit of an instruction that has begun or begins with it: the unit that is discarded has loaded the segment's
lane registers. The failing address, which no rule gives for a lane register, is left open (log 4). (log 42: DEDUCED.) -/
def execLaneParityError (c : CtxId) (n : Seq) (unit : Nat) (s : State) : Out :=
  whenUp s <|
    match (s.ctx c).entry n with
    | none => s
    | some e =>
      match partsOf e.insn, e.laneSegment unit with
      | some P, some g =>
        if (s.ctx c).mayRun e && decide (unit < unitsIn e.insn.deckle.count) then
          s.served e fun s0 =>
            match State.startEntry P c s0 e with
            | .wait s1 => s1
            | .fault f s1 => s1.faultUnit c e e.upTo f
            | .ok s1 e1 => if unitOpen P s1 e1 (e1.laneUnit unit) then State.laneFails P c s1 e1 g unit else s1.putEntry c e1
        else s
      | _, _ => s

/-! The end of a drain (06 R178, R197 to R199; 11 R380). -/

/-- The recorded fault: of the earliest faulted instruction, or of the fetch that stopped the context. -/
def Ctx.recorded (x : Ctx) : Option (Seq × Nat × FaultRec × BitVec 48) :=
  match x.window.findSome? fun e => e.fault.map fun f => (e.seq, f.1, f.2, e.addr) with
  | some r => some r
  | none => x.fetchFault.map fun f => (x.accepted + 1, 0, f, x.pc)

/-- Another instruction of the window faulted as well. (log 19: DEDUCED.) -/
def Ctx.otherFaults (x : Ctx) : Bool := decide (1 < (x.window.filter fun e => e.phase == .faulted).length)

/-- Every instruction of the window has ended. -/
def Ctx.allEnded (x : Ctx) : Bool := x.window.all fun e => e.phase.ended

/-- A drain ends: the fault is recorded and its event raised, and the context is STOPPED, or DISABLED when ENABLE is clear. (log 19: DEDUCED.) -/
def State.endDrain (s : State) (c : CtxId) : State :=
  let x := s.ctx c
  match x.recorded with
  | some (n, k, f, at_) =>
    let y := (x.record n k f x.otherFaults at_).faultEvent f.code
    let z := if x.en then { y with st := .stopped }
      else { y.discard true with st := .disabled }
    (((s.setCtx c z).tidy c).tally 2 1).trace 3 (some c) n.toNat f.code.toNat
  | none => (s.setCtx c { x.discard false with st := if x.en then .idle else .disabled }).tidy c

/-- DRAIN_END (R197). -/
def execDrainEnd (c : CtxId) (s : State) : Out :=
  whenUp s (if (s.ctx c).st = .draining ∧ (s.ctx c).allEnded then s.endDrain c else s)

end Sys2Proof.Machine
end

