-- ==== Sys2Proof/Machine/Boundary.lean ====
section
/-! DEFINITION. The boundary: acknowledgements of writes (11 R358), the memory ports and translation (R373, R374), stream and race ports
(R369 to R372, R376), and the event channel (R380). -/

namespace Sys2Proof.Machine

/-! Acknowledgements. -/

/-- A write of a context's instruction that its target can acknowledge, where it is outstanding: not a port's, which its beat acknowledges, nor
one that waits in front of a memory port. -/
def Unacked.byTarget (u : Unacked) (c : CtxId) (n : Seq) : Bool :=
  u.ctx == c && u.seq == n && (match u.tgt with | .vat => true | .memory w => w.tag.isSome | .port _ _ => false)

/-- A write of an instruction has been acknowledged: it frees its identifier, and one of a memory port its TAG. -/
def State.ackWrite (s : State) (u : Unacked) : State :=
  ({ s with unacked := s.unacked.erase u } : State).sendAll

/-- The oldest write of the Korni ring has been acknowledged. -/
def State.ackRing (s : State) : State :=
  match s.korni.sent with
  | [] => s
  | w :: r => ({ s with korni := { s.korni with sent := r } } : State).sendNext w.port

/-- WRITE_ACK (R358): of an instruction of the context, or of the Korni ring, whose writes are the block's own (R375). -/
def execWriteAck (c : CtxId) (w : Writer) (s : State) : Out :=
  whenUp s <|
    match w with
    | .insn n =>
      match s.outWrites.find? fun u => u.byTarget c n with
      | none => s
      | some u => s.ackWrite u
    | .ring => s.ackRing

/-! Memory ports (R373, R374). -/

/-- A tag that matches no outstanding request is ignored and logged (R374; 12 R413). -/
def State.logStray (s : State) (port : Fin 16) : State := s.logErr ⟨0x14, 4, port.val, 0, 0⟩

/-- The Felt address of a physical line: that of a translation in use which leads to it; otherwise the block knows none and it is
left open (log 4). -/
def State.feltLine (s : State) (line : Nat) : Nat :=
  match s.xlats.find? fun t => match t.ans with | some a => !a.fault && a.pa.toNat == line / 16 | none => false with
  | some t => t.page * 4096 + line % 16 * 256
  | none => (Config.freeCount 18 s.freeCtr).toNat % 2 ^ 48

/-- A read's line is filled: the memory's bytes, with the block's own later writes laid on them (R375). (log 60: DEDUCED.) -/
def State.fillLine (s : State) (r : MemRead) (data : List Byte) : State :=
  let bs := (List.range 256).map fun i => data.getD i 0
  { s with
    lines := if s.lines.contains r.line then s.lines else s.lines ++ [r.line]
    cache := r.newer.foldl (fun m p => putByte m p.1 p.2) (putBytes s.cache (r.line * 256) bs) }

/-- A line came back uncorrectable: each access that waits for it meets that, and no other (R374). -/
def State.markBad (s : State) (r : MemRead) : State :=
  { s with bad := s.bad ++ ((r.wants.filter fun w => s.xlats.any fun t => t.ctx == w.1 && t.who == w.2).map fun w => (w.1, w.2, r.line)) }

/-- MEMORY_READ_RESPONSE (R374): STAT 0 and 1 deliver good data, of which 1 was corrected; 2 and 3 are uncorrectable. The TAG and the identifiers
that it frees let waiting requests go (R357). (log 60: DEDUCED.) -/
def execMemoryReadResponse (port : Fin 16) (tag : BitVec 8) (data : List Byte) (stat : BitVec 2) (s : State) : Out :=
  whenUp s <|
    match s.reads.find? fun r => r.port == port && r.tag == tag with
    | none => s.logStray port
    | some r =>
      let s1 := ({ s.tally 11 256 with reads := s.reads.erase r } : State).sendAll
      if stat.toNat < 2 then
        let s2 := if r.stale then s1 else s1.fillLine r data
        if stat = 1 then (s2.logCorrected 4 port.val (s2.feltLine r.line)).fresh else s2
      else
        let s2 := (s1.logUncorrectable 4 port.val (s1.feltLine r.line)).fresh
        if r.stale then s2 else s2.markBad r

/-- TRANSLATION_RESPONSE (R374). An answer that the Korni ring or the front record waits for lets its write go. -/
def execTranslationResponse (port : Fin 16) (ttag : BitVec 6) (pa : BitVec 36) (fault wperm : Bool) (s : State) : Out :=
  whenUp s <|
    if s.xlats.any fun t => t.port == port && t.ttag == ttag && t.ans.isNone then
      ({ s with xlats := (s.xlats.map fun t =>
          if t.port == port && t.ttag == ttag && t.ans.isNone then { t with ans := some ⟨pa, fault, wperm⟩ } else t).filter fun t =>
            t.who != goneAccess || t.ans.isNone } : State).korniStep.recordStep
    else s.logStray port

/-! Stream and race ports (R369 to R372, R376). -/

/-- KIND and UNIT of a port in the log (12 R413). -/
def portKind (p : Fin 12) : Nat := if isRace p then 6 else 5
def portUnit (p : Fin 12) : Nat := if isRace p then p.val - 8 else p.val

/-- The telemetry of a beat (15 R469). -/
def State.tallyBeat (s : State) (p : Fin 12) (n : Nat) : State := s.tally (if isRace p then 13 else 12) n

/-- A refusal of a beat is counted (R371). -/
def State.countRetry (s : State) : State := { s with felt := { s.felt with retries := satAdd s.felt.retries 1 } }

/-- A port fails, with its log entry (R371; 12 R414). -/
def State.failPort (s : State) (p : Fin 12) : State :=
  (s.upPort p fun x => { x with fail := true }).logErr ⟨0x13, portKind p, portUnit p, 0, 0⟩

/-- The PAR bits of some bytes: even parity for each (R370). -/
def parBits (bs : List Byte) : List Bool := bs.map fun b => ((List.range 8).filter b.getLsbD).length % 2 == 1

/-- A parity error of a beat is logged (12 R392, R413). (log 60: DEDUCED.) -/
def State.logParity (s : State) (p : Fin 12) : State := s.logErr ⟨0x04, portKind p, portUnit p, 0, 0⟩

/-- A beat from the partner: taken, or refused for its parity, with a pulse of NAK in the b-cycle after the transfer; the third refusal in
succession fails the port. -/
def State.beatIn (s : State) (p : Fin 12) (data : List Byte) (par : List Bool) : State :=
  let s1 := s.tallyBeat p data.length
  if parBits data = par then s1.upPort p fun x => { x with inq := x.inq ++ data, inRef := 0 }
  else
    let s2 := ((s1.countRetry).logParity p).upPort p fun x => { x with nak := some s.clock, inRef := x.inRef + 1 }
    if 3 ≤ (s2.port p).inRef then s2.failPort p else s2

/-- The NAK signal that the block raises at a port: 1 in the b-cycle after the one in which a beat was refused (R371). -/
def State.nakNow (s : State) (p : Fin 12) : Bool :=
  match (s.port p).nak with
  | some t => s.clock / 2 == t / 2 + 1
  | none => false

/-- The bytes are the beat that the block presents next: the refused beat again, or the next bytes of its stream, as many as the port holds
with VALID raised (R369); where VALID is raised for a beat when an earlier one is refused, the refused one comes first (R371). (log 27: DESIGN
CHOICE.) -/
def Port.presents (x : Port) (data : List Byte) : Bool :=
  if x.resend then data == x.last else data == x.outq.take data.length && (match x.shown with | some k => data.length == k | none => true)

/-- A beat to the partner transfers with the PAR bits that the block forms (R370): its bytes are acknowledged (R358). -/
def State.beatOut (s : State) (p : Fin 12) (data : List Byte) (par : List Bool) : State :=
  let x := s.port p
  if x.presents data ∧ (x.resend ∨ x.shown.isSome ∨ data.length ≤ s.atPort p) ∧ parBits data = par then
    let s1 := s.tallyBeat p data.length
    if x.resend then s1.upPort p fun x => { x with resend := false }
    else
      let sent := x.sentPos + data.length
      let s2 := s1.upPort p fun x => { x with outq := x.outq.drop data.length, last := data, sentPos := sent, outRef := 0, shown := none }
      { s2 with unacked := s2.unacked.filter fun u => match u.tgt with | .port q pos => q != p || decide (sent < pos) | _ => true }
  else s

/-- A beat of a stream or race port transfers: bytes 0 to CNT of the channel are the beat's; the others and their parity are ignored
(R370, R376). -/
def State.portBeat (s : State) (port : Fin 12) (inbound : Bool) (beat : Beat) (par : List Bool) : State :=
  let bs := beat.bytes
  if (s.port port).fail || bs.isEmpty || decide (beatMax port < bs.length) then s
  else if inbound then s.beatIn port bs (par.take beat.count)
  else s.beatOut port bs (par.take beat.count)

/-- The responses once the first beat of the one at the head has transferred. -/
def popBeat : List EddyResp → List EddyResp
  | [] => []
  | x :: r => if x.beats.tail.isEmpty then r else { x with beats := x.beats.tail } :: r

/-- A beat of the eddy port's response channel transfers: the one that the block holds (R369, R381). -/
def State.eddyBeat (s : State) (data : List Byte) : State :=
  if (s.resp.head?.bind fun x => x.beats.head?.map EddyBeat.data) = some data then { s with resp := popBeat s.resp } else s

/-- BEAT_TRANSFER (R369, R371, R376, R381). The eddy port's beats towards the block are those of EDDY_COMMAND. (log 27: DESIGN CHOICE.) -/
def execBeatTransfer (ch : Channel) (inbound : Bool) (beat : Beat) (par : List Bool) (s : State) : Out :=
  whenUp s <|
    match ch with
    | .port p => s.portBeat p inbound beat par
    | .eddy => if inbound then s else s.eddyBeat beat.bytes

/-- PORT_NAK: the partner refuses the beat sent last (R371). -/
def execPortNak (port : Fin 12) (s : State) : Out :=
  whenUp s <|
    let x := s.port port
    if x.fail || x.resend || x.last.isEmpty then s
    else
      let s1 := s.countRetry
      if 3 ≤ x.outRef + 1 then (s1.upPort port fun x => { x with outRef := x.outRef + 1 }).failPort port
      else s1.upPort port fun x => { x with outRef := x.outRef + 1, resend := true }

/-- PORT_STALL (R372). -/
def execPortStall (port : Fin 12) (s : State) : Out :=
  whenUp s <|
    let x := s.port port
    if !x.fail && (x.resend || x.shown.isSome || s.atPort port != 0) then
      (s.upPort port fun x => { x.raise (min (beatMax port) (s.atPort port)) with stall := true }).logErr ⟨0x12, portKind port, portUnit port, 0, 0⟩
    else s

/-! The event channel (R380). -/

/-- EVENT_TRANSFER: the event that the channel holds, or presents now, transfers, and the pointer moves past its source. -/
def execEventTransfer (s : State) : Out :=
  whenUp s <|
    let s1 := s.present
    match s1.evtHeld with
    | none => s
    | some (k, v) => { s1 with evtHeld := none, evtOut := some v, evtPtr := k + 1 }

end Sys2Proof.Machine
end

