-- ==== Sys2Proof/Machine/Boot.lean ====
section
/-! DEFINITION. The boot ROM of the first bit-class and sequencer space (11 R351; 13 R420, R428 to R430; 15 R457, R458; 09 R300). -/

namespace Sys2Proof.Machine

/-- The boot values of the table registers, with their offsets in ascending order (R300, R428 to R430, R458). The spec does not
give the order of the records (log 8). -/
def bootRecords : List (Nat × Quad) :=
  ((List.range 16).map fun n => (0x4100 + 16 * n, 0)) ++
  [(0x5000, 0x7F82000043E00000), (0x5008, 0x00000000000000F4), (0x5010, 0x7F82FF0147600000), (0x5018, 0x000000000000001C)] ++
  ((List.range 28).map fun n => (0x5020 + 8 * n, 0)) ++
  [(0x5100, 0x00000010E55F2800), (0x5108, 0x00000008E5694D80), (0x5110, 0x00000008E5644880), (0x5118, 0x0000000000000073)] ++
  ((List.range 4).flatMap fun k =>
    [(0x5200 + 32 * k, 0x0706050403020100), (0x5208 + 32 * k, 0x0F0E0D0C0B0A0908), (0x5210 + 32 * k, 0x1716151413121110),
      (0x5218 + 32 * k, 0x1F1E1D1C1B1A1918)]) ++
  [(0x5280, 0x0303020201010000), (0x5288, 0x0707060605050404), (0x5290, 0x0B0B0A0A09090808), (0x5298, 0x0F0F0E0E0D0D0C0C)]

/-- ROMREV of the A1 part (R467). -/
def bootRomRev : BitVec 8 := 3

/-- The record quads of the boot table image. -/
def bootQuads : List Quad := bootRecords.flatMap fun r => [BitVec.ofNat 64 r.1, r.2]

/-- CHECK of R458. -/
def bootCheck : Nat := digestFrom 0 (bootQuads.map BitVec.toNat)

/-- The boot table image (R457). (log 8: DEDUCED.) -/
def bootImage : List Byte :=
  leBytes 4 bootRecords.length ++ leBytes 1 bootRomRev.toNat ++ leBytes 3 0 ++ leBytes 8 bootCheck ++ quadBytes bootQuads

/-- Byte `i` of the boot ROM: the boot table image, and beyond it contents the spec does not give (log 8). -/
def bootByte (i : Nat) : Byte := if i < 16 + 16 * bootRecords.length then bootImage.getD i 0 else Config.bootRomByte i

/-- The register that a boot record's offset names. -/
def bootReg (o : Nat) : Option TabReg := (TabReg.all.take 72).find? fun r => r.offset == o

/-- The records applied in ascending order, each writing all three copies (R457). -/
def State.applyBoot (s : State) : State :=
  bootRecords.foldl (fun s r => match bootReg r.1 with | some t => s.putTab t r.2 | none => s) s

/-! Sequencer space (R351). -/

/-- What stands at an address of sequencer space. -/
inductive SeqPlace where
  | rom (i : Nat)
  | ram (i : Nat)
  | miss
  deriving DecidableEq, Repr

/-- R351. -/
def State.seqPlace (s : State) (a : Nat) : SeqPlace :=
  if a < 0x10000 then (if s.felt.remap then .ram a else .rom a)
  else if a < 0x40000 then (if s.felt.remap then .ram a else .miss)
  else if 0x100000 ≤ a ∧ a < 0x110000 then .rom (a - 0x100000)
  else if 0x200000 ≤ a ∧ a < 0x240000 then .ram (a - 0x200000)
  else .miss

/-- The byte at a place of sequencer space, zero at a decode miss. -/
def State.seqByte (s : State) (a : Nat) : Byte :=
  match s.seqPlace a with
  | .rom i => bootByte i
  | .ram i => byteAt s.ram i
  | .miss => 0

/-- A decode miss is recorded, unless one already is (R353, R366). -/
def State.recordMiss (s : State) (a : BitVec 48) (write seq : Bool) (dom : BitVec 8) : State :=
  if s.felt.missValid then s
  else { s with felt := { s.felt with missAddr := a, missWrite := write, missSeq := seq, missDom := dom, missValid := true } }

end Sys2Proof.Machine
end

