-- ==== Sys2Proof/Machine/Lease.lean ====
section
/-! DEFINITION. What a lease write grants and clears (14 R442, R443), and the clears of the lease writes that are held for them. -/

namespace Sys2Proof.Machine

/-- The bits of a lease that a lease register holds. -/
def leaseBase : LeaseKind → Nat
  | .tile n => 64 * n.val
  | .vat n => 64 * n.val

/-- A context's lease, of tiles or of regions. -/
def Ctx.leaseBit (x : Ctx) (k : LeaseKind) (i : Nat) : Bool :=
  match k with
  | .tile _ => x.tlease.getLsbD i
  | .vat _ => x.vlease.getLsbD i

/-- The lease register's value. -/
def Ctx.leaseReg (x : Ctx) (k : LeaseKind) : Quad :=
  match k with
  | .tile n => (x.tlease >>> (64 * n.val)).setWidth 64
  | .vat n => (x.vlease >>> (64 * n.val)).setWidth 64

/-- The tiles or regions that a write of `v` grants. -/
def Ctx.grants (x : Ctx) (k : LeaseKind) (v : Quad) : List Nat :=
  (List.range 64).filterMap fun i => if v.getLsbD i && !(x.leaseReg k).getLsbD i then some (leaseBase k + i) else none

/-- The owner tag of a tile or a region (R442). -/
def State.ownerOf (s : State) (k : LeaseKind) (i : Nat) : Option SecDomain :=
  match k with
  | .tile _ => (s.tileOwner[i]?).getD none
  | .vat _ => (s.regionOwner[i]?).getD none

/-- R443, 2: what a write of `v` clears first. -/
def State.grantClears (s : State) (c : CtxId) (k : LeaseKind) (v : Quad) : List Nat :=
  ((s.ctx c).grants k v).filter fun i => s.ownerOf k i != some (s.ctx c).sdom

/-- A held lease write covers bit `i` of its register. -/
def LeaseWait.covers (w : LeaseWait) (i : Nat) : Bool :=
  match w.part with
  | .whole => true
  | .low => decide (i < 32)
  | .high => decide (32 ≤ i)

/-- What a held lease write clears: tiles or regions (R443). -/
def State.clearing (s : State) (w : LeaseWait) : List Nat := (s.grantClears w.ctx w.kind w.value).filter fun i => w.covers (i % 64)

/-- The tiles that held lease writes clear. -/
def State.tilesClearing (s : State) : List Nat :=
  s.leaseWaits.flatMap fun w => match w.kind with | .tile _ => s.clearing w | .vat _ => []

/-- The Vat regions that held lease writes clear. -/
def State.regionsClearing (s : State) : List Nat :=
  s.leaseWaits.flatMap fun w => match w.kind with | .vat _ => s.clearing w | .tile _ => []

end Sys2Proof.Machine
end

