-- ==== Sys2Proof/Machine/Power.lean ====
section
/-! DEFINITION. Power: islands and their steps (13 R415 to R417), the interval, the budget and the adaptation loop (R418 to R427), the
cooling class and THROTTLE (R421 to R423), critical islands (R426), and the bring-up steps (15 R455). -/

namespace Sys2Proof.Machine

/-! Islands. -/

/-- The islands that are managed: numbers 0 to 90 (R419). -/
def managed (n : Nat) : Bool := decide (n < 91)

/-- The kind of a managed island: 0 engine, 1 plane, 2 Vat segment, 3 Screen, 4 issue front end (R419, R430). -/
def islandKind (n : Nat) : Nat := if n < 68 then 0 else if n < 73 then 1 else if n < 89 then 2 else if n < 90 then 3 else 4

/-- The quadrant whose switch powers an engine island (01 R23). -/
def islandQuadrant (n : Nat) : Nat := if n < 64 then n / 16 else n - 64

/-- QPWR_OK bit `q` counts as 1: while the input is noisy it is treated as 0 (11 R387). -/
def State.qpwrGood (s : State) (q : Nat) : Bool := s.pwr.qpwrOk.getLsbD q && !s.sb.qpnoisy.getLsbD q

/-- The island has power: an engine's through its quadrant's switch, the others through the common domain (01 R25). -/
def State.islandPowered (s : State) (n : Nat) : Bool :=
  decide (68 ≤ n) || (s.pwr.qpwrEn.getLsbD (islandQuadrant n) && s.qpwrGood (islandQuadrant n))

/-- A temperature, two's complement. -/
def degrees (b : BitVec 8) : Int := b.toInt

/-- The step an island takes now when the loop asks for `loop`: 20 until READY (15 R455), 31 with EN clear (R425), else no faster than MINSTEP
(R433); 31 where R422 or R426 holds it, at most 20 for a Vat segment or engine during a wipe (14 R451), and 31 in every case where the tables
halt the power manager (12 R406). (log 44: DEDUCED.) -/
def State.stepNow (s : State) (n loop : Nat) : Nat :=
  let a := if s.glob.bu ≠ 5 then 20 else if !s.pwr.en then 31 else max loop s.pwr.minstep.toNat
  let b := if s.pwr.emerg || (s.island n).crit then 31 else a
  let d := if s.sec.wiping && (islandKind n == 0 || islandKind n == 2) then min b 20 else b
  if s.pwr.tchalt then 31 else d

/-- The power manager gives an island a step; its clock changes at a boundary of its own (R416). -/
def Island.give (i : Island) (st : Nat) : Island :=
  { i with target := if st = i.step.toNat then none else some (BitVec.ofNat 5 st) }

/-- Every powered managed island is given its step, the loop asking for `loop n`. -/
def State.giveSteps (s : State) (loop : Nat → Nat) : State :=
  { s with islands := Vector.ofFn fun i =>
      if managed i.val && s.islandPowered i.val then s.islands[i].give (s.stepNow i.val (loop i.val)) else s.islands[i] }

/-- What holds the steps has changed between two boundaries: the steps that the loop gave last stand behind it. -/
def State.holdSteps (s : State) : State := s.giveSteps fun n => (s.island n).loop.toNat

/-- From READY on the loop gives every managed island a step (R425; 15 R455). -/
def State.loopTo (s : State) (f : Nat → Nat) : State :=
  ({ s with islands := Vector.ofFn fun i =>
      if managed i.val && s.glob.bu == 5 then { s.islands[i] with loop := BitVec.ofNat 5 (f i.val) } else s.islands[i] } : State).holdSteps

/-- With EN clear the loop does not run, and every island's step is 31; with EN set the steps that it gave last stand (R425). -/
def State.restSteps (s : State) : State := if s.pwr.en then s.holdSteps else s.loopTo fun _ => 31

/-- The startup self-test is to come or runs: TEST, with the quadrants powered up. -/
def State.startupDue (s : State) : Bool := s.glob.bu == 3 && s.glob.quads == 4

/-- The startup self-test runs on the unit: it is not retired and its quadrant is not lost (15 R461). -/
def State.startupTests (s : State) (u : TestUnit) : Bool :=
  match u with
  | .engine p => if p.val < 64 then !s.retired p.val && !s.qlost (p.val / 16) else s.sstate (p.val - 64) != 3 && !s.qlost (p.val - 64)
  | .plane p => s.planeState p.val != 3
  | _ => true

/-- The startup self-test of the managed island `n` runs: in TEST, once the quadrants have been powered up (15 R461). (log 13: DESIGN CHOICE.) -/
def State.startupRuns (s : State) (n : Nat) : Bool :=
  s.startupDue &&
    (if n < 68 then s.startupTests (.engine (Fin.ofNat 68 n)) else if n < 73 then s.startupTests (.plane (Fin.ofNat 5 (n - 68))) else n < 90)

/-- The spare map registers that say which engine an island is and whether its startup self-test runs disagree in all three copies: the power
manager stops no such island (12 R406). (log 44: DEDUCED.) -/
def State.islandSplit (s : State) (n : Nat) : Bool :=
  if n < 68 then s.split [.spareEng] || (s.startupDue && s.split [.spareRet])
  else decide (n < 73) && s.startupDue && s.split [.sparePlane]

/-- The spare map registers that the power manager reads at a boundary, to see which islands have work (12 R405). (log 44: DEDUCED.) -/
def State.workRegs (s : State) : List TabReg := .spareEng :: if s.startupDue then [.spareRet, .sparePlane] else []

/-- Those that it reads at a change or a start of one island's clock. -/
def islandRegs (n : Nat) : List TabReg := if 64 ≤ n ∧ n < 68 then [.spareEng] else []

/-- The island is a spare engine that does not stand in and is not under its self-test: its clock is stopped (R417). -/
def State.spareIdle (s : State) (n : Nat) : Bool :=
  decide (64 ≤ n ∧ n < 68) && !s.islandSplit n && !s.startupRuns n && !(List.range 64).any (fun g => s.physical g == n) && !s.testing (.engine (Fin.ofNat 68 n))

/-- The island's clock is stopped. -/
def State.clockStopped (s : State) (n : Nat) : Bool := (s.island n).stopped || s.spareIdle n

/-- ISLAND_CLOCK_CHANGE (R416). A stopped clock changes at no boundary: the island keeps its step (R417). For a spare engine the power manager
reads CK_SPARE_ENG (12 R405). -/
def execIslandClockChange (n : Fin 91) (s0 : State) : Out :=
  whenUp s0 <|
    let s := s0.compareAll (islandRegs n.val)
    if s.clockStopped n.val then s
    else s.upIsland n.val fun i => match i.target with | some t => { i with step := t, target := none } | none => i

/-- ISLAND_CLOCK_START (R417). -/
def execIslandClockStart (n : Fin 91) (s0 : State) : Out :=
  whenUp s0 <|
    let s := s0.compareAll (islandRegs n.val)
    (if s.spareIdle n.val then s else s.upIsland n.val fun i => { i with stopped := false })

/-! The tables (R428 to R430). -/

/-- The registers the power manager reads at a boundary (R432). -/
def throttleRegs : List TabReg := (List.finRange 3).map .tcls ++ [.tcrit] ++ (List.finRange 20).map .tcurve

/-- Some throttle table register disagrees in all three copies (12 R406). -/
def State.throttleBad (s : State) : Bool := throttleRegs.any fun r => ((r.get s.tab).vote).isNone

/-- The record of a cooling class (R428), and the fields of one. -/
def State.classRecord (s : State) (cls : Nat) : Quad := s.tabVal (.tcls (Fin.ofNat 3 cls))
def envelopeOf (q : Quad) : Nat := q.bits 15 0
def tlimitOf (q : Quad) : Int := degrees (BitVec.ofNat 8 (q.bits 23 16))
def thystOf (q : Quad) : Nat := q.bits 27 24
def lowfracOf (q : Quad) : Nat := q.bits 31 28
def upmaxOf (q : Quad) : Nat := q.bits 36 32

/-- The class a counted COOL_CLASS value means: 3 is class A (11 R387). -/
def coolOf (v : BitVec 2) : BitVec 2 := if v = 3 then 0 else v

/-- The step of a kind of island at a level (R430). -/
def State.curveStep (s : State) (kind level : Nat) : Nat :=
  bitsOf (s.tabVal (.tcurve (Fin.ofNat 20 (4 * kind + level / 8)))).toNat (8 * (level % 8) + 4) (8 * (level % 8))

/-! The interval boundary. -/

/-- A reading of island `n` at an interval end (R418, R436): a critical island whose temperature is below the limit is released (R426). -/
def State.readIsland (s : State) (tlimit tcrit : Int) (n : Nat) (r : BitVec 16 × BitVec 8) : Island :=
  let i := s.island n
  if s.islandPowered n then
    { i with power := r.1, temp := r.2
             crit := if tcrit ≤ degrees r.2 then true else if degrees r.2 < tlimit then false else i.crit }
  else { i with power := 0 }

/-- The highest of some temperatures. -/
def hottestOf : List (BitVec 8) → Option (BitVec 8)
  | [] => none
  | t :: r =>
    match hottestOf r with
    | some h => if degrees h < degrees t then some t else some h
    | none => some t

/-- The temperatures of the powered islands below number `k`. -/
def State.tempsBelow (s : State) (k : Nat) : List (BitVec 8) :=
  ((List.range k).filter s.islandPowered).map fun n => (s.island n).temp

/-- R425: the rise of LVL while power exceeds the budget. With a budget of 0 the quotient has no value, and the rise is left open
(log 4). -/
def levelRise (power budget : Nat) : Nat :=
  if budget < power then
    max 1 (if budget = 0 then Config.riseAtZero power else (16 * (power - budget) + budget - 1) / budget)
  else 1

/-- R425: LVL after a boundary. (log 57: DEDUCED.) -/
def nextLevel (rec : Quad) (power budget : Nat) (hottest : Int) (level : Nat) : Nat :=
  if budget < power ∨ tlimitOf rec ≤ hottest then min 31 (level + min (levelRise power budget) (upmaxOf rec))
  else if power * 16 < budget * lowfracOf rec ∧ hottest ≤ tlimitOf rec - thystOf rec then level - 1
  else level

/-- The class takes effect that is due at a boundary (R423, R427). -/
def Power.settleClass (p : Power) : Power :=
  match p.due with
  | some c => { p with cls := c, due := none }
  | none => if p.ccpend && p.ccack then { p with cls := coolOf p.ccount, ccpend := false, ccack := false } else p

/-- The instructions that have not ended. -/
def State.atWork (s : State) : List Insn := s.ctxs.toList.flatMap fun x => (x.window.filter fun e => !e.phase.ended).map Entry.insn

/-- A test runs on a unit that a condition admits. -/
def State.anyTest (s : State) (f : TestUnit → Bool) : Bool := s.st.running.any f

/-- CLEAR is at work in the managed island `n`: the tile files of the engines in service, the Vat, the Screen and the front end, but no plane (15
R454, R462). (log 13: DESIGN CHOICE.) -/
def State.clearRuns (s : State) (n : Nat) : Bool :=
  s.glob.bu == 4 && (if n < 68 then (List.range 64).any fun g => s.physical g == n else decide (73 ≤ n))

/-- A write of a master that a condition admits is not acknowledged yet. -/
def State.anyWrite (s : State) (f : Nat → Bool) : Bool := s.unacked.any fun u => u.master.any f

/-- The front end has work that is no instruction's: the leases that wait for clears, the records of Korni and of a front on their way, and the
writes of the streamers (01 R37; 11 R368; 14 R443). -/
def State.frontEndWrites (s : State) : Bool :=
  !s.leaseWaits.isEmpty || !s.korni.out.isEmpty || !s.korni.sent.isEmpty || s.front.doneRec.isSome || s.front.sent.isSome ||
    s.anyWrite fun m => decide (69 ≤ m)

/-- A managed island has work. An engine has it for an instruction with a tile behind it, for a write of its own, for a test, for a copy, for
tiles that a lease clears and for a wipe; a plane for words that cross it; a segment for any instruction, for a write of the Vat and for
regions, or hosted tiles, that a lease clears; the front end for a context that runs or fetches and for its own writes; in bring-up its
startup self-test and the clearing are work. (log 13: DESIGN CHOICE.) -/
def State.hasWork (s : State) (n : Nat) : Bool :=
  if s.startupRuns n || s.clearRuns n || s.islandSplit n then true
  else if n < 68 then
    (s.atWork.any fun i => i.tiles.any fun t => s.physical (t / 8) == n) || s.anyTest (· == .engine (Fin.ofNat 68 n)) ||
      (s.st.copies.any fun k => s.physical k.1.val == n || (!k.2 && n == 64 + k.1.val / 16)) || s.sec.wiping ||
      (s.tilesClearing.any fun t => s.physical (t / 8) == n) || s.anyWrite fun m => decide (m < 64) && s.physical m == n
  else if n < 73 then
    s.atWork.any (fun i => i.op.any Op.crossesPlane) || s.anyTest (· == .plane (Fin.ofNat 5 (n - 68)))
  else if n < 89 then
    !s.atWork.isEmpty || s.segmentBusy (n - 73) || s.sec.wiping || s.err.scrubEn || !s.regionsClearing.isEmpty ||
      (s.tilesClearing.any fun t => s.hosted (t / 8)) || s.unacked.any fun u => u.tgt == .vat
  else if n < 90 then s.atWork.any Insn.needsScreen || s.testing .screen || s.anyWrite (· == 68)
  else s.ctxs.any (fun x => !x.window.isEmpty || x.fetching) || s.front.act.isSome || s.frontEndWrites

/-- Managed islands without work stop their clocks (R417; when they are seen to have none: log 13). -/
def State.stopIdle (s : State) : State :=
  { s with islands := Vector.ofFn fun i =>
      if managed i.val && !s.hasWork i.val then { s.islands[i] with stopped := true } else s.islands[i] }

/-- LVL changes, with its trace record (15 R473). -/
def State.setLevel (s : State) (l : Nat) : State :=
  if s.pwr.lvl.toNat = l then s
  else ({ s with pwr := { s.pwr with lvl := BitVec.ofNat 5 l } } : State).trace 5 none l 0

/-- The sensors of every island are read at the end of an interval, and the block's power with them (R418, R419, R435). -/
def State.readSensors (s : State) (rs : List (BitVec 16 × BitVec 8)) : State :=
  let tlimit := tlimitOf (s.classRecord s.pwr.cls.toNat)
  let tcrit := degrees (BitVec.ofNat 8 ((s.tabVal .tcrit).bits 7 0))
  let s1 := { s with islands := Vector.ofFn fun i => s.readIsland tlimit tcrit i.val (rs.getD i.val (0, 0)) }
  let total := ((List.range 121).map fun n => (s1.island n).power.toNat).sum
  let power := min 0xFFFF (total / 16)
  let newCrit := (List.range 121).any fun n => (s1.island n).crit && !(s.island n).crit
  { s1 with pwr := { s1.pwr with
      power := BitVec.ofNat 16 power, telem := BitVec.ofNat 16 power
      temp := (hottestOf (s1.tempsBelow 121)).getD 0, tmax := (hottestOf (s1.tempsBelow 91)).getD 0
      energy := s1.pwr.energy + BitVec.ofNat 64 power, crit := s1.pwr.crit || newCrit } }

/-- The budget and the loop (R421, R425, R427). Where the tables halt the power manager TCHALT is set, and LVL and the budget are computed all
the same, though no step follows them (12 R406). That the halt ends at a boundary or a patrol, and not at the write that ends the disagreement
(12 R407), is the model's choice. (log 44: DEDUCED.) (log 57: DEDUCED.) (log 83: DESIGN CHOICE.) -/
def State.runLoop (s : State) : State :=
  let p := s.pwr
  let rec_ := s.classRecord p.cls.toNat
  let budget := envelopeOf rec_ * (16 - p.thr.toNat) / 16
  let above := decide (budget < p.power.toNat)
  let hot := decide (tlimitOf rec_ ≤ degrees p.tmax)
  let s1 := { s with pwr := { p with
      budget := BitVec.ofNat 16 budget, overLim := p.overLim || above
      overs := if above then satAdd p.overs 1 else p.overs
      hot := p.hot || hot, tchalt := s.throttleBad } }
  let level := if s1.glob.bu ≠ 5 ∨ !p.en ∨ p.emerg then 31
    else nextLevel rec_ p.power.toNat budget (degrees p.tmax) p.lvl.toNat
  let s2 := s1.setLevel level
  s2.loopTo fun n => if !p.en || p.emerg then 31 else max (s2.curveStep (islandKind n) level) p.minstep.toNat

/-- POWER_INTERVAL: an interval boundary, with the readings of the islands in order (R418, R425, R427). The power manager reads its tables and
the spare map (12 R405). -/
def execPowerInterval (readings : List (BitVec 16 × BitVec 8)) (s : State) : Out :=
  whenUp s <|
    let s1 := s.moveTo (s.nextAt 40000)
    let s2 := { s1 with pwr := s1.pwr.settleClass }
    (((s2.compareAll (throttleRegs ++ s2.workRegs)).readSensors readings).runLoop).stopIdle

/-- The power manager has read a table register whose copies all differ: it holds every island at step 31 (12 R406). (log 44: DEDUCED.) -/
def State.haltPower (s : State) : State := ({ s with pwr := { s.pwr with tchalt := true } } : State).holdSteps

/-- TEMPERATURE_SAMPLE: the temperatures of the islands in order, every 4,000 reference e-cycles (R426). TCRIT is read at the sample (R432).
(log 72: DESIGN CHOICE.) -/
def execTemperatureSample (temps : List (BitVec 8)) (s : State) : Out :=
  whenUp s <|
    let s1 := (s.moveTo (s.nextAt 4000)).compare .tcrit
    let tcrit := degrees (BitVec.ofNat 8 ((s1.tabVal .tcrit).bits 7 0))
    let hit (n : Nat) : Bool :=
      s1.islandPowered n && !(s1.island n).crit && (match temps[n]? with | some t => decide (tcrit ≤ degrees t) | none => false)
    let s2 := { s1 with
      islands := Vector.ofFn fun i => if hit i.val then { s1.islands[i] with crit := true } else s1.islands[i]
      pwr := { s1.pwr with crit := s1.pwr.crit || (List.range 121).any hit } }
    if s1.tab.tcrit.vote.isNone then s2.haltPower else s2.holdSteps

/-! THROTTLE and COOL_CLASS. -/

/-- THROTTLE_CHANGE: the last counted value holds while the input is noisy (R421, R422; 11 R387). -/
def execThrottleChange (v : BitVec 4) (s : State) : Out :=
  whenUp s <|
    if s.sb.thnoisy then s
    else
      let s1 := { s with pwr := { s.pwr with thr := v, emerg := v == 15 } }
      if v = 15 then (s1.setLevel 31).loopTo fun _ => 31 else s1

/-- COOL_CLASS_CHANGE (R423; 10 R345, R346). The records of both classes are read at the count (R432); where the copies of one all differ, the
power manager halts (12 R406). Its EVENT holds the value as counted. (log 44: DEDUCED.) (log 72: DESIGN CHOICE.) (log 74: DESIGN CHOICE.) -/
def execCoolClassChange (v : BitVec 2) (s : State) : Out :=
  whenUp s <|
    if s.sb.ccnoisy || s.pwr.ccount == v then s
    else
      let rs : List TabReg := [.tcls (Fin.ofNat 3 (coolOf v).toNat), .tcls (Fin.ofNat 3 s.pwr.cls.toNat)]
      let s0 := s.compareAll rs
      let halts := rs.any fun r => ((r.get s0.tab).vote).isNone
      let s1 := if halts then s0.haltPower else s0
      let up := decide (envelopeOf (s1.classRecord s1.pwr.cls.toNat) < envelopeOf (s1.classRecord (coolOf v).toNat))
      ({ s1 with pwr := { s1.pwr with
          ccount := v, ccpend := up, ccack := false, due := if up then none else some (coolOf v) } } : State).korniEventRec 4 v.toNat

/-! CK_PWR_CTL (R433). -/

/-- EN and MINSTEP take written values, MINSTEP at once (R433); with EN clear LVL is 31 and every managed island runs at step 31 (R425).
(log 57: DEDUCED.) -/
def State.setPowerCtl (s : State) (en : Bool) (minstep : BitVec 5) : State :=
  let s1 := { s with pwr := { s.pwr with en := en, minstep := minstep } }
  (if en then s1 else s1.setLevel 31).restSteps

/-- CCACK accepts a pending raise of class (R423). -/
def State.ackClass (s : State) : State := if s.pwr.ccpend then { s with pwr := { s.pwr with ccack := true } } else s

end Sys2Proof.Machine
end

