-- ==== Sys2Proof/Machine/Security.lean ====
section
/-! DEFINITION. Security domains, owner tags and leases (14 R439 to R443), the life-cycle state (R448), tamper and the wipe (R451 to
R453), and the filters of the sideband inputs (11 R386, R387). -/

namespace Sys2Proof.Machine

/-! Clearing. -/

/-- R441: the state of a context that a change of its security domain clears, without its leases and fault record. -/
def Ctx.clearState (x : Ctx) : Ctx :=
  { x with
    pats := [], seeds := Vector.replicate 8 0, steps := Vector.replicate 8 0, autos := 0, lcnt := Vector.replicate 4 0, rchk := 0
    digP := 0, digW := 0, digI := 0, digN := 0
    vote := 0, nonfinite := false, sealedGen := false, committed := false, skipped := false, fronts := 0, gen := 0 }

/-- R441: everything that a change of DOMAIN or SECURE clears. -/
def Ctx.clearDomain (x : Ctx) : Ctx :=
  { x.clearState with
    code := 0, valid := false, drained := false, fseq := 0, count := 0, finfo := 0, doneBits := 0, fpc := 0, tlease := 0, vlease := 0 }

/-- R443: a tile is cleared; LOST stays. -/
def State.clearTile (s : State) (n : Nat) : State :=
  { s.upTile n fun t => { lost := t.lost } with tileMem := zeroBytes s.tileMem (tileBase n) 32768 }

/-- `n` Vat regions from region `r` are zero, with the hosted tiles that lie in them (12 R398). -/
def State.zeroRegions (s : State) (r n : Nat) : State :=
  { s with
    vat := zeroBytes s.vat (r * 0x100000) (n * 0x100000)
    tileMem := s.st.hosts.foldl (fun m h =>
      if r ≤ s.hostRegion + h.2.2 / 4 ∧ s.hostRegion + h.2.2 / 4 < r + n then zeroBytes m (tileBase (8 * h.1.val)) 0x40000 else m) s.tileMem }

/-- R443: a Vat region is cleared. -/
def State.clearRegion (s : State) (r : Nat) : State := s.zeroRegions r 1

/-- The tiles a condition on the owner tag selects are cleared. -/
def State.clearTiles (s : State) (which : Option SecDomain → Bool) : State :=
  (List.range 512).foldl (fun s n => if which ((s.tileOwner[n]?).getD none) then s.clearTile n else s) s

/-! Leases (R443). -/

/-- The context with the lease register's value replaced. -/
def Ctx.setLeaseReg (x : Ctx) (k : LeaseKind) (v : Quad) : Ctx :=
  match k with
  | .tile n => { x with tlease := (x.tlease &&& ~~~((0xFFFFFFFFFFFFFFFF : BitVec 512) <<< (64 * n.val))) ||| (v.setWidth 512 <<< (64 * n.val)) }
  | .vat n => { x with vlease := (x.vlease &&& ~~~((0xFFFFFFFFFFFFFFFF : BitVec 128) <<< (64 * n.val))) ||| (v.setWidth 128 <<< (64 * n.val)) }

/-- R443, 1: a granted tile or region is in the lease of a context of another security domain. -/
def State.grantRefused (s : State) (c : CtxId) (k : LeaseKind) (v : Quad) : Bool :=
  ((s.ctx c).grants k v).any fun i =>
    (List.finRange 8).any fun o => o != c && (s.ctx o).sdom != (s.ctx c).sdom && (s.ctx o).leaseBit k i

/-- One tile or region is cleared and takes the owner tag. -/
def State.regrant (s : State) (k : LeaseKind) (d : SecDomain) (i : Nat) : State :=
  match k with
  | .tile _ => { s.clearTile i with tileOwner := s.tileOwner.setIfInBounds i (some d) }
  | .vat _ => { s.clearRegion i with regionOwner := s.regionOwner.setIfInBounds i (some d) }

/-- The lease register takes the value after the clears it causes. -/
def State.grant (s : State) (c : CtxId) (k : LeaseKind) (v : Quad) : State :=
  ((s.grantClears c k v).foldl (fun s i => s.regrant k (s.ctx c).sdom i) s).upCtx c fun x => x.setLeaseReg k v

/-! The wipe (R451 to R453). -/

/-- TAMPER is counted at 1, or noisy (11 R387). -/
def State.tamperOn (s : State) : Bool := s.sb.tamper || s.sb.tnoisy

/-- The front the context has begun has been counted: it completes (10 R326). -/
def State.frontCounted (s : State) (c : CtxId) (n : Seq) : Bool :=
  match s.front.act with
  | some a => a.ctx == c && a.seq == n && (match a.phase with | .counted _ _ => true | _ => false)
  | none => false

/-- SECURE_VIOLATION of a wipe (R452). -/
def wipeFault : FaultRec := ⟨0x09, 0x40000000⟩

/-- One instruction of a secure context stops, a TREL too (R451 step 2, R452). (log 45: DEDUCED.) -/
def State.stopEntry (s : State) (c : CtxId) (n : Seq) : State :=
  match (s.ctx c).entry n with
  | some e => if e.phase.ended || s.frontCounted c n then s else s.faultUnit c e e.upTo wipeFault
  | none => s

/-- A front of the context that has not been counted is withdrawn (10 R326). The write of its ARRIVED record, if it has gone to its port, is
still acknowledged there as one of the block's own (11 R358). (log 65: DESIGN CHOICE.) -/
def State.stopFront (s : State) (c : CtxId) : State :=
  match s.front.act with
  | some a =>
    if a.ctx == c && !s.frontCounted c a.seq then
      let s1 := s.lowerArrive.dropXlats c recordAccess
      { s1 with
        front := { s1.front with act := none, sent := none }
        korni := { s1.korni with sent := s1.korni.sent ++ s1.front.sent.toList } }
    else s
  | none => s

/-- A secure context stops; one whose window is empty goes on (R452). (log 45: DEDUCED.) -/
def State.stopSecure (s : State) (c : CtxId) : State :=
  if (s.ctx c).secure then
    ((s.ctx c).window.map Entry.seq).foldl (fun s n => s.stopEntry c n) (s.stopFront c)
  else s

/-- A wipe starts, or starts again, with its cause and the Vat regions it clears beside the secure region (R451). (log 45: DEDUCED.) -/
def State.startWipe (s : State) (cause lo hi : Nat) : State :=
  let q := s.sec
  let again := q.wiping
  let cause := if again && q.since == s.clock then min cause q.nextCause.toNat else cause
  let s1 := { s with sec := { q with
      closed := true, wiping := true, since := s.clock, nextCause := BitVec.ofNat 3 cause
      wipeLo := if again && decide (q.wipeLo < q.wipeTo) then (if lo < hi then min lo q.wipeLo else q.wipeLo) else lo
      wipeTo := if again && decide (q.wipeLo < q.wipeTo) then (if lo < hi then max hi q.wipeTo else q.wipeTo) else hi } }
  ((List.finRange 8).foldl State.stopSecure s1).holdSteps

/-- R451 step 3. The state of a secure context is cleared whether or not its window is empty. (log 45: DEDUCED.) -/
def State.wipeClears (s : State) : State :=
  let s1 := (s.zeroRegions 0 s.secureSize).zeroRegions s.sec.wipeLo (s.sec.wipeTo - s.sec.wipeLo)
  let s2 := s1.clearTiles fun t => match t with | some d => d.secure | none => false
  { s2 with
    laneFree := Vector.replicate 16 none, screen := { s2.screen with bufFree := none }
    ctxs := s2.ctxs.map fun x => if x.secure then x.clearState else x }

/-- WIPE_END: the wipe ends `cycles` reference e-cycles after its start, at most 8,000 (R451 steps 3 and 4, R453). -/
def execWipeEnd (cycles : Nat) (s : State) : Out :=
  whenUp s <|
    if s.sec.wiping && decide (cycles ≤ 8000) then
      let s1 := (s.moveTo (s.sec.since + cycles)).wipeClears
      let q := s1.sec
      ({ s1.mark [3, 5, 6] with sec := { q with
          wiping := false, wiped := true, wipes := satAdd q.wipes 1, last := BitVec.ofNat 16 cycles, cause := q.nextCause
          closed := s1.tamperOn, lc := q.nextLc.getD q.lc, nextLc := none, wipeLo := 0, wipeTo := 0 } } : State).holdSteps
    else s

/-- CLOSED clears when tamper no longer holds and no wipe is in progress (R453). -/
def State.reopen (s : State) : State :=
  if s.tamperOn || s.sec.wiping then s else { s with sec := { s.sec with closed := false } }

/-! TAMPER. -/

/-- Tamper is asserted: a wipe starts, recorded under 10 R346. -/
def State.tamperWipe (s : State) : State := (s.korniEventRec 1 1).startWipe 1 0 0

/-- A sideband event is logged: DETAIL is the bit of CK_SB_STAT (12 R413, 11 R386). -/
def State.logSideband (s : State) (bit : Nat) : State := s.logErr ⟨0x11, 8, 0, bit, 0⟩

/-- TAMPER becomes noisy (11 R387), and so reads 1: an EVENT of code 1 where it read 0 before (10 R346). (log 74: DESIGN CHOICE.) -/
def State.tamperNoisy (s : State) : State :=
  let was := s.tamperOn
  let s1 := ({ s with sb := { s.sb with tnoisy := true } } : State).logSideband 1
  if was then s1 else s1.tamperWipe

/-- TAMPER_ASSERT: counted at 1, or noisy while at 0 (R451). -/
def execTamperAssert (noisy : Bool) (s : State) : Out :=
  whenUp s <|
    if noisy then (if s.tamperOn then s else s.tamperNoisy)
    else if s.sb.tamper then s
    else ({ s with sb := { s.sb with tamper := true } } : State).tamperWipe

/-- TAMPER_RELEASE: counted at 0 (R453), an EVENT of code 2 even while TNOISY is set (10 R346). (log 74: DESIGN CHOICE.) -/
def execTamperRelease (s : State) : Out :=
  whenUp s <|
    if s.sb.tamper then
      (({ s with sb := { s.sb with tamper := false } } : State).korniEventRec 2 0).reopen
    else s

/-! The life-cycle state. -/

/-- The state that a counted value leads to (R448): a later one stands, an earlier one or even parity means RETIRED. -/
def nextLifeCycle (now v : BitVec 2) (par : Bool) : BitVec 2 :=
  if par && decide (now.toNat ≤ v.toNat) then v else 3

/-- LIFE_CYCLE_CHANGE: `par` says that the counted value's parity is odd (R448; 11 R387). -/
def execLifeCycleChange (v : BitVec 2) (par : Bool) (s : State) : Out :=
  whenUp s <|
    if s.sb.lcnoisy || (s.sb.lcIn == v && s.sb.lcOk == par) then s
    else
      let now := s.sec.nextLc.getD s.sec.lc
      let next := nextLifeCycle now v par
      let s1 := { s with
        sb := { s.sb with lcIn := v, lcOk := par, lcbad := s.sb.lcbad || !par }
        sec := { s.sec with nextLc := some next } }
      (s1.korniEventRec 3 next.toNat).startWipe 2 0 0

end Sys2Proof.Machine
end

