-- ==== Sys2Proof/Machine/RegMap.lean ====
section
/-! DEFINITION. The control window (16 R475 to R493): which register stands at an offset, the value a read returns, and what a read
does (00 R11; 12 R405; 16 R478). -/

namespace Sys2Proof.Machine

/-- A register of a context's block (16 R485). -/
inductive CtxReg where
  | ctl
  | pc
  | stat
  | fault
  | finfo
  | done
  | fpc
  | seed (n : Fin 8)
  | step (n : Fin 8)
  | lcnt (n : Fin 4)
  | lease (k : LeaseKind)
  | rchk
  deriving DecidableEq, Repr

/-- A register of the control window; `none` where no register stands. -/
inductive Reg where
  | none
  | ident
  | rev
  | bitClass
  | dieId
  | gctl
  | gstat
  | telCtl
  | tel (n : Fin 16)
  | dbgCtl
  | dbgStat
  | feltCtl
  | park (n : Fin 6)
  | slice
  | miss
  | portStat
  | sbStat
  | ctx (c : CtxId) (r : CtxReg)
  | fmtLo (n : Fin 32)
  | fmtHi (n : Fin 32)
  | curve (r : TabReg)
  | frontCfg
  | frontDly
  | frontCal
  | frontStat
  | frontReca
  | frontForce
  | frontNum
  | korniCtl
  | korniBase
  | korniHead
  | korniTail
  | korniStat
  | fstat (c : CtxId)
  | gen (c : CtxId)
  | digP (c : CtxId)
  | digW (c : CtxId)
  | digI (c : CtxId)
  | digN (c : CtxId)
  | pwrCtl
  | pwrStat
  | pwrBlk
  | pwrEnergy
  | isl (n : Fin 121)
  | errCtl
  | errHead
  | errTail
  | errCnt
  | errLo (n : Fin 64)
  | errHi (n : Fin 64)
  | spare (r : TabReg)
  | stCtl
  | stStat
  | secCtl
  | secStat
  | pat (c : CtxId) (n : Fin 32) (q : Fin 32)
  deriving DecidableEq, Repr

/-! Offsets. -/

/-- A register of the identity, global, telemetry and debug block (R483). -/
def globalAt (o : Nat) : Reg :=
  if o = 0x0000 then .ident
  else if o = 0x0008 then .rev
  else if o = 0x0010 then .bitClass
  else if o = 0x0018 then .dieId
  else if o = 0x0020 then .gctl
  else if o = 0x0028 then .gstat
  else if o = 0x0100 then .telCtl
  else if 0x0108 ≤ o ∧ o < 0x0188 then .tel (Fin.ofNat 16 ((o - 0x0108) / 8))
  else if o = 0x0200 then .dbgCtl
  else if o = 0x0208 then .dbgStat
  else .none

/-- A register of the Felt and boundary block (R484). -/
def feltAt (o : Nat) : Reg :=
  if o = 0x1000 then .feltCtl
  else if 0x1008 ≤ o ∧ o < 0x1038 then .park (Fin.ofNat 6 ((o - 0x1008) / 8))
  else if o = 0x1038 then .slice
  else if o = 0x1040 then .miss
  else if o = 0x1048 then .portStat
  else if o = 0x1050 then .sbStat
  else .none

/-- A register of a context, by its offset in the context's block (R485). -/
def ctxRegAt (o : Nat) : Option CtxReg :=
  if o = 0x000 then some .ctl
  else if o = 0x008 then some .pc
  else if o = 0x010 then some .stat
  else if o = 0x018 then some .fault
  else if o = 0x020 then some .finfo
  else if o = 0x028 then some .done
  else if o = 0x030 then some .fpc
  else if 0x040 ≤ o ∧ o < 0x080 then some (.seed (Fin.ofNat 8 ((o - 0x040) / 8)))
  else if 0x080 ≤ o ∧ o < 0x0C0 then some (.step (Fin.ofNat 8 ((o - 0x080) / 8)))
  else if 0x0C0 ≤ o ∧ o < 0x0E0 then some (.lcnt (Fin.ofNat 4 ((o - 0x0C0) / 8)))
  else if 0x100 ≤ o ∧ o < 0x140 then some (.lease (.tile (Fin.ofNat 8 ((o - 0x100) / 8))))
  else if 0x140 ≤ o ∧ o < 0x150 then some (.lease (.vat (Fin.ofNat 2 ((o - 0x140) / 8))))
  else if o = 0x1F8 then some .rchk
  else none

/-- A register of the front, Korni and digest block (R489). -/
def frontAt (o : Nat) : Reg :=
  if o = 0x6000 then .frontCfg
  else if o = 0x6008 then .frontDly
  else if o = 0x6010 then .frontCal
  else if o = 0x6018 then .frontStat
  else if o = 0x6020 then .frontReca
  else if o = 0x6028 then .frontForce
  else if o = 0x6030 then .frontNum
  else if o = 0x6100 then .korniCtl
  else if o = 0x6108 then .korniBase
  else if o = 0x6110 then .korniHead
  else if o = 0x6118 then .korniTail
  else if o = 0x6120 then .korniStat
  else if 0x6400 ≤ o ∧ o < 0x6600 then
    let c := ctxOf ((o - 0x6400) / 0x40)
    let r := (o - 0x6400) % 0x40
    if r = 0x00 then .fstat c
    else if r = 0x08 then .gen c
    else if r = 0x10 then .digP c
    else if r = 0x18 then .digW c
    else if r = 0x20 then .digI c
    else if r = 0x28 then .digN c
    else .none
  else .none

/-- A register of the power block (R490). -/
def powerAt (o : Nat) : Reg :=
  if o = 0x7000 then .pwrCtl
  else if o = 0x7008 then .pwrStat
  else if o = 0x7010 then .pwrBlk
  else if o = 0x7018 then .pwrEnergy
  else if 0x7400 ≤ o ∧ o < 0x7400 + 8 * 121 then .isl (Fin.ofNat 121 ((o - 0x7400) / 8))
  else .none

/-- A register of the error, spare map and self-test block (R491). -/
def errorAt (o : Nat) : Reg :=
  if o = 0x8000 then .errCtl
  else if o = 0x8008 then .errHead
  else if o = 0x8010 then .errTail
  else if o = 0x8018 then .errCnt
  else if 0x8100 ≤ o ∧ o < 0x8500 then
    (if o % 16 = 0 then .errLo (Fin.ofNat 64 ((o - 0x8100) / 16)) else .errHi (Fin.ofNat 64 ((o - 0x8100) / 16)))
  else if o = 0x8800 then .spare .spareEng
  else if o = 0x8808 then .spare .spareRet
  else if o = 0x8810 then .spare .sparePlane
  else if o = 0x8818 then .spare .host
  else if o = 0x8820 then .spare .hosted
  else if o = 0x8828 then .spare .outOf
  else if o = 0x8830 then .spare (.colfree 0)
  else if o = 0x8838 then .spare (.colfree 1)
  else if o = 0x8A00 then .stCtl
  else if o = 0x8A08 then .stStat
  else if 0x8C00 ≤ o ∧ o < 0x9000 then .spare (.colmap (Fin.ofNat 128 ((o - 0x8C00) / 8)))
  else .none

/-- A register of the curve tables (R488). -/
def curveAt (o : Nat) : Reg :=
  if 0x5000 ≤ o ∧ o < 0x5100 then .curve (.scurve (Fin.ofNat 32 ((o - 0x5000) / 8)))
  else if 0x5100 ≤ o ∧ o < 0x5118 then .curve (.tcls (Fin.ofNat 3 ((o - 0x5100) / 8)))
  else if o = 0x5118 then .curve .tcrit
  else if 0x5200 ≤ o ∧ o < 0x52A0 then .curve (.tcurve (Fin.ofNat 20 ((o - 0x5200) / 8)))
  else .none

/-- The register at an offset that is a multiple of 8 (R475). -/
def regAt (o : Nat) : Reg :=
  if o < 0x1000 then globalAt o
  else if o < 0x2000 then feltAt o
  else if o < 0x3000 then
    (match ctxRegAt ((o - 0x2000) % 0x200) with
     | some r => .ctx (ctxOf ((o - 0x2000) / 0x200)) r
     | none => .none)
  else if 0x4000 ≤ o ∧ o < 0x4200 then
    (if o % 16 = 0 then .fmtLo (Fin.ofNat 32 ((o - 0x4000) / 16)) else .fmtHi (Fin.ofNat 32 ((o - 0x4000) / 16)))
  else if 0x5000 ≤ o ∧ o < 0x6000 then curveAt o
  else if 0x6000 ≤ o ∧ o < 0x7000 then frontAt o
  else if 0x7000 ≤ o ∧ o < 0x8000 then powerAt o
  else if 0x8000 ≤ o ∧ o < 0x9000 then errorAt o
  else if o = 0x9000 then .secCtl
  else if o = 0x9008 then .secStat
  else if 0x10000 ≤ o ∧ o < 0x20000 then
    .pat (ctxOf ((o - 0x10000) / 0x2000)) (Fin.ofNat 32 ((o - 0x10000) % 0x2000 / 0x100)) (Fin.ofNat 32 ((o - 0x10000) % 0x100 / 8))
  else .none

/-! Values. -/

/-- A word made of fields: pairs of a value and the place of its lowest bit. -/
def fieldWord (fs : List (Nat × Nat)) : Quad := BitVec.ofNat 64 (fs.map fun f => f.1 * 2 ^ f.2).sum

/-- STATE (06 R178). -/
def ctxStateNumber : CtxState → Nat
  | .disabled => 0
  | .idle => 1
  | .run => 2
  | .draining => 3
  | .stopped => 4
  | .halted => 5

/-- A value of a context register. -/
def Ctx.regVal (x : Ctx) (r : CtxReg) : Quad :=
  match r with
  | .ctl => fieldWord [(b2n x.en, 0), (b2n x.prog, 1), (x.qos.toNat, 8), (b2n x.secure, 12), (x.domain.toNat, 16)]
  | .pc => x.pc.setWidth 64
  | .stat => fieldWord [(ctxStateNumber x.st, 0), (x.window.length, 8), (x.accepted.toNat, 16), (x.retired.toNat, 32), (x.reject.toNat, 48)]
  | .fault => fieldWord [(x.code.toNat, 0), (b2n x.valid, 8), (b2n x.drained, 9), (x.fseq.toNat, 16), (x.count.toNat, 32)]
  | .finfo => x.finfo
  | .done => x.doneBits.setWidth 64
  | .fpc => x.fpc.setWidth 64
  | .seed n => x.seeds[n]
  | .step n => fieldWord [(x.steps[n].toNat, 0), (b2n (x.autos.getLsbD n.val), 32)]
  | .lcnt n => x.lcnt[n].setWidth 64
  | .lease k => x.leaseReg k
  | .rchk => x.rchk

/-- KIND standing in quad 0 of a pattern register. -/
def patKind (q0 : Quad) : Nat := q0.bits 1 0

/-- The fields of quad `q` of a pattern register of a KIND (16 R493; 04 R114, R115, R118, R120). -/
def patFields (kind q : Nat) : List (Nat × Nat) :=
  if q = 0 then [(2, 0), (4, 4), (9, 5), (21, 16), (26, 24), (63, 32)]
  else if kind = 1 then (if q ≤ 6 then [(63, 0)] else if q = 7 then [(17, 0)] else [])
  else if kind = 2 then (if q ≤ 16 then [(63, 0)] else if q = 17 then [(31, 0)] else [])
  else if kind = 3 then (if q = 1 then [(47, 0)] else [])
  else []

/-- The bits of some fields. -/
def fieldMask (fs : List (Nat × Nat)) : Quad := fs.foldl (fun m f => m ||| BitVec.ofNat 64 (2 ^ (f.1 + 1) - 2 ^ f.2)) 0

/-- Quad `q` of a pattern register as it stands. -/
def Ctx.patQuad (x : Ctx) (n q : Nat) : Quad := spGet 0 x.pats (n * 32 + q)

/-- PARKED of CK_DBG_STAT (15 R471, R472). -/
def State.parked (s : State) (c : CtxId) : Bool := s.dbg.halt.getLsbD c.val && !s.traceMask c && (s.ctx c).window.isEmpty

/-- Eight flags as a number, flag `i` in bit `i`. -/
def flags8 (f : CtxId → Bool) : Nat := ((List.finRange 8).map fun c => b2n (f c) * 2 ^ c.val).sum

/-- Flags of the ports from number `lo`, `n` of them. -/
def State.portFlags (s : State) (lo n : Nat) (f : Port → Bool) : Nat :=
  ((List.range n).map fun i => b2n (f (s.port (Fin.ofNat 12 (lo + i)))) * 2 ^ i).sum

/-- CK_FRONT_STAT (10 R321). -/
def Front.stat (f : Front) : Quad :=
  fieldWord [(b2n f.arrive, 0), (b2n f.stray, 1), (b2n f.noisy, 2), (b2n f.held, 3), (b2n f.parity, 4), (b2n f.recErr, 5),
    (f.strays.toNat, 16), (f.glitches.toNat, 32)]

/-- CK_PWR_STAT (13 R434). -/
def Power.stat (p : Power) : Quad :=
  fieldWord [(p.lvl.toNat, 0), (p.cls.toNat, 5), (p.ccount.toNat, 7), (b2n p.ccpend, 9), (p.thr.toNat, 10), (b2n p.overLim, 14), (b2n p.hot, 15),
    (b2n p.crit, 16), (b2n p.emerg, 17), (b2n p.tchalt, 18)]

/-- The value of a register as it stands. -/
def State.regVal (s : State) (r : Reg) : Quad :=
  match r with
  | .none => 0
  | .ident => fieldWord [(0x5038434B4C44, 0), (s.glob.grade.toNat, 48)]
  | .rev => fieldWord [(0x0A01, 0), (s.glob.romRev.toNat, 16), (s.glob.fuseRev.toNat, 24)]
  | .bitClass => s.glob.bitClass.setWidth 64
  | .dieId => s.glob.dieId
  | .gctl => s.glob.super.setWidth 64
  | .gstat => fieldWord [(s.glob.bu.toNat, 0), (b2n s.glob.fuseBad, 3), (b2n s.glob.romBad, 4), (b2n s.glob.tblBad, 5), (b2n s.glob.stFail, 6),
      (s.glob.buTime.toNat, 32)]
  | .telCtl => fieldWord [(b2n s.tel.freeze, 0)]
  | .tel n =>
    if s.tel.freeze then s.tel.frozen[n]
    else if n.val = 15 then BitVec.ofNat 64 s.clock
    else (s.tel.counts[n.val]?).getD 0
  | .dbgCtl => fieldWord [(s.dbg.halt.toNat, 0), (b2n s.dbg.traceEn, 16), (b2n s.dbg.traceInstr, 17), (s.dbg.traceCtx.toNat, 24)]
  | .dbgStat => fieldWord [(flags8 s.parked, 0), (s.dbg.drops.toNat, 16)]
  | .feltCtl => fieldWord [(b2n s.felt.remap, 0), (b2n s.felt.dmz, 1), (s.felt.starve.toNat, 8), (s.felt.eddyQos.toNat, 16),
      (s.felt.intQos.toNat, 20)]
  | .park n => s.felt.park[n]
  | .slice => 0x7F
  | .miss => fieldWord [(s.felt.missAddr.toNat, 0), (b2n s.felt.missWrite, 48), (b2n s.felt.missSeq, 49), (s.felt.missDom.toNat, 50),
      (b2n s.felt.missValid, 63)]
  | .portStat => fieldWord [(s.portFlags 0 8 Port.stall, 0), (s.portFlags 8 4 Port.stall, 8), (s.portFlags 0 8 Port.fail, 16),
      (s.portFlags 8 4 Port.fail, 24), (s.felt.retries.toNat, 32), (b2n s.felt.issPar, 48)]
  | .sbStat => fieldWord [(b2n s.tamperOn, 0), (b2n s.sb.tnoisy, 1), (b2n s.sb.lcnoisy, 2), (b2n s.sb.lcbad, 3), (b2n s.sb.ccnoisy, 4),
      (b2n s.sb.thnoisy, 5), (b2n (s.sb.qpnoisy != 0), 6), (s.sb.tglitch.toNat, 16), (s.sb.mglitch.toNat, 32)]
  | .ctx c r => (s.ctx c).regVal r
  | .fmtLo n => if n.val < 16 then fixedFmtQuad n.val else s.tabVal (.fmt (Fin.ofNat 16 (n.val - 16)))
  | .fmtHi _ => 0
  | .curve t => s.tabVal t
  | .frontCfg => fieldWord [(b2n s.front.enable, 0), (s.front.owner.toNat, 1), (b2n s.front.recEn, 4), (s.front.chipsM1.toNat, 8),
      (s.front.limit.toNat, 24)]
  | .frontDly => s.front.delay.setWidth 64
  | .frontCal => fieldWord [(b2n s.front.calBusy, 1), (b2n s.front.calValid, 2), (s.front.rtt.toNat, 16)]
  | .frontStat => s.front.stat
  | .frontReca => s.front.reca.setWidth 64
  | .frontForce => fieldWord [(s.front.word.toNat, 0), (b2n s.front.arm, 16)]
  | .frontNum => s.front.num.setWidth 64
  | .korniCtl => fieldWord [(s.korni.mode.toNat, 0), (b2n s.korni.raceFull, 2), (b2n s.korni.trail, 3), (s.korni.log2size.toNat, 8)]
  | .korniBase => s.korni.base.setWidth 64
  | .korniHead => s.korni.head
  | .korniTail => s.korni.tail
  | .korniStat => fieldWord [(b2n s.korni.lost, 0), (b2n s.korni.diverged, 1), (b2n (s.korni.mode == 2 && s.korni.head == s.korni.tail), 2),
      (s.korni.divCtx.toNat, 8), (s.korni.divSeq.toNat, 16)]
  | .fstat c => (s.ctx c).fstat
  | .gen c => (s.ctx c).gen.setWidth 64
  | .digP c => (s.ctx c).digP
  | .digW c => (s.ctx c).digW
  | .digI c => (s.ctx c).digI
  | .digN c => BitVec.ofNat 64 ((s.ctx c).digN % 2 ^ 32)
  | .pwrCtl => fieldWord [(b2n s.pwr.en, 0), (s.pwr.minstep.toNat, 8)]
  | .pwrStat => s.pwr.stat
  | .pwrBlk => fieldWord [(s.pwr.power.toNat, 0), (s.pwr.budget.toNat, 16), (s.pwr.tmax.toNat, 32), (s.pwr.overs.toNat, 40)]
  | .pwrEnergy => s.pwr.energy
  | .isl n =>
    let i := s.islands[n]
    fieldWord [(i.power.toNat, 0), (i.temp.toNat, 16), (i.step.toNat, 24), (b2n i.crit, 29), (b2n i.off, 30)]
  | .errCtl => fieldWord [(b2n s.err.scrubEn, 0), (s.err.scrubRate.toNat, 4), (s.err.thrashN.toNat, 8), (s.err.thrashW.toNat, 16),
      (b2n s.err.evtEn, 24)]
  | .errHead => s.err.head
  | .errTail => s.err.tail
  | .errCnt => fieldWord [(s.err.corr.toNat, 0), (s.err.uncorr.toNat, 16), (s.err.dropped.toNat, 32)]
  | .errLo n => s.err.entries[n].1
  | .errHi n => s.err.entries[n].2
  | .spare t => s.tabVal t
  | .stCtl => fieldWord [(s.st.kind.toNat, 0), (s.st.unit.toNat, 8)]
  | .stStat => fieldWord [(b2n s.st.busy, 0), (b2n s.st.fail, 1)]
  | .secCtl => fieldWord [(s.secureSize, 0), (s.sec.secdom.toNat, 8), (s.sec.twmask.toNat, 16), (b2n s.sec.locked, 25)]
  | .secStat => fieldWord [(s.sec.lc.toNat, 0), (b2n s.sec.closed, 2), (b2n s.sec.wiping, 3), (b2n s.sec.wiped, 4),
      (flags8 fun c => (s.ctx c).secure, 8), (s.sec.wipes.toNat, 16), (s.sec.last.toNat, 32), (s.sec.cause.toNat, 48)]
  | .pat c n q => (s.ctx c).patQuad n.val q.val &&& fieldMask (patFields (patKind ((s.ctx c).patQuad n.val 0)) q.val)

/-- The register of a triplicated table that an access reads. -/
def Reg.tab (r : Reg) : Option TabReg :=
  match r with
  | .fmtLo n => if n.val < 16 then Option.none else some (.fmt (Fin.ofNat 16 (n.val - 16)))
  | .curve t => some t
  | .spare t => some t
  | _ => Option.none

/-! Domains (14 R439, R444). -/

/-- The domain tag an access carries. -/
def State.srcDomain (s : State) (src : Source) : BitVec 8 :=
  match src with
  | .eddy d => d
  | .sequencer c => (s.ctx c).domain

/-- The supervisor domain (R439). -/
def State.fromSuper (s : State) (d : BitVec 8) : Bool := d == s.superDomain

/-- R444: the context's own domain, or the supervisor's for a context that is not secure, the security manager's for one that is. -/
def State.ctxDomain (s : State) (c : CtxId) (d : BitVec 8) : Bool :=
  d == (s.ctx c).domain || (if (s.ctx c).secure then d == s.sec.secdom else s.fromSuper d)

/-- R444: who may read a register. -/
def State.mayRead (s : State) (r : Reg) (d : BitVec 8) : Bool :=
  match r with
  | .ctx _ (.lease _) => true
  | .ctx c _ => s.ctxDomain c d
  | .fstat c => s.ctxDomain c d
  | .gen c => s.ctxDomain c d
  | .digP c => s.ctxDomain c d
  | .digW c => s.ctxDomain c d
  | .digI c => s.ctxDomain c d
  | .digN c => s.ctxDomain c d
  | .pat c _ _ => s.ctxDomain c d
  | _ => true

/-! Reads. -/

/-- The bits an access covers (00 R10). -/
def partMask (p : Part) : Quad :=
  match p with
  | .whole => 0xFFFFFFFFFFFFFFFF
  | .low => 0x00000000FFFFFFFF
  | .high => 0xFFFFFFFF00000000

/-- An access covers bits 31:0, or bits 63:32. -/
def coversLow (p : Part) : Bool := p != .high
def coversHigh (p : Part) : Bool := p != .low

/-- The counters of timing: work, beats and v-slots in time, and demand hits and misses, which the fetches ahead and the displaced lines of 01
R33 decide (15 R469). -/
def timeCounters : List Nat := [3, 4, 5, 6, 9, 10]

/-- The counters of timing that the work in progress goes on advancing. (log 16: DESIGN CHOICE.) -/
def State.timesNow (s : State) : List Nat :=
  (s.ctxs.toList.flatMap fun x => (x.window.filter fun e => e.phase == .ready || e.phase == .active).flatMap (s.timesOf x.parity)) ++
    s.st.running.flatMap testTimes ++ (if s.st.copies.isEmpty then [] else [3, 5, 6]) ++ (if s.st.rebuilds.isEmpty then [] else [5, 6]) ++
    (if s.sec.wiping then [3, 5, 6] else [])

/-- The counters of timing that work has advanced since they were counted last. -/
def State.timesDue (s : State) : List Nat := timeCounters.filter fun n => s.tel.due.contains n || s.timesNow.contains n

/-- The counters of timing take the value they have by now, which the spec leaves open: those that work has advanced go on by a free amount,
the others stand (15 R469; log 4). (log 16: DESIGN CHOICE.) -/
def State.telRefresh (s : State) : State :=
  let s1 := s.timesDue.foldl State.tallyFree s
  { s1 with tel := { s1.tel with due := s.timesNow } }

/-- A read clears the read-to-clear fields that lie in the half it returns (00 R11; 16 R478). The fields of CK_SEC_STAT clear for the
supervisor and security manager domains alone (14 R444). (log 48: DEDUCED.) -/
def State.clearOnRead (s : State) (r : Reg) (p : Part) (d : BitVec 8) : State :=
  match r with
  | .ctx c .stat => if coversHigh p then s.upCtx c fun x => { x with reject := 0 } else s
  | .dbgStat => if coversLow p then { s with dbg := { s.dbg with drops := 0 } } else s
  | .portStat => if coversHigh p then { s with felt := { s.felt with retries := 0 } } else s
  | .sbStat =>
    { s with sb := { s.sb with
        tglitch := if coversLow p then 0 else s.sb.tglitch, mglitch := if coversHigh p then 0 else s.sb.mglitch } }
  | .frontStat =>
    { s with front := { s.front with
        strays := if coversLow p then 0 else s.front.strays, glitches := if coversHigh p then 0 else s.front.glitches } }
  | .pwrBlk => if coversHigh p then { s with pwr := { s.pwr with overs := 0 } } else s
  | .errCnt =>
    { s with err := { s.err with
        corr := if coversLow p then 0 else s.err.corr, uncorr := if coversLow p then 0 else s.err.uncorr
        dropped := if coversHigh p then 0 else s.err.dropped } }
  | .secStat =>
    if coversLow p && (s.fromSuper d || d == s.sec.secdom) then { s with sec := { s.sec with wipes := 0 } } else s
  | _ => s

/-- What a read compares or brings up to date before it returns. -/
def State.beforeRead (s : State) (r : Reg) : State :=
  match r with
  | .tel _ => if s.tel.freeze then s else s.telRefresh
  | _ => match r.tab with | some t => s.compare t | none => s

/-- The bytes of the half or whole of a value. -/
def partBytes (p : Part) (v : Quad) : List Byte :=
  match p with
  | .whole => leBytes 8 v.toNat
  | .low => leBytes 4 v.toNat
  | .high => leBytes 4 (v.toNat / 2 ^ 32)

/-- A read of the register at offset `off` of the control window, whole or in half: its bytes and the state after it, or an error response. -/
def State.readReg (s : State) (d : BitVec 8) (off : Nat) (p : Part) : Option (List Byte × State) :=
  let r := regAt off
  if off % 8 ≠ 0 then none
  else if s.mayRead r d then
    let s1 := s.beforeRead r
    some (partBytes p (s1.regVal r), s1.clearOnRead r p d)
  else none

/-- The Felt address of a register or a half of one. -/
def windowAddr (off : Nat) (p : Part) : Nat := 0x80000000 + off + (if p = .high then 4 else 0)

/-- The bytes of a register or a half of one. -/
def partSize (p : Part) : Nat := if p = .whole then 8 else 4

/-- The answer to a register read: an eddy response for an eddy source, nothing for a sequencer. -/
def State.answerRead (s : State) (src : Source) (err : Bool) (off : Nat) (p : Part) (bs : List Byte) : State :=
  match src with
  | .eddy _ => s.respondRead 0 err (windowAddr off p) (partSize p) bs
  | .sequencer _ => s

/-- The eddy port takes no command: 12 lease writes are outstanding (11 R382). -/
def State.eddyFull (s : State) : Bool :=
  decide (12 ≤ (s.leaseWaits.filter fun w => match w.src with | .eddy _ => true | _ => false).length + s.resp.length)

/-- A command of a source in the control window waits: the eddy port is full, or a lease write with the same identifier has still to be
answered, and responses on one identifier return in order (11 R357, R382). (log 53: DEDUCED.) -/
def State.idWaits (s : State) (src : Source) (id : BitVec 4) : Bool :=
  match src with
  | .eddy _ => s.eddyFull || s.leaseWaits.any fun w => (match w.src with | .eddy _ => true | _ => false) && w.id == id
  | .sequencer _ => false

/-- RSC_READ (00 R11). -/
def execRscRead (src : Source) (off : BitVec 24) (p : Part) (s : State) : Out :=
  whenUp s <|
    if s.idWaits src 0 then s
    else
      match s.readReg (s.srcDomain src) off.toNat p with
      | none => s.answerRead src true off.toNat p []
      | some (bs, s1) => s1.answerRead src false off.toNat p bs

end Sys2Proof.Machine
end

