-- ==== Sys2Proof/Machine/Repair.lean ====
section
/-! DEFINITION. Self-tests and their outcomes, spares, hosting, planes, Vat columns and lanes (12 R393, R394, R397 to R403; 05 R163),
the loss of a quadrant (12 R404; 15 R461), and the scrub (12 R412). -/

namespace Sys2Proof.Machine

/-! Spare map updates write all three copies (R407). -/

/-- SSTATE and FOR of the spare of quadrant `q` (R409). -/
def State.setSpare (s : State) (q st for_ : Nat) : State :=
  s.putTab .spareEng (setField (setField s.spareEng (16 * q) 2 st) (16 * q + 2) 4 for_)

/-- RET of physical engine `p` (R410). -/
def State.retire (s : State) (p : Nat) : State := s.putTab .spareRet (setField (s.tabVal .spareRet) p 1 1)

/-- STATEp of a plane (R410). -/
def State.setPlane (s : State) (p st : Nat) : State := s.putTab .sparePlane (setField (s.tabVal .sparePlane) (2 * p) 2 st)

/-! Hosting (R398). -/

/-- The number of engines a physical engine hosts. -/
def State.hostLoad (s : State) (p : Nat) : Nat := (s.st.hosts.filter fun h => h.2.1.val == p).length

/-- A physical engine may be a host: active, not a spare, not of a lost quadrant, not failing. -/
def State.mayHost (s : State) (p : Nat) : Bool :=
  !s.retired p && !s.qlost (p / 16) && s.physical p == p && !s.outE p && !(s.st.copies.any fun k => k.1.val == p)

/-- The host that hosts the fewest engines, the lowest number first. -/
def State.pickHost (s : State) : Option (Fin 64) :=
  (List.finRange 64).foldl (fun a p =>
    if s.mayHost p.val then
      match a with
      | some b => if s.hostLoad p.val < s.hostLoad b.val then some p else a
      | none => some p
    else a) none

/-- The lowest free slot of the hosting reserve. -/
def State.freeSlot (s : State) : Nat := ((List.range 16).find? fun k => !s.st.hosts.any fun h => h.2.2 == k).getD 0

/-- The engines hosted, and those on their way to it: both hold a slot of the reserve (R398). (log 56: DEDUCED.) -/
def State.hostCount (s : State) : Nat := s.st.hosts.length + (s.st.copies.filter Prod.snd).length

/-- Hosting is possible (R398). -/
def State.canHost (s : State) : Bool := s.hostEn && decide (s.hostCount < 16) && s.pickHost.isSome

/-- Every tile of a logical engine takes LOST. -/
def State.loseTiles (s : State) (g : Nat) : State :=
  (List.range 8).foldl (fun s i => s.upTile (8 * g + i) fun t => { t with lost := true }) s

/-- Logical engine `g` is out of service (R398). -/
def State.outNow (s : State) (g : Nat) : State := (s.putTab .outOf (setField (s.tabVal .outOf) g 1 1)).loseTiles g

/-- Logical engine `g` is hosted, with its event; where no host is left it is out of service. -/
def State.hostNow (s : State) (g : Fin 64) (phys : Nat) : State :=
  match s.pickHost with
  | some p =>
    (({ s with st := { s.st with hosts := s.st.hosts ++ [(g, p, s.freeSlot)] } } : State).putTab .hosted
      (setField (s.tabVal .hosted) g.val 1 1)).logErr ⟨0x08, 0, phys, 0, 0⟩
  | none => s.outNow g.val

/-- A hosted engine's tiles are no longer in its slot of the reserve, which keeps their last bytes (R398). -/
def State.leaveSlot (s : State) (h : Fin 64 × Fin 64 × Nat) : State :=
  { s with
    st := { s.st with hosts := s.st.hosts.erase h }
    vat := putBytes s.vat (0x100000 * s.hostRegion + 0x40000 * h.2.2) (bytesAt s.tileMem (tileBase (8 * h.1.val)) 0x40000) }

/-- Engines whose host may no longer host move to another (R398); those for which there is none are out of service. -/
def State.rehost (s : State) : State :=
  s.st.hosts.foldl (fun s h =>
    if s.mayHost h.2.1.val then s
    else
      let s1 := { s with st := { s.st with hosts := s.st.hosts.erase h } }
      match s1.pickHost with
      | some p => { s1 with st := { s1.st with hosts := s1.st.hosts ++ [(h.1, p, h.2.2)] } }
      | none => ((s.leaveSlot h).putTab .hosted (setField (s1.tabVal .hosted) h.1.val 1 0)).outNow h.1.val) s

/-! Engines (R397, R398). -/

/-- The logical engine behind which physical engine `p` stands, if any. -/
def State.logicalOf (s : State) (p : Nat) : Option (Fin 64) :=
  (List.finRange 64).find? fun g => s.physical g.val == p && !(s.st.hosts.any fun h => h.1 == g) && !s.outE g.val

/-- The spare of a quadrant is free: no copy to it is under way either. -/
def State.spareFree (s : State) (q : Nat) : Bool :=
  s.sstate q == 0 && !s.qlost q && !s.st.copies.any fun k => k.1.val / 16 == q && !k.2

/-- The physical engine that failed is marked retired: an engine in CK_SPARE_RET, a spare in its SSTATE. -/
def State.retirePhysical (s : State) (p : Nat) : State := if p < 64 then s.retire p else s.setSpare (p - 64) 3 (s.sparedFor (p - 64))

/-- The spans of an instruction that are on their way when a spare takes over one of its engines lose that engine's words: their next failure
is not counted (05 R165). (log 28: DEDUCED.) -/
def Entry.loseSpans (e : Entry) (s : State) (g : Nat) : Entry :=
  match partsOf e.insn with
  | some P =>
    if e.phase = .active ∧ e.crosses = true ∧ e.insn.tiles.any (fun t => t / 8 == g) = true then
      { e with spanLost := (List.range (P.units s e)).filter fun k => !e.unitDone k }
    else e
  | none => e

/-- A spare stands in (R397; 05 R165). -/
def State.standIn (s : State) (g : Fin 64) (phys : Nat) : State :=
  let s1 : State := { s with ctxs := s.ctxs.map fun x => { x with window := x.window.map fun e => Entry.loseSpans e s g.val } }
  (((s1.setSpare (g.val / 16) 1 (g.val % 16)).retirePhysical phys).logErr ⟨0x07, 0, phys, g.val / 16, 0⟩).rehost

/-- The engine behind logical engine `g` has failed and cannot be spared: it is hosted, or out of service (R398). `now` says that no
tile contents are copied (15 R461). -/
def State.hostOrOut (s : State) (g : Fin 64) (phys : Nat) (now : Bool) : State :=
  if s.canHost then
    if now then ((s.retirePhysical phys).hostNow g phys).rehost
    else { s with st := { s.st with copies := s.st.copies ++ [(g, true)] } }
  else ((s.retirePhysical phys).outNow g.val).rehost

/-- Physical engine `p` has failed its test. -/
def State.engineFails (s : State) (p : Nat) (now : Bool) : State :=
  match s.logicalOf p with
  | none => s.retirePhysical p
  | some g =>
    let q := g.val / 16
    if s.spareFree q && decide (p < 64) then
      if now then s.standIn g p else { s with st := { s.st with copies := s.st.copies ++ [(g, false)] } }
    else s.hostOrOut g p now

/-- Repair reads the spare map (R405). -/
def State.readSpares (s : State) : State := s.compareAll spareRegs

/-- A copy of an engine's tiles has ended: a spare stands in, or the engine is hosted. -/
def State.copyEnds (s : State) (g : Fin 64) (hosts spareFails : Bool) : State :=
  let phys := s.physical g.val
  if hosts then ((s.retirePhysical phys).hostNow g phys).rehost
  else if spareFails then (s.setSpare (g.val / 16) 3 0).hostOrOut g phys false
  else s.standIn g phys

/-- SPARE_COPY_DONE: `spareFails` says that the spare failed during the copy (R397, R398). Where a register that describes the engines disagrees in
all three copies the repair halts (R406). (log 44: DEDUCED.) -/
def execSpareCopyDone (g : Fin 64) (spareFails : Bool) (s0 : State) : Out :=
  whenUp s0 <|
    match s0.st.copies.find? fun k => k.1 == g with
    | none => s0
    | some k =>
      let s := s0.readSpares
      if s.split engineRegs then s
      else (({ s with st := { s.st with copies := s.st.copies.erase k } } : State).mark [3, 5, 6]).copyEnds g k.2 spareFails

/-! Planes (05 R163). -/

/-- A plane has failed its test: it is retired, and plane E becomes active in its place while it is the spare. -/
def State.planeFails (s : State) (p : Fin 5) : State :=
  let s1 := (s.setPlane p.val 3).logErr ⟨0x0A, 1, p.val, 0, 0⟩
  if p.val ≠ 4 ∧ s1.planeState 4 = 1 then (s1.setPlane 4 0).logErr ⟨0x09, 1, p.val, 4, 0⟩ else s1

/-- A plane has passed its test: it is active again, or spare if it was the spare (05 R163). (log 28: DEDUCED.) -/
def State.planePasses (s : State) (p : Fin 5) : State :=
  if s.planeState p.val ≠ 2 then s else s.setPlane p.val (if s.st.wasSpare.contains p then 1 else 0)

/-! Vat columns and lanes (R401, R402). -/

/-- Entry `m` of CK_COLMAP (R411). -/
def State.colmap (s : State) (m : Nat) : Quad := ((s.tab.colmap[m]?).getD {}).val

/-- An entry in force uses redundant element `e` of a segment: a lane, or a column. -/
def State.entryUses (s : State) (m : Nat) (lane : Bool) (e : Nat) : Bool :=
  let q := s.colmap m
  q.bit 0 && q.bit 1 == lane && q.bits 18 15 == e

/-- A fuse uses the element. -/
def State.fuseUses (s : State) (seg : Nat) (lane : Bool) (e : Nat) : Bool := s.fuses.usedCols.contains (seg, lane, e)

/-- The lowest-numbered redundant element of a segment that neither a fuse nor an entry uses. -/
def State.freeElement (s : State) (seg : Nat) (lane : Bool) : Option Nat :=
  (List.range (if lane then 4 else 16)).find? fun e =>
    !s.fuseUses seg lane e && !(List.range 8).any fun i => s.entryUses (8 * seg + i) lane e

/-- The lowest entry of a segment that is not in force. (log 70: DESIGN CHOICE.) -/
def State.freeEntry (s : State) (seg : Nat) : Option Nat := ((List.range 8).map (8 * seg + ·)).find? fun m => !(s.colmap m).bit 0

/-- CK_COLFREE counts the elements that neither a fuse nor an entry uses (R410). -/
def State.recountFree (s : State) (seg : Nat) : State :=
  let free (lane : Bool) : Nat := ((List.range (if lane then 4 else 16)).filter fun e =>
    !s.fuseUses seg lane e && !(List.range 8).any fun i => s.entryUses (8 * seg + i) lane e).length
  let r := TabReg.colfree (Fin.ofNat 2 (seg / 8))
  s.putTab r (setField (setField (s.tabVal r) (8 * (seg % 8)) 5 (free false)) (8 * (seg % 8) + 5) 3 (free true))

/-- A value of CK_COLMAP in force. -/
def colmapEntry (lane : Bool) (sub bit e : Nat) : Quad := BitVec.ofNat 64 (1 + b2n lane * 2 + sub % 256 * 4 + bit % 32 * 2 ^ 10 + e % 16 * 2 ^ 15)

/-- A bit line or lane of a macro is replaced, or nothing is left to replace it with: no element, or no entry of the map that could name one.
(log 70: DESIGN CHOICE.) -/
def State.repairColumn (s : State) (seg mac : Nat) (lane : Bool) (sub bit : Nat) (now : Bool) : State :=
  let loc := if lane then 0 else sub + bit * 2 ^ 8
  match s.freeElement seg lane, s.freeEntry seg with
  | some e, some m =>
    let s1 := ((s.putTab (.colmap (Fin.ofNat 128 m)) (colmapEntry lane sub bit e)).recountFree seg).logErr
      ⟨0x0B, 2, 16 * seg + mac, e, loc⟩
    if lane || now then s1 else { s1 with st := { s1.st with rebuilds := s1.st.rebuilds ++ [Fin.ofNat 16 seg] } }
  | _, _ => s.logErr ⟨0x0C, 2, 16 * seg + mac, 0, loc⟩

/-- VAT_REBUILD_DONE (R402). -/
def execVatRebuildDone (seg : Fin 16) (s : State) : Out :=
  whenUp s ({ s with st := { s.st with rebuilds := s.st.rebuilds.filter fun g => g != seg } }.mark [5, 6])

/-! Outcomes (R393, R394, R403). -/

/-- A unit fails its self-test and is repaired or retired. A failure that names no part of the Screen is a slice of the sorter, and one that
names no way of a cache slice disables none; a macro that is treated as failing under R394 with no bit line or lane found wrong stays, logged as
one that has no element left. (log 28: DEDUCED.) -/
def State.unitFails (s : State) (u : TestUnit) (o : TestOutcome) (now : Bool) : State :=
  let s1 := s.logErr ⟨0x06, testKind u, testNumber u, 0, 0⟩
  match u with
  | .engine p => s1.engineFails p.val now
  | .plane p => s1.planeFails p
  | .macroOf g m =>
    match o with
    | .badLine sub bit => s1.repairColumn g.val m.val false sub.val bit.val now
    | .badLane lane => s1.repairColumn g.val m.val true lane.val 0 now
    | _ => s1.logErr ⟨0x0C, 2, 16 * g.val + m.val, 0, 0⟩
  | .screen =>
    match o with
    | .badSlice true => { s1 with st := { s1.st with pathBad := s1.st.pathBad + 1 } }
    | _ => { s1 with st := { s1.st with sorterBad := s1.st.sorterBad + 1 } }
  | .cacheSlice p =>
    match o with
    | .badWays ws => { s1 with st := { s1.st with cacheBad := (s1.st.cacheBad ++ ws.map fun w => (p, w)).eraseDups } }
    | _ => s1

/-- The tests a unit has passed in the current window of R394, this one included. -/
def State.passesNow (s : State) (u : TestUnit) : Nat :=
  let w := s.clock / 2 ^ s.err.thrashW.toNat
  1 + ((s.st.passes.find? fun p => p.1 == u && p.2.1 == w).map fun p => p.2.2).getD 0

/-- One more pass is too many in one window: the unit is treated as failing (R394). -/
def State.thrashes (s : State) (u : TestUnit) : Bool := decide (0 < s.err.thrashN.toNat ∧ s.err.thrashN.toNat ≤ s.passesNow u)

/-- The unit passes, or its passes are too many in one window and it is treated as failing (R394). -/
def State.unitPasses (s : State) (u : TestUnit) : State :=
  let n := s.passesNow u
  let w := s.clock / 2 ^ s.err.thrashW.toNat
  let s1 := { s with st := { s.st with passes := (u, w, n) :: s.st.passes.filter fun p => p.1 != u } }
  if s.thrashes u then
    (s1.logErr ⟨0x10, testKind u, testNumber u, 0, 0⟩).unitFails u .fail false
  else
    let s2 := s1.logErr ⟨0x05, testKind u, testNumber u, 0, 0⟩
    match u with
    | .plane p => s2.planePasses p
    | .engine p => if 64 ≤ p.val ∧ s2.sstate (p.val - 64) = 2 then s2.setSpare (p.val - 64) 0 0 else s2
    | _ => s2

/-- A test leaves the list of those running; the outcome of the test that CK_ST_CTL started is reported (R412). (log 28: DEDUCED.) -/
def State.endTest (s : State) (u : TestUnit) (failed : Bool) : State :=
  let t := { s.st with running := s.st.running.filter fun v => v != u }
  { s with st := if t.started = some u then { t with started := none, busy := false, fail := failed } else t }

/-- What a test ends with for a plane: its record as the spare is given up. -/
def State.dropSpareMark (s : State) (u : TestUnit) : State :=
  match u with
  | .plane p => { s with st := { s.st with wasSpare := s.st.wasSpare.filter fun v => v != p } }
  | _ => s

/-- The spare map registers that the end of a unit's test needs. -/
def testRegs : TestUnit → List TabReg
  | .engine _ => engineRegs
  | .plane _ => [.sparePlane]
  | .macroOf g _ => .colfree (Fin.ofNat 2 (g.val / 8)) :: segmentRegs g.val
  | _ => []

/-- A test ends with an outcome. -/
def State.finishTest (s : State) (u : TestUnit) (o : TestOutcome) : State :=
  let s1 := (s.endTest u (o != TestOutcome.pass || s.thrashes u)).mark (testTimes u)
  (if o = .pass then s1.unitPasses u else s1.unitFails u o false).dropSpareMark u

/-- SELF_TEST_END (R393). Where a register that describes the unit disagrees in all three copies, what follows a test halts: the unit stays under
test (R406). (log 44: DEDUCED.) -/
def execSelfTestEnd (u : TestUnit) (o : TestOutcome) (s0 : State) : Out :=
  whenUp s0 <|
    if s0.testing u then
      let s := s0.readSpares
      if s.split (testRegs u) then s else s.finishTest u o
    else s0

/-! Losing a quadrant (R404). -/

/-- A physical engine belongs to quadrant `q`. -/
def inQuadrant (q p : Nat) : Bool := (decide (p < 64) && p / 16 == q) || p == 64 + q

/-- The tile of an instruction on an engine of quadrant `q`, by its own number or by the engine that stands behind it, with its operand
number and header entry. (log 56: DEDUCED.) -/
def State.tileIn (s : State) (i : Insn) (q : Nat) : Option (Nat × Nat × Nat) :=
  i.operandTiles.find? fun t => t.1 / 128 == q || inQuadrant q (s.physical (t.1 / 8))

/-- An instruction that is at work on an engine of the quadrant faults with TILE_LOST (R404 step 3), but a TREL, which has no slot on an engine and
faults with it never (03 R105). (log 56: DEDUCED.) -/
def State.loseEntry (s : State) (q : Nat) (c : CtxId) (n : Seq) : State :=
  match (s.ctx c).entry n with
  | some e =>
    match s.tileIn e.insn q with
    | some (t, o, k) =>
      if e.phase = .active ∧ e.insn.isTrel = false then s.faultUnit c e e.upTo (tileLost (tileInfo t o k)) else s
    | none => s
  | none => s

/-- The self-tests and copies in a quadrant stop, with that of its spare. -/
def State.stopTests (s0 : State) (q : Nat) : State :=
  let s := if s0.split [.spareEng] = false ∧ s0.sstate q = 2 then s0.setSpare q 0 0 else s0
  let gone (u : TestUnit) : Bool := match u with | .engine p => inQuadrant q p.val | _ => false
  let t := s.st
  let hit := match t.started with | some u => gone u | none => false
  { s with st := { t with
      running := t.running.filter fun u => !gone u
      started := if hit then none else t.started
      busy := if hit then false else t.busy
      copies := t.copies.filter fun k => k.1.val / 16 != q } }

/-- The 16 logical engines of a quadrant are hosted while the reserve allows, and are otherwise out of service. -/
def State.hostQuadrant (s : State) (q : Nat) : State :=
  (List.range 16).foldl (fun s i =>
    let g : Fin 64 := Fin.ofNat 64 (16 * q + i)
    if (s.st.hosts.any fun h => h.1 == g) || s.outE g.val then s
    else if s.canHost then s.hostNow g (s.physical g.val) else s.outNow g.val) s

/-- R404 step 5: QLOST is set, and the engines of the quadrant are hosted. (log 56: DEDUCED.) -/
def State.hostLost (s : State) (q : Fin 4) : State :=
  ((s.putTab .spareEng (setField s.spareEng (16 * q.val + 6) 1 1)).rehost).hostQuadrant q.val

/-- What the loss of a quadrant leaves to repair: at once, or when the registers that describe the engines agree again (R406).
(log 44: DEDUCED.) -/
def State.repairLoss (s : State) (q : Fin 4) : State :=
  if s.split engineRegs then { s with st := { s.st with lossDue := s.st.lossDue ++ [q] } } else s.hostLost q

/-- A write has ended the disagreement that repairs of lost quadrants waited for (R406, R407). (log 44: DEDUCED.) -/
def State.repairDue (s : State) : State :=
  if s.split engineRegs then s
  else s.st.lossDue.foldl State.hostLost { s with st := { s.st with lossDue := [] } }

/-- R404, in order. The islands of the quadrant go on reporting the power of the last interval until the next ends (13 R418, R436). That SSTATE 1
and FOR of the quadrant's spare stand, and SSTATE 2 becomes 0, is the model's choice (R409). (log 56: DEDUCED.) (log 81: DESIGN CHOICE.) -/
def State.loseQuadrant (s0 : State) (q : Fin 4) : State :=
  let s := s0.readSpares
  let s1 := (List.finRange 8).foldl (fun s c => ((s.ctx c).window.map Entry.seq).foldl (fun s n => s.loseEntry q.val c n) s) s
  let s2 := (List.range 16).foldl (fun s i => s.loseTiles (16 * q.val + i)) s1
  let s3 := s2.stopTests q.val
  let s4 := { s3 with
    pwr := { s3.pwr with qpwrEn := s3.pwr.qpwrEn &&& ~~~(BitVec.ofNat 4 (2 ^ q.val)) }
    islands := Vector.ofFn fun i =>
      if decide (i.val < 68) && islandQuadrant i.val == q.val then { s3.islands[i] with off := true } else s3.islands[i] }
  ((s4.repairLoss q).logErr ⟨0x0F, 10, q.val, 0, 0⟩).korniEventRec 5 q.val

/-- QUADRANT_LOST: QPWR_OK bit `q` counts 0; an enabled quadrant is lost (R404, 11 R387). -/
def execQuadrantLost (q : Fin 4) (s : State) : Out :=
  whenUp s <|
    let s1 := { s with pwr := { s.pwr with qpwrOk := s.pwr.qpwrOk &&& ~~~(BitVec.ofNat 4 (2 ^ q.val)) } }
    if s.pwr.qpwrEn.getLsbD q.val && s.qpwrGood q.val then s1.loseQuadrant q else s1

/-- Quadrant power-up goes on at a moment with the next quadrant (15 R461). -/
def State.nextQuadrant (s : State) (at_ : Nat) : State :=
  let k := s.glob.quads + 1
  { s with
    glob := { s.glob with quads := k }
    pwr := { s.pwr with
      qpwrEn := if k < 4 then s.pwr.qpwrEn ||| BitVec.ofNat 4 (2 ^ k) else s.pwr.qpwrEn
      qpwrAt := if k < 4 then at_ else s.pwr.qpwrAt } }

/-- The last moment at which the quadrant that is being powered up may count as good: 2^16 reference e-cycles after its QPWR_EN (15 R461). -/
def State.powerLimit (s : State) : Nat := s.pwr.qpwrAt + 2 ^ 16

/-- The quadrant is the one being powered up in TEST. -/
def State.powering (s : State) (q : Fin 4) : Bool := s.glob.bu == 3 && s.glob.quads == q.val

/-- The quadrant that is being powered up is lost at its limit, and power-up goes on with the next (15 R461). -/
def State.powerFails (s : State) (q : Fin 4) : State := (s.loseQuadrant q).nextQuadrant s.powerLimit

/-- The quadrants whose limit has passed by now are lost: `n` of them at most. (log 58: DEDUCED.) -/
def State.powerLate : Nat → State → State
  | 0, s => s
  | n + 1, s =>
    if s.glob.bu = 3 ∧ s.glob.quads < 4 ∧ s.powerLimit < s.clock then State.powerLate n (s.powerFails (Fin.ofNat 4 s.glob.quads)) else s

/-- QUADRANT_POWER_GOOD (15 R461): QPWR_OK bit `q` counts 1 now; the quadrants whose limit has passed before are lost. A noisy input reads 0 (11
R387). (log 58: DEDUCED.) -/
def execQuadrantPowerGood (q : Fin 4) (s0 : State) : Out :=
  whenUp s0 <|
    let s := State.powerLate 4 s0
    let s1 := { s with pwr := { s.pwr with qpwrOk := s.pwr.qpwrOk ||| BitVec.ofNat 4 (2 ^ q.val) } }
    (if s.powering q && !s.sb.qpnoisy.getLsbD q.val then s1.nextQuadrant s.clock else s1).holdSteps

/-- QUADRANT_POWER_TIMEOUT (15 R461): the limit of the quadrant comes, and it has not counted as good. -/
def execQuadrantPowerTimeout (q : Fin 4) (s : State) : Out :=
  whenUp s (if s.powering q then (s.moveTo s.powerLimit).powerFails q else s)

/-! The scrub (R412). -/

/-- What a scrub finds in one store: a corrected word is rewritten and its unit tested; an uncorrectable one is logged and its unit
tested (R391, R392). -/
def State.scrubFinds (s : State) (d : Detect) : State :=
  match d with
  | .clean => s
  | .corrected w unit loc =>
    match s.testUnitOf w unit loc with
    | some u => if w = .memory then s else (s.logCorrected (testKind u) (testNumber u) loc.toNat).startTest u
    | none => s
  | .uncorrectable w unit loc =>
    match s.testUnitOf w unit loc with
    | some u => if w = .memory then s else (s.logUncorrectable (testKind u) (testNumber u) loc.toNat).startTest u
    | none => s

/-- SCRUB_ROW (R412). -/
def execScrubRow (found : List Detect) (s : State) : Out :=
  whenUp s <|
    if s.err.scrubEn then
      let s1 := (found.foldl State.scrubFinds s).mark [5, 6]
      { s1 with st := { s1.st with scrubRow := (s1.st.scrubRow + 1) % 8192 } }
    else s

/-- TABLE_PATROL (R405, R406). That a patrol and an interval boundary lift TCHALT and its hold, and not the write that ends a disagreement (R407), is
the model's choice. (log 83: DESIGN CHOICE.) -/
def execTablePatrol (s : State) : Out :=
  whenUp s <|
    let s1 := (s.moveTo (s.nextAt (2 ^ 20))).compareAll TabReg.all
    ({ s1 with pwr := { s1.pwr with tchalt := s1.throttleBad } } : State).holdSteps

/-! Glitches (11 R386, R387, R389; 10 R321, R322). -/

/-- The place of an input in the counts of the window. -/
def sideIndex : SideInput → Nat
  | .frontGo => 0
  | .tamper => 1
  | .lcState => 2
  | .coolClass => 3
  | .throttle => 4
  | .qpwrOk q => 5 + q.val

/-- A glitch is counted in its register. -/
def State.countGlitch (s : State) (i : SideInput) : State :=
  match i with
  | .frontGo => { s with front := { s.front with glitches := satAdd s.front.glitches 1 } }
  | .tamper => { s with sb := { s.sb with tglitch := satAdd s.sb.tglitch 1 } }
  | _ => { s with sb := { s.sb with mglitch := satAdd s.sb.mglitch 1 } }

/-- The input becomes noisy, with its log entry. -/
def State.becomeNoisy (s : State) (i : SideInput) : State :=
  match i with
  | .frontGo => ({ s with front := { s.front with noisy := true } } : State).logFront 2
  | .tamper => s.tamperNoisy
  | .lcState => ({ s with sb := { s.sb with lcnoisy := true } } : State).logSideband 2
  | .coolClass => ({ s with sb := { s.sb with ccnoisy := true } } : State).logSideband 4
  | .throttle => ({ s with sb := { s.sb with thnoisy := true } } : State).logSideband 5
  | .qpwrOk q =>
    let s1 := ({ s with sb := { s.sb with qpnoisy := s.sb.qpnoisy ||| BitVec.ofNat 4 (2 ^ q.val) } } : State).logSideband 6
    if s.pwr.qpwrEn.getLsbD q.val && s.qpwrGood q.val then s1.loseQuadrant q else s1

/-- SIDEBAND_GLITCH (11 R386). (log 61: DEDUCED.) -/
def execSidebandGlitch (i : SideInput) (s : State) : Out :=
  whenUp s <|
    let k := sideIndex i
    let n := (s.sb.win[k]?).getD 0 + 1
    let s1 := ({ s with sb := { s.sb with win := s.sb.win.setIfInBounds k n } } : State).countGlitch i
    if n = 17 then s1.becomeNoisy i else s1

/-- GLITCH_WINDOW_END (11 R386). (log 61: DEDUCED.) -/
def execGlitchWindowEnd (s : State) : Out :=
  whenUp s <|
    let s1 := s.moveTo (s.nextAt (2 ^ 16))
    { s1 with sb := { s1.sb with win := Vector.replicate 9 0 } }

end Sys2Proof.Machine
end

