-- ==== Sys2Proof/Machine/Context.lean ====
section
/-! DEFINITION. What the fields of CK_CTX_CTL do to a context (06 R178, R180, R200, R202; 14 R441, R447, R452, R494), and the modes of
Korni (10 R342, R345, R346; 15 R464). -/

namespace Sys2Proof.Machine

/-! Korni modes. -/

/-- The payload of a START record (10 R345): the cooling class is the effective one. -/
def State.startPayload (s : State) : List Byte :=
  quadBytes [s.regVal .ident, s.regVal .rev, s.regVal .bitClass, s.regVal .frontCfg, s.pwr.cls.setWidth 64]

/-- The START record is written. -/
def State.writeStart (s : State) : State :=
  let s1 := { s with korni := { s.korni with startOwed := false } }
  s1.korniPut 0x01 0 0 s1.startPayload

/-- A mode is entered: HEAD and TAIL are zero and the trace begins anew (10 R342, R344). Before READY the START record is owed (15 R464). Bytes
of the ring that are on their way to chip memory still get there. MODE 3, which is reserved, is held as written, and neither records nor
replays. (log 66: DESIGN CHOICE.) -/
def State.enterKorni (s : State) (mode : BitVec 2) : State :=
  let s1 := { s with korni := { s.korni with
      mode := mode, head := 0, tail := 0, ord := 0, dropped := 0, traceFull := none, startOwed := mode == 1
      chunk := Vector.replicate 4 [], chunkPos := Vector.replicate 4 0
      words := [], races := [], racesGot := [], trails := [], trailsGot := [] } }
  if mode = 1 ∧ s1.glob.bu = 5 then s1.writeStart else s1

/-- Space has returned: a LOSS record follows (10 R346). -/
def State.korniLoss (s : State) : State :=
  if s.recording && s.korni.dropped != 0 && s.korniRoom 16 false then
    let s1 := s.korniPut 0x08 0 s.korni.dropped.toNat []
    { s1 with korni := { s1.korni with dropped := 0 } }
  else s

/-! ENABLE. -/

/-- ENABLE is set (06 R178, R180; 16 R482). A START record that is owed is written at the first (15 R464). -/
def State.enableCtx (s : State) (c : CtxId) : State :=
  let s1 := if s.korni.startOwed && s.korni.mode == 1 then s.writeStart else s
  s1.upCtx c fun x => { x with en := true, valid := false, st := if x.st = .disabled then .idle else x.st }

/-- ENABLE is cleared (06 R178, 10 R326). -/
def State.disableCtx (s : State) (c : CtxId) : State :=
  let x := { s.ctx c with en := false }
  match x.st with
  | .run =>
    if x.window.isEmpty then (s.setCtx c { x.discard false with st := .disabled }).tidy c
    else (s.setCtx c { x with st := .draining, fetching := false }).withdrawFront c
  | .draining => (s.setCtx c x).withdrawFront c
  | .stopped => (s.setCtx c { x.discard true with st := .disabled, valid := false, doneBits := 0 }).tidy c
  | _ => s.setCtx c { x with st := .disabled }

/-! START, RESUME, ABORT. -/

/-- START and RESUME have no effect on a secure context while CLOSED is set (14 R452). -/
def State.shut (s : State) (c : CtxId) : Bool := (s.ctx c).secure && s.sec.closed

/-- START (06 R180). -/
def State.startCtx (s : State) (c : CtxId) : State :=
  let x := s.ctx c
  if x.prog && (x.st == .idle || x.st == .halted) && !s.shut c then
    s.setCtx c { x with st := .run, fetching := true, halting := false, brWait := none }
  else s

/-- An instruction that runs again, from unit `first` (06 R200). -/
def Entry.again (e : Entry) (first : Nat) : Entry :=
  { e with phase := .waiting, first := first, upTo := first, extra := [], failed := none, fault := none, wrote := false, started := false
           rcd := none, spanFails := [], spanPlanes := [], spanLost := [], laneFails := [], screenFail := 0, granted := false, rchk := 0 }

/-- What RESUME does with an instruction of the window (06 R200): the recorded one runs again from COUNT where it has a FIRST operand,
a later unfinished one from its own operands, a completed one not at all. -/
def Ctx.rerun (x : Ctx) (e : Entry) : Entry :=
  if e.phase = .completed then e
  else
    let hasFirst := match e.insn.op with | some o => o.hasFirst | none => false
    e.again (if e.seq = x.fseq ∧ hasFirst = true then x.count.toNat else e.insn.first)

/-- The recorded fault is that of a fetch, or of a refusal at acceptance (06 R186, R187). -/
def Ctx.fetchRecorded (x : Ctx) : Bool := x.fetchFault.isSome && x.window.all fun e => e.fault.isNone

/-- RESUME: after a recorded fetch fault the sequencer fetches again from CK_CTX_FPC (06 R187, R200; 16 R482). (log 50: DEDUCED.) -/
def State.resumeCtx (s : State) (c : CtxId) : State :=
  let x := s.ctx c
  if x.st = .stopped ∧ s.shut c = false then
    (s.setCtx c (({ x with
      valid := false, doneBits := 0, fetchFault := none, st := .run, fetching := x.prog && !x.halting
      pc := if x.prog && x.fetchRecorded then x.fpc else x.pc
      window := x.window.map x.rerun } : Ctx).settle)).tidy c
  else s

/-- ABORT (06 R202). -/
def State.abortCtx (s : State) (c : CtxId) : State :=
  let x := s.ctx c
  if x.st = .stopped then (s.setCtx c { x.discard true with st := .idle, valid := false, doneBits := 0 }).tidy c else s

/-! One write of CK_CTX_CTL. -/

/-- A write of CK_CTX_CTL: its value, and the bits of it that are written. -/
structure CtlWrite where
  value : Quad
  ones : Quad
  deriving DecidableEq, Repr

def CtlWrite.en (w : CtlWrite) : Bool := w.value.bit 0
def CtlWrite.prog (w : CtlWrite) : Bool := w.value.bit 1
def CtlWrite.start (w : CtlWrite) : Bool := w.ones.bit 2
def CtlWrite.resume (w : CtlWrite) : Bool := w.ones.bit 3
def CtlWrite.abort (w : CtlWrite) : Bool := w.ones.bit 4
def CtlWrite.qos (w : CtlWrite) : BitVec 4 := BitVec.ofNat 4 (w.value.bits 11 8)
def CtlWrite.secure (w : CtlWrite) : Bool := w.value.bit 12
def CtlWrite.domain (w : CtlWrite) : BitVec 8 := BitVec.ofNat 8 (w.value.bits 23 16)

/-- SECURE may be set (14 R447). -/
def State.maySecure (s : State) : Bool :=
  s.sec.locked && s.sec.lc != 3 && !s.sec.closed && !(s.sec.lc == 2 && s.korni.mode != 0)

/-- The write changes a field that only the context's own domain or its manager may write (14 R444, R494). -/
def Ctx.changesOwn (x : Ctx) (w : CtlWrite) : Bool :=
  w.en != x.en || (w.prog != x.prog && x.st == .disabled) || w.start || w.resume || w.abort || w.qos != x.qos

/-- Every field the write changes may be written from domain `d`; none stands for a recorded write, which passed when it was recorded
(14 R441, R444, R447, R494; 15 R464). -/
def State.ctlAllowed (s : State) (c : CtxId) (d : Option (BitVec 8)) (w : CtlWrite) : Bool :=
  let x := s.ctx c
  let from_ (f : BitVec 8 → Bool) : Bool := match d with | some v => f v | none => true
  (!x.changesOwn w || from_ (s.ctxDomain c)) &&
  (w.domain == x.domain || (from_ s.fromSuper && x.st == .disabled)) &&
  (w.secure == x.secure || (from_ (· == s.sec.secdom) && x.st == .disabled && (!w.secure || s.maySecure))) &&
  (!w.en || x.en || s.glob.bu == 5)

/-- The fields take effect in the order of 06 R180. (log 50: DEDUCED.) -/
def State.writeCtl (s : State) (c : CtxId) (w : CtlWrite) : State :=
  let s1 := s.upCtx c fun x =>
    let y := if w.domain = x.domain ∧ w.secure = x.secure then x else { x.clearDomain with domain := w.domain, secure := w.secure }
    { y with qos := w.qos, prog := if y.st = .disabled then w.prog else y.prog }
  let s2 := if w.en = (s1.ctx c).en then s1 else if w.en then s1.enableCtx c else s1.disableCtx c
  let s3 := if w.start then s2.startCtx c else s2
  let s4 := if w.resume then s3.resumeCtx c else s3
  if w.abort then s4.abortCtx c else s4

end Sys2Proof.Machine
end

