-- ==== Sys2Proof/Machine/Regs.lean ====
section
/-! DEFINITION. Writes of the control window (00 R10 to R13; 16 R475 to R493): who may write each register (14 R444), what a write does,
when it is refused, and its Korni record (10 R345 to R347). -/

namespace Sys2Proof.Machine

/-- What a register write comes to: carried out, refused with an error response, or carried out once its clears have finished (14 R443). -/
inductive Wrote where
  | ok (s : State)
  | refused
  | held (k : LeaseKind) (c : CtxId) (p : Part) (v : Quad)

/-- A write: the domain it comes from (none for a record of a trace, which passed when it was recorded), the half or whole it
covers, the value in the register's own bit places, and whether FRONT_GO is deasserted (10 R323). -/
structure Access where
  dom : Option (BitVec 8)
  part : Part
  value : Quad
  goLow : Bool
  deriving DecidableEq, Repr

/-- The access comes from a domain that a condition admits. -/
def Access.from (a : Access) (f : BitVec 8 → Bool) : Bool := match a.dom with | some d => f d | none => true

/-- The register's value with the written bits. -/
def Access.merge (a : Access) (old : Quad) : Quad := (old &&& ~~~(partMask a.part)) ||| (a.value &&& partMask a.part)

/-- The written bits alone. -/
def Access.ones (a : Access) : Quad := a.value &&& partMask a.part

/-- Carried out under a condition, and refused otherwise. -/
def allow (c : Bool) (s : State) : Wrote := if c then .ok s else .refused

/-- Every context is DISABLED. -/
def State.allDisabled (s : State) : Bool := s.ctxs.all fun x => x.st == .disabled

/-- R367, R184: the supervisor domain. -/
def State.bySuper (s : State) (a : Access) : Bool := a.from s.fromSuper

/-- The numbers of a field of a value. -/
def field (w : Nat) (q : Quad) (lo : Nat) : BitVec w := (q >>> lo).setWidth w

/-! Identity, global, telemetry and debug. -/

/-- GO in HOLD begins TEST: the first quadrant's switch is closed (15 R460, R461). -/
def State.beginTest (s : State) : State :=
  if s.glob.bu = 2 then { s with glob := { s.glob with bu := 3, quads := 0 }, pwr := { s.pwr with qpwrEn := 1, qpwrAt := s.clock } } else s

/-- CK_GCTL (15 R468). (log 51: DEDUCED.) -/
def State.writeGctl (s : State) (a : Access) : Wrote :=
  if !s.bySuper a then .refused
  else if !coversLow a.part then .ok s
  else if s.allDisabled then
    let s1 := { s with glob := { s.glob with super := field 3 a.value 0 } }
    .ok (if a.ones.bit 4 then s1.beginTest else s1)
  else .refused

/-- The counters as they stand are what a read returns from now on (15 R469, R470). -/
def State.freezeTel (s : State) : State :=
  let s1 := s.telRefresh
  { s1 with tel := { s1.tel with
      freeze := true
      frozen := Vector.ofFn fun i => if i.val = 15 then BitVec.ofNat 64 s1.clock else (s1.tel.counts[i.val]?).getD 0 } }

/-- CLEAR (15 R469). -/
def State.clearTel (s : State) : State :=
  { s with tel := { s.tel with
      counts := Vector.replicate 15 0, frozen := Vector.ofFn fun i => if i.val = 15 then s.tel.frozen[i] else 0, due := s.timesNow } }

/-- CK_TEL_CTL. -/
def State.writeTelCtl (s : State) (a : Access) : State :=
  if coversLow a.part then
    let s1 := if a.value.bit 0 then (if s.tel.freeze then s else s.freezeTel) else { s with tel := { s.tel with freeze := false } }
    if a.value.bit 1 then s1.clearTel else s1
  else s

/-- CK_DBG_CTL (15 R471, R472): a STEP bit gives a context under debug halt one credit, but none to a secure context in PRODUCTION; a context
that leaves debug halt has none. (log 54: DEDUCED.) -/
def State.writeDbgCtl (s : State) (a : Access) : State :=
  if coversLow a.part then
    let halt := field 8 a.value 0
    let s1 := { s with dbg := { s.dbg with
        halt := halt, traceEn := a.value.bit 16, traceInstr := a.value.bit 17, traceCtx := field 8 a.value 24 } }
    { s1 with ctxs := Vector.ofFn fun i =>
        let x := s1.ctxs[i]
        if halt.getLsbD i.val && !s.traceMask i then
          (if a.value.bit (8 + i.val) then { x with credits := x.credits + 1 } else x)
        else { x with credits := 0 } }
  else s

/-! Felt and boundary. -/

/-- R352: REMAP may change now. -/
def State.mayRemap (s : State) : Bool :=
  s.ctxs.all fun x => !x.prog || x.st == .disabled || x.st == .idle || x.st == .stopped || x.st == .halted

/-- CK_FELT_CTL (11 R352, R364). -/
def State.writeFeltCtl (s : State) (a : Access) : Wrote :=
  let v := a.merge (s.regVal .feltCtl)
  allow (v.bit 0 == s.felt.remap || s.mayRemap)
    { s with felt := { s.felt with
        remap := v.bit 0, dmz := v.bit 1, starve := field 8 v 8, eddyQos := field 4 v 16, intQos := field 4 v 20 } }

/-- CK_FELT_PARKn (11 R365). -/
def State.writePark (s : State) (n : Fin 6) (a : Access) : State :=
  let v := a.merge s.felt.park[n]
  { s with felt := { s.felt with park := s.felt.park.set n (if n.val = 5 then v &&& 0x0000FFFFFFFFFFFF else v) } }

/-- A failed port returns to service: the refused beat on either side is discarded (11 R371). -/
def Port.returned (p : Port) : Port := { p with fail := false, nak := none, inRef := 0, outRef := 0, last := [], resend := false }

/-- What a write of CK_PORT_STAT does to port `i`: stream ports are bits 0 to 7 of a field, race ports bits 8 to 11 (11 R366, R371). -/
def Port.written (p : Port) (i : Nat) (ones : Quad) : Port :=
  let q := if ones.bit i then { p with stall := false } else p
  if ones.bit (i + 16) && q.fail then q.returned else q

/-- CK_PORT_STAT. -/
def State.writePortStat (s : State) (a : Access) : State :=
  let s1 := { s with ports := Vector.ofFn fun i => s.ports[i].written i.val a.ones }
  if a.ones.bit 48 then { s1 with felt := { s1.felt with issPar := false } } else s1

/-- The quadrant being powered up counts as good again where its input was noisy: power-up goes on, or, where the limit has passed, those are
lost whose time is over (15 R461; 11 R387). (log 58: DEDUCED.) -/
def State.powerOn (s t : State) : State :=
  if (List.finRange 4).any fun q => s.powering q && s.sb.qpnoisy.getLsbD q.val && t.qpwrGood q.val then
    (if s.powerLimit < s.clock then State.powerLate 4 t else t.nextQuadrant t.clock).holdSteps
  else t

/-- CK_SB_STAT (11 R387, R389): TNOISY clears while TAMPER reads 0, QPNOISY for the inputs that read good. -/
def State.writeSbStat (s : State) (a : Access) : State :=
  let b := s.sb
  (s.powerOn { s with sb := { b with
      tnoisy := b.tnoisy && !(a.ones.bit 1 && !b.tamper)
      lcnoisy := b.lcnoisy && !a.ones.bit 2
      lcbad := b.lcbad && !a.ones.bit 3
      ccnoisy := b.ccnoisy && !a.ones.bit 4
      thnoisy := b.thnoisy && !a.ones.bit 5
      qpnoisy := if a.ones.bit 6 then b.qpnoisy &&& ~~~s.pwr.qpwrOk else b.qpnoisy } }).reopen

/-! Contexts. -/

/-- CK_CTX_PC and CK_CTX_LCNTn take writes in these states (06 R181). -/
def Ctx.settled (x : Ctx) : Bool := x.st == .disabled || x.st == .idle || x.st == .stopped || x.st == .halted

/-- A lease register (06 R184, 14 R443). -/
def State.writeLease (s : State) (c : CtxId) (k : LeaseKind) (a : Access) : Wrote :=
  let v := a.merge ((s.ctx c).leaseReg k)
  if !s.bySuper a || (s.ctx c).st != .disabled || s.grantRefused c k v then .refused
  else if (s.grantClears c k v).isEmpty then .ok (s.grant c k v)
  else .held k c a.part a.value

/-- A register of a context, written from a domain that may (06 R172, R181; 14 R444). -/
def State.writeCtxReg (s : State) (c : CtxId) (r : CtxReg) (a : Access) : State :=
  s.upCtx c fun x =>
    let v := a.merge (x.regVal r)
    match r with
    | .pc => if x.settled then { x with pc := v.setWidth 48, brWait := none } else x
    | .seed n => { x with seeds := x.seeds.set n v }
    | .step n =>
      { x with steps := x.steps.set n (v.setWidth 32)
               autos := if v.bit 32 then x.autos ||| BitVec.ofNat 8 (2 ^ n.val) else x.autos &&& ~~~(BitVec.ofNat 8 (2 ^ n.val)) }
    | .lcnt n => if x.settled then { x with lcnt := x.lcnt.set n (v.setWidth 32) } else x
    | _ => x

/-- Any register of a context. -/
def State.writeCtx (s : State) (c : CtxId) (r : CtxReg) (a : Access) : Wrote :=
  match r with
  | .ctl =>
    let w : CtlWrite := ⟨a.merge ((s.ctx c).regVal .ctl), a.ones⟩
    allow (s.ctlAllowed c a.dom w) (s.writeCtl c w)
  | .lease k => s.writeLease c k a
  | _ => allow (a.from (s.ctxDomain c)) (s.writeCtxReg c r a)

/-- CK_GENc (07 R224). -/
def State.writeGen (s : State) (c : CtxId) (a : Access) : State :=
  s.upCtx c fun x =>
    if x.st = .disabled ∨ x.st = .stopped then { x with gen := (a.merge (x.gen.setWidth 64)).setWidth 32 } else x

/-- CK_PATn_Qq (16 R493). -/
def Ctx.writePat (x : Ctx) (n q : Nat) (a : Access) : Ctx :=
  let kind := patKind (x.patQuad n 0)
  let m := fieldMask (patFields kind q) &&& partMask a.part
  let v := (x.patQuad n q &&& ~~~m) ||| (a.value &&& m)
  if q = 0 ∧ patKind v ≠ kind then x.setPat n ((v &&& fieldMask (patFields kind 0)) :: List.replicate 31 0)
  else { x with pats := spSet 0 x.pats (n * 32 + q) v }

/-! Triplicated tables (02 R50; 09 R298; 12 R407; 13 R431). -/

/-- The staged half of a register. -/
def State.stagedLow (s : State) (t : TabReg) : Option (BitVec 32) :=
  (s.tab.staged.find? fun p => p.1 == t.offset).map Prod.snd

/-- Nothing is staged for a register. -/
def State.unstage (s : State) (t : TabReg) : State :=
  { s with tab := { s.tab with staged := s.tab.staged.filter fun p => p.1 != t.offset } }

/-- The value a write gives a register, when it takes effect at once. -/
def State.takes (s : State) (t : TabReg) (a : Access) : Quad :=
  match a.part with
  | .whole => a.value
  | _ =>
    let low := (s.stagedLow t).getD ((s.tabVal t).setWidth 32)
    (a.value &&& 0xFFFFFFFF00000000) ||| low.setWidth 64

/-- A write under the staging rule: bits 31:0 alone wait for bits 63:32. -/
def State.writeStaged (s : State) (t : TabReg) (a : Access) (fix : Quad → Quad) : State :=
  match a.part with
  | .low =>
    let s1 := s.unstage t
    { s1 with tab := { s1.tab with staged := s1.tab.staged ++ [(t.offset, a.value.setWidth 32)] } }
  | _ => (s.putTab t (fix (s.takes t a))).unstage t

/-- R444: who may write format entries and scale curves. -/
def State.tableDomain (s : State) (d : BitVec 8) : Bool :=
  s.fromSuper d || (List.finRange 8).any fun c => s.sec.twmask.getLsbD c.val && (s.ctx c).domain == d

/-- The fields of CK_FMTn_LO (02 R48): every other bit is reserved. -/
def fmtMask : Quad := fieldMask [(3, 0), (13, 8), (19, 16), (28, 24), (47, 32), (51, 48), (63, 56)]

/-- A write carries a reserved value in KIND or NAN_MODE (02 R50). -/
def Access.reservedFmt (a : Access) : Bool :=
  (coversLow a.part && decide (7 ≤ a.value.bits 3 0)) || (coversHigh a.part && a.value.bits 50 49 == 3)

/-- CK_FMTn_LO of a programmable entry (02 R50). (log 49: DEDUCED.) -/
def State.writeFmt (s : State) (t : TabReg) (a : Access) : Wrote :=
  allow (a.from s.tableDomain && !a.reservedFmt) (s.writeStaged t a (· &&& fmtMask))

/-- The writable bits of a curve register (09 R296, R297; 13 R428 to R430). -/
def curveMask (t : TabReg) : Quad :=
  match t with
  | .scurve n => if n.val % 2 = 0 then 0xFFFFFFFFFFFFFFFF else 0xFF
  | .tcls _ => 0x0000001FFFFFFFFF
  | .tcrit => 0xFF
  | _ => 0x1F1F1F1F1F1F1F1F

/-- A scale curve register (09 R298). -/
def State.writeScurve (s : State) (t : TabReg) (a : Access) : Wrote :=
  allow (a.from s.tableDomain) (s.writeStaged t a (· &&& curveMask t))

/-- The bits a write sets: with bits 63:32, the staged half that takes effect with them. -/
def State.setsMask (s : State) (t : TabReg) (p : Part) : Quad :=
  if p = .high ∧ (s.stagedLow t).isSome = true then 0xFFFFFFFFFFFFFFFF else partMask p

/-- The TLIMIT of a record (13 R428) lies below a TCRIT value. -/
def tlimitBelow (rec_ : Quad) (tcrit : Nat) : Bool := decide (tlimitOf rec_ < degrees (BitVec.ofNat 8 tcrit))

/-- R431: the write is refused. -/
def State.throttleRefused (s : State) (t : TabReg) (a : Access) : Bool :=
  let m := s.setsMask t a.part
  let v := if a.part = .low then a.value else s.takes t a
  (v &&& m &&& ~~~(curveMask t)) != 0 ||
  (match t with
   | .tcls _ =>
     (m.bit 0 && (thystOf v == 0 || lowfracOf v == 0 || !tlimitBelow v ((s.tabVal .tcrit).bits 7 0))) || (m.bit 32 && upmaxOf v == 0)
   | .tcrit => m.bit 0 && !(List.finRange 3).all fun k => tlimitBelow (s.tabVal (.tcls k)) (v.bits 7 0)
   | _ => false)

/-- The boot value of a class's ENVELOPE (13 R428). -/
def bootEnvelope (k : Fin 3) : Nat := if k = 0 then 0x2800 else if k = 1 then 0x4D80 else 0x4880

/-- An ENVELOPE above the boot value stores the boot value (13 R431). -/
def clampEnvelope (t : TabReg) (q : Quad) : Quad :=
  match t with
  | .tcls k => if bootEnvelope k < q.bits 15 0 then setField q 0 16 (bootEnvelope k) else q
  | _ => q

/-- A throttle curve table register (13 R431). -/
def State.writeThrottle (s : State) (t : TabReg) (a : Access) : Wrote :=
  allow (s.bySuper a && !s.throttleRefused t a) (s.writeStaged t a (clampEnvelope t))

/-- A curve register. -/
def State.writeCurve (s : State) (t : TabReg) (a : Access) : Wrote :=
  match t with
  | .scurve _ => s.writeScurve t a
  | _ => s.writeThrottle t a

/-! Fronts and Korni. -/

/-- The context is DISABLED or STOPPED (10 R313). -/
def State.quiet (s : State) (c : CtxId) : Bool := (s.ctx c).st == .disabled || (s.ctx c).st == .stopped

/-- The owner context. -/
def State.owner (s : State) : CtxId := ctxOf s.front.owner.toNat

/-- CK_FRONT_CFG (10 R311, R313). -/
def State.writeFrontCfg (s : State) (a : Access) : Wrote :=
  let v := a.merge (s.regVal .frontCfg)
  allow (s.bySuper a && s.quiet s.owner && s.quiet (ctxOf (v.bits 3 1)))
    { s with front := { s.front with
        enable := v.bit 0, owner := field 3 v 1, recEn := v.bit 4, chipsM1 := field 12 v 8, limit := field 5 v 24 } }

/-- CK_FRONT_RECA (10 R312, R313). -/
def State.writeReca (s : State) (a : Access) : Wrote :=
  let v := a.merge (s.regVal .frontReca)
  allow (s.bySuper a && s.quiet s.owner && v.bits 5 0 == 0) { s with front := { s.front with reca := v.setWidth 48 } }

/-- CK_FRONT_FORCE (10 R312, R313). -/
def State.writeForce (s : State) (a : Access) : Wrote :=
  let v := a.merge (s.regVal .frontForce)
  allow (s.bySuper a && s.quiet s.owner) { s with front := { s.front with word := field 16 v 0, arm := v.bit 16 } }

/-- CK_FRONT_NUM (10 R312, R313). -/
def State.writeNum (s : State) (a : Access) : Wrote :=
  let v := a.merge (s.regVal .frontNum)
  allow (s.bySuper a && s.quiet s.owner) { s with front := { s.front with num := v.setWidth 32 } }

/-- CK_FRONT_STAT (10 R321, R323): HELD clears only while FRONT_GO is deasserted. -/
def State.writeFrontStat (s : State) (a : Access) : State :=
  let f := s.front
  { s with front := { f with
      stray := f.stray && !a.ones.bit 1, noisy := f.noisy && !a.ones.bit 2, held := f.held && !(a.ones.bit 3 && a.goLow)
      parity := f.parity && !a.ones.bit 4, recErr := f.recErr && !a.ones.bit 5 } }

/-- CK_KORNI_CTL (10 R342; 14 R447). MODE takes every value that is written, the reserved 3 too (00 R11). (log 66: DESIGN CHOICE.) -/
def State.writeKorniCtl (s : State) (a : Access) : Wrote :=
  let v := a.merge (s.regVal .korniCtl)
  let mode := field 2 v 0
  let size := field 6 v 8
  let barred := s.sec.lc == 2 && mode != 0 && s.ctxs.any fun x => x.secure
  let s1 := { s with korni := { s.korni with raceFull := v.bit 2, trail := v.bit 3, log2size := size } }
  allow (s.bySuper a && s.allDisabled && decide (16 ≤ size.toNat ∧ size.toNat ≤ 36) && !barred)
    (if mode = s.korni.mode then s1 else s1.enterKorni mode)

/-- CK_KORNI_BASE (10 R342). -/
def State.writeKorniBase (s : State) (a : Access) : Wrote :=
  allow (s.bySuper a && s.allDisabled)
    { s with korni := { s.korni with base := (a.merge (s.regVal .korniBase)).setWidth 48 } }

/-- CK_KORNI_HEAD: RW in replay mode (10 R342, R343). -/
def State.writeKorniHead (s : State) (a : Access) : State :=
  if s.korni.mode = 2 then { s with korni := { s.korni with head := a.merge s.korni.head } } else s

/-- CK_KORNI_TAIL: RW in record mode (10 R342, R343); space may return. -/
def State.writeKorniTail (s : State) (a : Access) : State :=
  if s.korni.mode = 1 then ({ s with korni := { s.korni with tail := a.merge s.korni.tail } } : State).korniLoss else s

/-- CK_KORNI_STAT (10 R342). -/
def State.writeKorniStat (s : State) (a : Access) : State :=
  { s with korni := { s.korni with lost := s.korni.lost && !a.ones.bit 0, diverged := s.korni.diverged && !a.ones.bit 1 } }

/-! Power, errors, self-test. -/

/-- CK_PWR_CTL (13 R433). -/
def State.writePwrCtl (s : State) (a : Access) : State :=
  let v := a.merge (s.regVal .pwrCtl)
  let s1 := s.setPowerCtl (v.bit 0) (field 5 v 8)
  if a.ones.bit 1 then s1.ackClass else s1

/-- CK_PWR_STAT (13 R434). -/
def State.writePwrStat (s : State) (a : Access) : State :=
  let p := s.pwr
  { s with pwr := { p with overLim := p.overLim && !a.ones.bit 14, hot := p.hot && !a.ones.bit 15, crit := p.crit && !a.ones.bit 16 } }

/-- CK_ERR_CTL (12 R412). -/
def State.writeErrCtl (s : State) (a : Access) : State :=
  let v := a.merge (s.regVal .errCtl)
  { s with err := { s.err with
      scrubEn := v.bit 0, scrubRate := field 4 v 4, thrashN := field 8 v 8, thrashW := field 5 v 16, evtEn := v.bit 24 } }

/-- CK_ERR_TAIL (12 R412): a write above HEAD or below HEAD − 64 is ignored. -/
def State.writeErrTail (s : State) (a : Access) : State :=
  let v := a.merge s.err.tail
  if v.toNat ≤ s.err.head.toNat ∧ s.err.head.toNat ≤ v.toNat + 64 then { s with err := { s.err with tail := v } } else s

/-- The unit that KIND and UNIT of CK_ST_CTL name (12 R412). -/
def unitOf (kind unit : Nat) : Option TestUnit :=
  if kind = 0 ∧ unit < 68 then some (.engine (Fin.ofNat 68 unit))
  else if kind = 1 ∧ unit < 5 then some (.plane (Fin.ofNat 5 unit))
  else if kind = 2 then some (.macroOf (Fin.ofNat 16 (unit / 16)) (Fin.ofNat 16 unit))
  else if kind = 3 then some .screen
  else if kind = 4 ∧ unit < 16 then some (.cacheSlice (Fin.ofNat 16 unit))
  else none

/-- START of CK_ST_CTL begins a self-test (12 R412). That FAIL keeps the outcome of the test before it until this one ends is the model's choice.
(log 82: DESIGN CHOICE.) -/
def State.startSelfTest (s : State) (u : TestUnit) : State :=
  let s1 := s.startTest u
  { s1 with st := { s1.st with busy := true, started := some u } }

/-- CK_ST_CTL (12 R412). -/
def State.writeStCtl (s : State) (a : Access) : State :=
  let v := a.merge (s.regVal .stCtl)
  let s1 := { s with st := { s.st with kind := field 4 v 0, unit := field 8 v 8 } }
  if a.ones.bit 16 then
    match unitOf (v.bits 3 0) (v.bits 15 8) with
    | some u => s1.startSelfTest u
    | none => s1
  else s1

/-! The spare map (12 R409 to R411; 15 R460). -/

/-- A value of CK_SPARE_ENG sets SSTATE of some quadrant to 2. -/
def setsTesting (v old : Quad) (p : Part) : Bool :=
  (List.range 4).any fun q => (partMask p).bit (16 * q) && v.bits (16 * q + 1) (16 * q) == 2 && old.bits (16 * q + 1) (16 * q) != 2

/-- In HOLD, a value of CK_SPARE_ENG undoes a fused retirement (15 R460). (log 52: DEDUCED.) -/
def State.undoesSpare (s : State) (v : Quad) : Bool :=
  s.glob.bu == 2 && (List.range 4).any fun q =>
    let fused := s.fuses.spareEng.bits (16 * q + 5) (16 * q)
    fused % 4 == 1 && v.bits (16 * q + 5) (16 * q) != fused && v.bits (16 * q + 1) (16 * q) != 3

/-- In HOLD, a value of CK_SPARE_RET or CK_SPARE_PLANE undoes a fused retirement. (log 52: DEDUCED.) -/
def State.undoesRet (s : State) (v : Quad) : Bool := s.glob.bu == 2 && (s.fuses.retired &&& ~~~v) != 0
def State.undoesPlane (s : State) (v : Quad) : Bool :=
  s.glob.bu == 2 && (List.range 5).any fun p => s.fuses.sparePlane.bits (2 * p + 1) (2 * p) == 3 && v.bits (2 * p + 1) (2 * p) != 3

/-- A write sets STATEp of some plane to 2. -/
def setsPlaneTesting (v : Quad) (p : Part) : Bool := coversLow p && (List.range 5).any fun k => v.bits (2 * k + 1) (2 * k) == 2

/-- Some engine is hosted. -/
def State.anyHosted (s : State) : Bool := s.tabVal .hosted != 0

/-- A value of CK_COLMAPm names a redundant element that a fuse or another entry uses (R411); one with VALID 0 names none. (log 70: DESIGN
CHOICE.) -/
def State.elementTaken (s : State) (m : Nat) (v : Quad) : Bool :=
  let lane := v.bit 1
  let e := v.bits 18 15
  v.bit 0 && (s.fuseUses (m / 8) lane e || (List.range 8).any fun i => 8 * (m / 8) + i != m && s.entryUses (8 * (m / 8) + i) lane e)

/-- The writable bits of CK_SPARE_ENG. -/
def spareEngMask : Quad := 0x003F003F003F003F

/-- A spare map register. That the tiles of hosted engines follow a REGION of CK_HOST which moves to another multiple of 4 is the model's choice.
(log 51: DEDUCED.) (log 81: DESIGN CHOICE.) -/
def State.writeSpare (s : State) (t : TabReg) (a : Access) : Wrote :=
  let old := s.tabVal t
  let v := a.merge old
  if !s.bySuper a || !s.allDisabled then .refused
  else
    match t with
    | .spareEng => allow (!setsTesting a.value 0 a.part && !s.undoesSpare v) (s.putTab t ((old &&& ~~~spareEngMask) ||| (v &&& spareEngMask))).repairDue
    | .spareRet => allow (!s.undoesRet v) (s.putTab t v).repairDue
    | .sparePlane => allow (!setsPlaneTesting a.value a.part && !s.undoesPlane v) (s.putTab t (v &&& 0x3FF))
    | .host =>
      allow (!(s.anyHosted && (v.bit 0 != s.hostEn || v.bits 14 8 % 4 != 0))) (s.putTab t (v &&& 0x7F01)).repairDue
    | .colmap m => allow (!s.elementTaken m.val v) ((s.putTab t (v &&& 0x7FFFF)).recountFree (m.val / 8))
    | _ => .ok s

/-! Security (14 R449, R450). -/

/-- R449: the write is refused. -/
def State.secRefused (s : State) (a : Access) (v : Quad) : Bool :=
  let size := v.bits 5 0
  let changes := size != s.secureSize || v.bits 23 16 != s.sec.twmask.toNat
  decide (32 < size) || (s.sec.lc == 3 && size != 0) ||
  (if s.sec.locked then
     v.bits 15 8 != s.sec.secdom.toNat ||
     (if changes then !(a.from (· == s.sec.secdom) && s.allDisabled) else !(a.from fun d => s.fromSuper d || d == s.sec.secdom))
   else !s.bySuper a)

/-- CK_SEC_CTL: a change of SSIZE wipes the regions that enter or leave the secure region. -/
def State.writeSecCtl (s : State) (a : Access) : Wrote :=
  let v := a.merge (s.regVal .secCtl)
  let old := s.secureSize
  let size := v.bits 5 0
  let s1 := { s with sec := { s.sec with
      ssize := if s.sec.lc = 3 then s.sec.ssize else BitVec.ofNat 6 size
      secdom := field 8 v 8, twmask := field 8 v 16, locked := s.sec.locked || a.ones.bit 24 } }
  allow (!s.secRefused a v) (if size = old then s1 else s1.startWipe 3 (min old size) (max old size))

/-- CK_SEC_STAT. -/
def State.writeSecStat (s : State) (a : Access) : Wrote :=
  allow (a.from fun d => s.fromSuper d || d == s.sec.secdom) { s with sec := { s.sec with wiped := s.sec.wiped && !a.ones.bit 4 } }

/-! Every register. -/

/-- A write under the domain rule of R184 and R367, without a further condition. -/
def State.superWrite (s : State) (a : Access) (t : State) : Wrote := allow (s.bySuper a) t

/-- What a write does to the register `r` (16 R475 to R493). -/
def State.writeReg (s : State) (r : Reg) (a : Access) : Wrote :=
  match r with
  | .none => .ok s
  | .ident => .ok s
  | .rev => .ok s
  | .bitClass => .ok s
  | .dieId => .ok s
  | .gstat => .ok s
  | .tel _ => .ok s
  | .gctl => s.writeGctl a
  | .telCtl => s.superWrite a (s.writeTelCtl a)
  | .dbgCtl => s.superWrite a (s.writeDbgCtl a)
  | .dbgStat => s.superWrite a s
  | .feltCtl => if s.bySuper a then s.writeFeltCtl a else .refused
  | .park n => s.superWrite a (s.writePark n a)
  | .slice => s.superWrite a s
  | .miss => s.superWrite a (if a.ones.bit 63 then { s with felt := { s.felt with missValid := false } } else s)
  | .portStat => s.superWrite a (s.writePortStat a)
  | .sbStat => s.superWrite a (s.writeSbStat a)
  | .ctx c r => s.writeCtx c r a
  | .fmtLo n => if n.val < 16 then .ok s else s.writeFmt (.fmt (Fin.ofNat 16 (n.val - 16))) a
  | .fmtHi n => if n.val < 16 then .ok s else allow (a.from s.tableDomain) s
  | .curve t => s.writeCurve t a
  | .frontCfg => s.writeFrontCfg a
  | .frontDly => s.superWrite a { s with front := { s.front with delay := field 12 (a.merge (s.regVal .frontDly)) 0 } }
  | .frontCal => s.superWrite a (if a.ones.bit 0 then s.startCal else s)
  | .frontStat => s.superWrite a (s.writeFrontStat a)
  | .frontReca => s.writeReca a
  | .frontForce => s.writeForce a
  | .frontNum => s.writeNum a
  | .korniCtl => s.writeKorniCtl a
  | .korniBase => s.writeKorniBase a
  | .korniHead => s.superWrite a (s.writeKorniHead a)
  | .korniTail => s.superWrite a (s.writeKorniTail a)
  | .korniStat => s.superWrite a (s.writeKorniStat a)
  | .fstat c => allow (a.from (s.ctxDomain c)) s
  | .gen c => allow (a.from (s.ctxDomain c)) (s.writeGen c a)
  | .digP c => allow (a.from (s.ctxDomain c)) s
  | .digW c => allow (a.from (s.ctxDomain c)) s
  | .digI c => allow (a.from (s.ctxDomain c)) s
  | .digN c => allow (a.from (s.ctxDomain c)) s
  | .pwrCtl => s.superWrite a (s.writePwrCtl a)
  | .pwrStat => s.superWrite a (s.writePwrStat a)
  | .pwrBlk => s.superWrite a s
  | .pwrEnergy => s.superWrite a s
  | .isl _ => s.superWrite a s
  | .errCtl => s.superWrite a (s.writeErrCtl a)
  | .errHead => s.superWrite a s
  | .errTail => s.superWrite a (s.writeErrTail a)
  | .errCnt => s.superWrite a s
  | .errLo _ => s.superWrite a s
  | .errHi _ => s.superWrite a s
  | .spare t => s.writeSpare t a
  | .stCtl => s.superWrite a (s.writeStCtl a)
  | .stStat => s.superWrite a s
  | .secCtl => s.writeSecCtl a
  | .secStat => s.writeSecStat a
  | .pat c n q => allow (a.from (s.ctxDomain c)) (s.upCtx c fun x => x.writePat n.val q.val a)

/-- Registers that take no write in a phase of bring-up (16 R481). -/
def State.phaseBars (s : State) (r : Reg) : Bool :=
  s.glob.bu == 0 || s.glob.bu == 1 ||
  ((s.glob.bu == 3 || s.glob.bu == 4) && (match r with | .gctl => true | .spare _ => true | _ => false))

/-- A register of the Korni block. -/
def isKorni (r : Reg) : Bool :=
  match r with
  | .korniCtl => true
  | .korniBase => true
  | .korniHead => true
  | .korniTail => true
  | .korniStat => true
  | _ => false

/-- A register of the error log. -/
def isError (r : Reg) : Bool :=
  match r with
  | .errCtl => true
  | .errHead => true
  | .errTail => true
  | .errCnt => true
  | .errLo _ => true
  | .errHi _ => true
  | _ => false

/-- Replay mode takes this live write (10 R347). -/
def State.replayTakes (s : State) (r : Reg) (d : BitVec 8) : Bool :=
  s.korni.mode != 2 || (s.fromSuper d && (isKorni r || isError r || (match r with | .ctx _ .ctl => true | _ => false)))

/-- What every register write meets first bars it (00 R10; 16 R481; 10 R347). -/
def State.barsWrite (s : State) (off : Nat) (a : Access) : Bool :=
  off % 8 != 0 || s.phaseBars (regAt off) || !(match a.dom with | some d => s.replayTakes (regAt off) d | none => true)

/-- The register's own standing half is read by a write of bits 63:32 alone, unless a half is staged; one of the spare map by a write of
either half. -/
def State.standing (s : State) (t : TabReg) (a : Access) : List TabReg :=
  if a.part = .whole ∨ (t.table ≠ 3 ∧ (a.part = .low ∨ (s.stagedLow t).isSome = true)) then [] else [t]

/-- The write comes from a domain, and at a time, that the register of a table admits (14 R444; log 51). -/
def State.tableOpen (s : State) (r : Reg) (a : Access) : Bool :=
  match r with
  | .fmtLo _ => a.from s.tableDomain
  | .curve (.scurve _) => a.from s.tableDomain
  | .curve _ => s.bySuper a
  | _ => s.bySuper a && s.allDisabled

/-- The registers of the triplicated tables that a write reads, its own among them: those that the tests of 13 R431 and 12 R410 and R411 name
(12 R405). (log 44: DEDUCED.) -/
def State.writeReads (s : State) (off : Nat) (a : Access) : List TabReg :=
  if s.barsWrite off a || !s.tableOpen (regAt off) a then []
  else
    match regAt off with
    | .fmtLo n => if n.val < 16 then [] else s.standing (.fmt (Fin.ofNat 16 (n.val - 16))) a
    | .curve (.tcls n) => .tcrit :: s.standing (.tcls n) a
    | .curve .tcrit => (List.finRange 3).map .tcls ++ s.standing .tcrit a
    | .curve t => s.standing t a
    | .spare .host => [.host, .hosted]
    | .spare (.colmap m) => .colfree (Fin.ofNat 2 (m.val / 64)) :: segmentRegs (m.val / 8)
    | .spare t => if t = .hosted ∨ t = .outOf then [] else s.standing t a
    | _ => []

/-- The reads of a write. -/
def State.readFor (s : State) (off : Nat) (a : Access) : State := s.compareAll (s.writeReads off a)

/-- A write of the register at an offset. -/
def State.tryWrite (s : State) (off : Nat) (a : Access) : Wrote :=
  if s.barsWrite off a then .refused else (s.readFor off a).writeReg (regAt off) a

/-- The WRITE record of a write (10 R345): the address, then the bytes. -/
def writePayload (addr : Nat) (bs : List Byte) : List Byte := leBytes 8 addr ++ bs

/-- A write that comes from outside in record mode is recorded, those of the Korni registers too (10 R346). (log 46: DEDUCED.) -/
def State.recordsWrite (s : State) (src : Source) : Bool :=
  s.korni.mode == 1 && (match src with | .eddy _ => true | .sequencer _ => false)

/-- The record of a write that has been carried out, where one is due. Before the START record nothing is recorded (10 R346). -/
def State.putWrite (s : State) (due : Bool) (off : Nat) (p : Part) (v : Quad) : State :=
  if due then s.korniPut 0x03 0 (partSize p) (writePayload (windowAddr off p) (partBytes p v)) else s

/-- The state whose ring must have room for the record of a write: for a write of TAIL the ring with the space that it frees. -/
def State.roomAt (s : State) (off : Nat) (w : Wrote) : State :=
  match regAt off, w with
  | .korniTail, .ok t => t
  | _, _ => s

/-- A register write by its source: it waits behind one of its identifier (11 R357), or for ring space in record mode (10 R346); it is refused;
it is carried out, recorded and acknowledged; or its acknowledgement waits for clears (14 R443). (log 46: DEDUCED.) -/
def State.regWrite (s : State) (src : Source) (id : BitVec 4) (off : Nat) (p : Part) (v : Quad) (goLow : Bool) : State :=
  let w := s.tryWrite off ⟨some (s.srcDomain src), p, v, goLow⟩
  let due := s.recordsWrite src
  if s.idWaits src id || (due && !(s.roomAt off w).korniRoom (korniLen (writePayload (windowAddr off p) (partBytes p v))) false) then s
  else
    match w with
    | .refused => (s.readFor off ⟨some (s.srcDomain src), p, v, goLow⟩).answer src id true
    | .ok s1 => (s1.putWrite due off p v).answer src id false
    | .held k c h g => { s.putWrite due off p v with leaseWaits := s.leaseWaits ++ [⟨src, id, c, k, h, g⟩] }

/-- The value that a held lease write gives the register as it now stands: a 32-bit write changes its own half alone (16 R478). -/
def State.heldValue (s : State) (w : LeaseWait) : Quad := (⟨none, w.part, w.value, true⟩ : Access).merge ((s.ctx w.ctx).leaseReg w.kind)

/-- A lease write whose clears have finished (14 R443): it is acknowledged, unless the context has left DISABLED or another lease has
come to stand against it. (log 53: DEDUCED.) -/
def execLeaseClearDone (s : State) : Out :=
  whenUp s <|
    match s.leaseWaits with
    | [] => s
    | w :: r =>
      let s1 := { s with leaseWaits := r }
      let v := s.heldValue w
      if (s1.ctx w.ctx).st = .disabled ∧ s1.grantRefused w.ctx w.kind v = false then
        ((s1.grant w.ctx w.kind v).mark [3, 5, 6]).answer w.src w.id false
      else s1.answer w.src w.id true

end Sys2Proof.Machine
end

