-- ==== Sys2Proof/Machine/Bring.lean ====
section
/-! DEFINITION. Reset, bring-up and loss of power (11 R384; 13 R437; 15 R454 to R464), and the trace port (15 R473, R474). -/

namespace Sys2Proof.Machine

/-- The block as reset leaves it. What is not the block's own stands: the commands that wait, the fuse bank, and the number of the next
open value. -/
def State.restarted (s : State) : State := { State.reset with pending := s.pending, fuses := s.fuses, freeCtr := s.freeCtr }

/-- RESET: RST_N is asserted for `cycles` REFCLK cycles (11 R384). -/
def execReset (cycles : Nat) (s : State) : Out := .next (if 4 ≤ cycles then s.restarted else s)

/-- POWER_LOSS (13 R437). -/
def execPowerLoss (s : State) : Out := .next { s.restarted with powered := false }

/-- RESET_RELEASE: bring-up begins, with the life-cycle state and the cooling class counted (15 R454, R455; 11 R388). That the value counted then
has good parity, and leaves LCBAD clear, is the model's choice. (log 10: DESIGN CHOICE.) -/
def execResetRelease (lc cool : BitVec 2) (s : State) : Out :=
  if s.powered && s.inReset then
    .next ({ s with
      inReset := false, clock := 0
      glob := { s.glob with bu := 0 }
      sec := { s.sec with lc := lc }
      sb := { s.sb with lcIn := lc, lcOk := true }
      pwr := { s.pwr with ccount := cool, cls := coolOf cool } } : State).holdSteps
  else .next s

/-- Reference e-cycles since FUSE began, divided by 1,024 (15 R468). -/
def State.bringUpTime (s : State) : BitVec 32 := BitVec.ofNat 32 (s.clock / 1024)

/-- Bring-up stops (15 R456, R458). -/
def State.bringUpFails (s : State) : State := { s with glob := { s.glob with bu := 6, buTime := s.bringUpTime } }

/-- FUSE_DONE (15 R456). (log 58: DEDUCED.) -/
def execFuseDone (bad : Bool) (s : State) : Out :=
  whenUp s <|
    if s.glob.bu ≠ 0 then s
    else if bad then { s.bringUpFails with glob := { s.bringUpFails.glob with fuseBad := true } }
    else
      let f := s.fuses
      { s with
        glob := { s.glob with bu := 1, grade := f.grade, fuseRev := f.fuseRev, bitClass := f.bitClass, dieId := f.dieId }
        tab := { s.tab with
          spareRet := .all f.retired, spareEng := .all f.spareEng, sparePlane := .all f.sparePlane, colfree := f.colfree.map Trip.all } }

/-- The bits of a boot record's value that its register has: the format entries, the scale curves, and the throttle curves (R458). -/
def bootMask (o : Nat) : Quad :=
  match bootReg o with
  | some (.fmt _) => fmtMask
  | some r => curveMask r
  | none => 0

/-- The offset of a boot record lies in the ranges of R458. -/
def bootRange (o : Nat) : Bool :=
  decide ((0x4100 ≤ o ∧ o ≤ 0x41FF) ∨ (0x5000 ≤ o ∧ o ≤ 0x50FF) ∨ (0x5100 ≤ o ∧ o ≤ 0x5118) ∨ (0x5200 ≤ o ∧ o ≤ 0x529F))

/-- R457, R458: the image's reserved bits are zero, CHECK equals the digest of its record quads, and every record names a register in range and
sets no reserved bit. -/
def tableGood (img : List Byte) : Bool :=
  let n := leNat (img.take 4)
  let qs := (quadsAt (2 * n) (img.drop 16)).map BitVec.toNat
  (img.drop 5).take 3 == [0, 0, 0] && leNat ((img.drop 8).take 8) == digestFrom 0 qs &&
    (List.range n).all fun i => bootRange (qs.getD (2 * i) 0) && BitVec.ofNat 64 (qs.getD (2 * i + 1) 0) &&& ~~~(bootMask (qs.getD (2 * i) 0)) == 0

/-- TABLE_DONE: `bad` says that a word of the boot ROM was uncorrectable (15 R457 to R459). (log 58: DEDUCED.) -/
def execTableDone (bad : Bool) (s : State) : Out :=
  whenUp s <|
    if s.glob.bu ≠ 1 then s
    else if bad || !tableGood bootImage then { s.bringUpFails with glob := { s.bringUpFails.glob with romBad := true } }
    else
      let s1 := ({ s with glob := { s.glob with romRev := bootRomRev } } : State).applyBoot
      let apart := TabReg.all.any fun r => ((r.get s1.tab).vote).isNone
      let s2 := s1.compareAll TabReg.all
      { s2 with glob := { s2.glob with bu := 2, tblBad := apart } }

/-- One unit's startup self-test failed: it is repaired or retired, without copying tile contents. -/
def State.startupFails (s : State) (f : TestUnit × TestOutcome) : State :=
  if f.2 ≠ TestOutcome.pass ∧ s.startupTests f.1 = true then
    ({ s with glob := { s.glob with stFail := true } } : State).unitFails f.1 f.2 true
  else s

/-- An engine that the map marks retired and that still stands behind its logical engine, which a map written in HOLD can leave, is treated
as one that fails its test: it is replaced, without STFAIL (15 R460, R461). (log 58: DEDUCED.) -/
def State.replaceRetired (s : State) (p : Nat) : State :=
  if s.retired p && !s.qlost (p / 16) && (s.logicalOf p).isSome then s.engineFails p true else s

/-- TEST_DONE: the units that failed, in the order in which they are treated (15 R461). Where a register of the spare map disagrees in all three
copies, the repairs halt (12 R406). (log 44: DEDUCED.) -/
def execTestDone (failed : List (TestUnit × TestOutcome)) (s0 : State) : Out :=
  whenUp s0 <|
    if s0.glob.bu = 3 ∧ s0.glob.quads = 4 then
      let s := s0.readSpares
      if s.split spareRegs then s
      else
        let s1 := (failed.foldl State.startupFails ((List.range 64).foldl State.replaceRetired s)).mark [3, 4, 5, 6]
        { s1 with glob := { s1.glob with bu := 4 } }
    else s0

/-- The clearing of CLEAR (15 R462, R454). LOST stays (12 R404). -/
def State.clearStores (s : State) : State :=
  { s with
    vat := [], ram := [], lines := [], cache := [], bad := [], tileMem := []
    tiles := s.tiles.map fun t => { lost := t.lost }
    laneFree := Vector.replicate 16 none, screen := { s.screen with bufFree := none }
    tileOwner := Vector.replicate 512 none, regionOwner := Vector.replicate 128 none }

/-- CLEAR_DONE: READY, `elapsed` reference e-cycles after FUSE began (15 R462). Where EN was set in HOLD the islands stay at bring-up's step, or
at MINSTEP, until the first boundary, at which the loop runs (R455; 13 R433). (log 57: DEDUCED.) -/
def execClearDone (elapsed : Nat) (s : State) : Out :=
  whenUp s <|
    if s.glob.bu = 4 then
      let s1 := (s.moveTo elapsed).clearStores.mark [3, 6]
      ({ s1 with glob := { s1.glob with bu := 5, buTime := s1.bringUpTime } } : State).restSteps
    else s

/-! The trace port. -/

/-- TRACE_SYNC: 2^20 b-cycles are 2^21 reference e-cycles (15 R473; 00 R6). -/
def execTraceSync (s : State) : Out :=
  whenUp s <|
    let s1 := s.moveTo (s.nextAt (2 ^ 21))
    if s1.dbg.traceEn then
      ({ s1 with dbg := { s1.dbg with lastSync := s1.bcycles } } : State).tracePush (BitVec.ofNat 64 (7 + s1.clock % 2 ^ 56 * 2 ^ 8))
    else s1

/-- TRACE_RECORD_OUT: with TRACE_EN set a record leaves: the oldest of the queue, or first the DROP record that precedes it (15 R473, R474).
(log 25: DESIGN CHOICE.) -/
def execTraceRecordOut (s : State) : Out :=
  whenUp s <|
    let d := s.dbg
    if d.traceEn = false then s
    else
      match d.queue with
      | (some drop, q) :: r => { s with dbg := { d with out := some drop, queue := (none, q) :: r } }
      | (none, q) :: r => { s with dbg := { d with out := some q, queue := r } }
      | [] => { s with dbg := { d with out := none } }

end Sys2Proof.Machine
end

