-- ==== Sys2Proof/Machine/Issue.lean ====
section
/-! DEFINITION. Acceptance: the issue port (06 R174 to R177, R190; 11 R378, R379), the sequencer (06 R186 to R189), and LOOP, BR and
HALT (07 R262). -/

namespace Sys2Proof.Machine

/-! What acceptance tests (R175). -/

/-- Test 4: the instruction is malformed. A store whose format entry's copies all differ is not judged by that entry: it is accepted and faults
(12 R406). -/
def State.malformed (s : State) (i : Insn) : Bool :=
  i.badFields || (!i.judgedFmts.any s.fmtBad.contains && i.overlaps s.fmtProg)

/-- Test 4 has read the format entry that it judges a store by (12 R405). -/
def State.judged (s : State) (i : Insn) : State := s.compareAll (fmtRegs i.judgedFmts)

/-- Tests 1 to 3 let an issue for the context with a domain tag pass. -/
def State.openTo (s : State) (c : CtxId) (tag : BitVec 8) : Bool :=
  ((s.ctx c).st == .idle || (s.ctx c).st == .run) && !(s.ctx c).prog && tag == (s.ctx c).domain

/-- The pattern registers an instruction names: PAT and the chain that begins there (R193). -/
def Ctx.patsNamed (x : Ctx) (i : Insn) : List Nat :=
  match i.op with
  | some o => if o.usesPat then (latchChain x.pat i.pat).links.map Link.reg else []
  | none => []

/-- A SETPAT or SETFMT of the window that has not completed wrote something the instruction names (R175 test 7). (log 18: DEDUCED.) -/
def Ctx.pendingSet (x : Ctx) (i : Insn) : Bool :=
  x.window.any fun e => e.phase != .completed &&
    ((e.insn.op == some .setpat && (x.patsNamed i).contains e.insn.setReg) ||
      (e.insn.op == some .setfmt && i.fmts.contains e.insn.setReg))

/-- The context lacks a privilege the instruction needs (14 R445). -/
def State.lacksPrivilege (s : State) (c : CtxId) (i : Insn) : Bool :=
  match i.op with
  | some .setfmt => !(c == s.superCtx || s.sec.twmask.getLsbD c.val)
  | some .front => s.front.owner.toNat != c.val
  | _ => false

/-- The first tile register outside the lease, in the order of R91 (R185). -/
def Ctx.outsideLease (x : Ctx) (i : Insn) : Option Nat := i.tiles.find? fun t => !x.tlease.getLsbD t

/-- A debug halt holds the context back: no credit is left (15 R472). -/
def State.debugHeld (s : State) (c : CtxId) : Bool :=
  s.dbg.halt.getLsbD c.val && !s.traceMask c && (s.ctx c).credits == 0

/-- A wipe holds a secure context back (14 R451). -/
def State.wipeHeld (s : State) (c : CtxId) : Bool := s.sec.wiping && (s.ctx c).secure

/-- The window has room and nothing holds the context back. -/
def State.roomFor (s : State) (c : CtxId) (i : Insn) : Bool :=
  decide ((s.ctx c).window.length < 32) && !(s.ctx c).pendingSet i && !s.debugHeld c && !s.wipeHeld c

/-! Acceptance. -/

/-- LOOP, BR and HALT complete at acceptance (R262). -/
def Insn.completesAtOnce (i : Insn) : Bool := match i.op with | some o => o.programOnly | none => false

/-- What an instruction latches at its acceptance (R190, R193; 10 R337 to R339). Of the format table these are the entries that it names; the
entry of a source's recorded deckle that it does not name is read anew as it begins (03 R87; 06 R191). (log 22: DEDUCED.) -/
def State.latch (s : State) (c : CtxId) (n : Seq) (i : Insn) (addr : BitVec 48) : Entry :=
  let x := s.ctx c
  let st := i.stream
  { seq := n, insn := i, addr := addr, first := i.first, upTo := i.first
    fmts := s.fmtProg, fmtBad := i.fmts.filter s.fmtBad.contains
    chain := match i.op with | some o => if o.usesPat then latchChain x.pat i.pat else ⟨[], none⟩ | none => ⟨[], none⟩
    seed := x.seed st, step := x.step st, chips := s.front.chipsM1.toNat + 1
    digP := x.digP, digN := x.digN, phase := if i.completesAtOnce then .completed else .waiting }

/-- An instruction's quads are folded into the program digest: the index of a quad counts on without a modulus (R337). -/
def Ctx.foldQuads (x : Ctx) (i : Insn) : Ctx :=
  { x with
    digP := x.digP ^^^ BitVec.ofNat 64 (digestFrom x.digN (i.quads.map fun q => q.toNat ^^^ digestMask))
    digN := x.digN + i.quads.length }

/-- WMARK OP 3 restarts the program digest at its acceptance (R338). -/
def Ctx.restartDigest (x : Ctx) (i : Insn) : Ctx :=
  if i.op = some .wmark ∧ i.wmarkOp = 3 then { x with digP := 0, digN := 0 } else x

/-- The instruction is accepted with sequence number `n` (R176, R190). -/
def State.accept (s : State) (c : CtxId) (n : Seq) (i : Insn) (addr : BitVec 48) : State :=
  let s1 := (s.compareAll (fmtRegs i.fmts)).upCtx c fun x => x.foldQuads i
  let e := s1.latch c n i addr
  let s2 := s1.upCtx c fun x =>
    { x.restartDigest i with
      accepted := n, window := x.window ++ [e], st := if x.st = .idle then .run else x.st
      credits := if s.dbg.halt.getLsbD c.val && !s.traceMask c then x.credits - 1 else x.credits }
  let s3 := (s2.tally 0 1).traceInsn 1 c n i.opcode
  if i.completesAtOnce then ((s3.tally 1 1).traceInsn 2 c n i.opcode).trail c n i.opcode [] else s3

/-- The next sequence number. -/
def Ctx.nextSeq (x : Ctx) : Seq := x.accepted + 1

/-! The issue port. -/

/-- The instruction that ISS_LONG and ISS_DATA carry. -/
def issued (long : Bool) (data : BitVec 256) : Insn :=
  { long := long, quads := (List.range (if long then 4 else 1)).map fun q => BitVec.ofNat 64 (data.toNat / 2 ^ (64 * q)) }

/-- ISS_PAR makes the ones over each quad and itself odd (R378). -/
def parityGood (i : Insn) (par : BitVec 4) : Bool :=
  (List.range i.quads.length).all fun q =>
    (((List.range 64).filter (i.q q).getLsbD).length + b2n (par.getLsbD q)) % 2 == 1

/-- The bytes of an ISSUE record's payload (R345). -/
def issuePayload (i : Insn) : List Byte := quadBytes i.quads

/-- What the issue port answers. -/
inductive Answer where
  | accept
  | busy
  | reject (reason : BitVec 3) (parity : Bool)
  deriving DecidableEq, Repr

/-- The ordered tests of R175; in replay mode the port is closed (10 R347). (log 18: DEDUCED.) -/
def State.issueAnswer (s : State) (c : CtxId) (tag : BitVec 8) (i : Insn) (par : BitVec 4) : Answer :=
  let x := s.ctx c
  if !(x.st == .idle || x.st == .run) || s.korni.mode == 2 then .reject 4 false
  else if x.prog then .reject 5 false
  else if tag ≠ x.domain then .reject 2 false
  else if !parityGood i par then .reject 1 true
  else if s.malformed i || i.completesAtOnce then .reject 1 false
  else if s.lacksPrivilege c i then .reject 2 false
  else if (x.outsideLease i).isSome then .reject 3 false
  else if !s.roomFor c i || !s.korniRoom (korniLen (issuePayload i)) false then .busy
  else .accept

/-- The state after the tests that refused an issue: test 4 was reached, or not. -/
def State.refusedAt (s : State) (c : CtxId) (tag : BitVec 8) (i : Insn) (par : BitVec 4) : State :=
  if s.openTo c tag && s.korni.mode != 2 && parityGood i par then s.judged i else s

/-- ISSUE (R175). -/
def execIssue (c : CtxId) (tag : BitVec 8) (long : Bool) (data : BitVec 256) (par : BitVec 4) (s : State) : Out :=
  whenUp s <|
    let i := issued long data
    match s.issueAnswer c tag i par with
    | .reject r p =>
      { (s.refusedAt c tag i par).upCtx c fun x => { x with reject := r } with
        ans := ⟨3, r, 0⟩, felt := { s.felt with issPar := s.felt.issPar || p } }
    | .busy => { (s.refusedAt c tag i par).tally 14 1 with ans := ⟨2, 0, 0⟩ }
    | .accept =>
      let n := (s.ctx c).nextSeq
      let s1 := s.accept c n i 0
      { s1.korniPut 0x02 c.val (n.toNat + b2n long * 2 ^ 16 + tag.toNat * 2 ^ 24) (issuePayload i) with ans := ⟨1, 0, n⟩ }

/-! The sequencer. -/

/-- The sequencer may fetch: program mode, fetching, no BR or HALT ahead, nothing holding it back. It waits for every FENCE of its
window (R189, 11 R375; log 12). -/
def State.mayFetch (s : State) (c : CtxId) : Bool :=
  let x := s.ctx c
  x.prog && x.st == .run && x.fetching && !x.halting && x.brWait.isNone && !s.debugHeld c && !s.wipeHeld c &&
    !x.window.any fun e => e.insn.op == some .fence && e.phase != .completed

/-- DECODE_ERROR at a fetch address (R199). -/
def decodeError (a : Nat) : FaultRec := ⟨0x0C, BitVec.ofNat 64 (a % 2 ^ 48)⟩

/-- What the sequencer gets at an address. -/
inductive Got where
  | ok (bs : List Byte) (s : State)
  | wait (s : State)
  | fault (f : FaultRec) (s : State)

/-- An address between the rows of R350: a decode miss (11 R353). -/
def inHole (a : Nat) : Bool := (0x48000000 ≤ a && a < 0x80000000) || (0x81000000 ≤ a && a < 0x100000000)

/-- What the protection of sequencer space reports of `n` bytes at an address: whether it could correct the error, and its address
(12 R391, R396). -/
def detectIn (d : Detect) (a n : Nat) : Option (Bool × Nat) :=
  match d with
  | .corrected .sequencerSpace _ loc => if a ≤ loc.toNat ∧ loc.toNat < a + n then some (true, loc.toNat) else none
  | .uncorrectable .sequencerSpace _ loc => if a ≤ loc.toNat ∧ loc.toNat < a + n then some (false, loc.toNat) else none
  | _ => none

/-- What the protection of the row cache reports of `n` bytes at an address: whether it could correct the error, the slice, and its address (12
R391, R392). -/
def lineIn (d : Detect) (a n : Nat) : Option (Bool × Fin 128 × BitVec 48) :=
  match d with
  | .corrected .memory unit loc => if a ≤ loc.toNat ∧ loc.toNat < a + n then some (true, unit, loc) else none
  | .uncorrectable .memory unit loc => if a ≤ loc.toNat ∧ loc.toNat < a + n then some (false, unit, loc) else none
  | _ => none

/-- Reads `n` aligned bytes for a fetch (R186; 11 R353, 12 R396). A line of the row cache with a double error is dropped and fetched again
(12 R391). (log 15: DEDUCED.) -/
def State.fetchBytes (s : State) (c : CtxId) (a n : Nat) (d : Detect) : Got :=
  if a < 0x40000000 then
    match s.seqPlace a with
    | .miss => .fault (decodeError a) (s.recordMiss (BitVec.ofNat 48 a) false true (BitVec.ofNat 8 c.val))
    | _ =>
      match detectIn d a n with
      | some (false, loc) => .fault (uncorrectable 6 0 loc) (s.logUncorrectable 9 0 loc)
      | some (true, loc) => .ok ((List.range n).map fun i => s.seqByte (a + i)) (s.logCorrected 9 0 loc)
      | none => .ok ((List.range n).map fun i => s.seqByte (a + i)) s
  else if inChip a then
    match s.reachRead c 65536 [run a n] with
    | .ok s1 =>
      let bs := s1.readBytes c 65536 [run a n]
      let s2 := s1.demand c 65536 [run a n]
      match lineIn d a n with
      | some (true, unit, loc) => .ok bs (s2.meetsError true .memory unit loc)
      | some (false, unit, loc) => .wait ((s2.meetsError false .memory unit loc).dropLine c 65536 loc.toNat)
      | none => .ok bs s2
    | .wait s1 => .wait s1
    | .fault f s1 => .fault f s1
  else .fault (decodeError a) (if inHole a then s.recordMiss (BitVec.ofNat 48 a) false true (BitVec.ofNat 8 c.val) else s)

/-- What the sequencer comes to at its program counter. -/
inductive Fetched where
  | insn (i : Insn) (s : State)
  | wait (s : State)
  | fault (f : FaultRec) (s : State)

/-- Fetches the instruction at the program counter: its class, alignment and bytes (R186). (log 12: DEDUCED.) -/
def State.fetchAt (s : State) (c : CtxId) (a : Nat) (d : Detect) : Fetched :=
  if a % 8 ≠ 0 then .fault (decodeError a) s
  else
    match s.fetchBytes c a 8 d with
    | .wait s1 => .wait s1
    | .fault f s1 => .fault f s1
    | .ok bs s1 =>
      let q : Quad := BitVec.ofNat 64 (leNat bs)
      if q.bits 11 8 = 0 then .insn ⟨false, [q]⟩ s1
      else if a % 32 ≠ 0 then .fault (decodeError a) s1
      else
        match s1.fetchBytes c (a + 8) 24 d with
        | .wait s2 => .wait s2
        | .fault f s2 => .fault f s2
        | .ok more s2 => .insn ⟨true, q :: quadsAt 3 more⟩ s2

/-- The fault that stops the sequencer at acceptance, under tests 4 to 6 of R175 (R187). -/
def State.acceptFault (s : State) (c : CtxId) (i : Insn) (a : Nat) : Option FaultRec :=
  if s.malformed i then some (decodeError a)
  else if s.lacksPrivilege c i then some ⟨0x0F, BitVec.ofNat 64 i.opcode⟩
  else ((s.ctx c).outsideLease i).map fun t => ⟨0x04, BitVec.ofNat 64 t⟩

/-- The address after an instruction, modulo 2^48. (log 68: DESIGN CHOICE.) -/
def pcAfter (pc : BitVec 48) (i : Insn) : BitVec 48 := pc + (if i.long then 32 else 8)

/-- A branch target (R258), modulo 2^48 (log 68: DESIGN CHOICE.) -/
def pcTarget (pc : BitVec 48) (i : Insn) : BitVec 48 := pc + BitVec.ofInt 48 (8 * i.off)

/-- What the acceptance of an instruction does to the sequencer (R181, R188, R262). -/
def Ctx.moveOn (x : Ctx) (i : Insn) : Ctx :=
  match i.op with
  | some .loop =>
    let k := i.loopCnt
    if i.loopSet then { x with lcnt := x.lcnt.setIfInBounds k (BitVec.ofNat 32 i.imm), pc := pcAfter x.pc i }
    else if (x.lcnt[k]?).getD 0 = 0 then { x with pc := pcAfter x.pc i }
    else { x with lcnt := x.lcnt.setIfInBounds k ((x.lcnt[k]?).getD 0 - 1), pc := pcTarget x.pc i }
  | some .br => { x with brWait := some i }
  | some .halt => { x with halting := true, pc := pcAfter x.pc i }
  | _ => { x with pc := pcAfter x.pc i }

/-- The sequencer fetches and tries to accept an instruction of the kind asked for (R186, R187). -/
def State.sequence (s : State) (c : CtxId) (kind : Insn → Bool) (anyFault : Bool) (d : Detect) : State :=
  if s.mayFetch c then
    let a := (s.ctx c).pc
    match s.fetchAt c a.toNat d with
    | .wait s1 => s1
    | .fault f s1 => if anyFault then s1.faultFetch c f else s
    | .insn i s1 =>
      if kind i then
        match s1.acceptFault c i a.toNat with
        | some f => (s1.judged i).faultFetch c f
        | none =>
          if s1.roomFor c i && (!i.completesAtOnce || s1.trailReady) then
            ((s1.accept c (s1.ctx c).nextSeq i a).dropXlats c 65536).upCtx c fun x => (x.moveOn i).settle
          else s1.judged i
      else s
  else s

/-- SEQUENCER_FETCH (R186). -/
def execSequencerFetch (c : CtxId) (d : Detect) (s : State) : Out := whenUp s (s.sequence c (fun _ => true) true d)

/-- LOOP_SET (R262). -/
def execLoopSet (c : CtxId) (s : State) : Out := whenUp s (s.sequence c (fun i => isOp .loop i && i.loopSet) false .clean)

/-- LOOP_COUNT (R262). -/
def execLoopCount (c : CtxId) (s : State) : Out := whenUp s (s.sequence c (fun i => isOp .loop i && !i.loopSet) false .clean)

/-- HALT (R188). -/
def execHalt (c : CtxId) (s : State) : Out := whenUp s (s.sequence c (isOp .halt) false .clean)

/-- The condition of a BR holds (R262). -/
def Ctx.takes (x : Ctx) (i : Insn) : Bool := i.brAlways || x.statusBits.testBit i.brCond == i.brSense

/-- BR: the sequencer resolves the BR it waits at, once every earlier instruction has completed (R188, R262); that of a secure context waits
until a wipe ends (14 R451). -/
def execBr (c : CtxId) (s : State) : Out :=
  whenUp s <|
    let x := s.ctx c
    match x.brWait with
    | none => s
    | some i =>
      if x.st = .run ∧ x.window.all (fun e => e.phase == .completed) ∧ s.wipeHeld c = false then
        s.setCtx c { x with brWait := none, pc := if x.takes i then pcTarget x.pc i else pcAfter x.pc i }
      else s

end Sys2Proof.Machine
end

