-- ==== Sys2Proof/Machine/Writes.lean ====
section
/-! DEFINITION. The register writes that have a row of their own, and REGISTER_WRITE for the others. Each builds the value that
changes its own field and leaves every other field of the register at its standing value, and is then a register write as any
other: checked, carried out or refused, recorded and answered (00 R10; 14 R444; 16 R475 to R493). -/

namespace Sys2Proof.Machine

/-- A write of a whole register. -/
def State.wholeWrite (s : State) (src : Source) (off : Nat) (v : Quad) : Out := whenUp s (s.regWrite src 0 off .whole v false)

/-! Contexts. -/

/-- The offset of CK_CTX_CTL of a context (16 R485). -/
def ctlOff (c : CtxId) : Nat := 0x2000 + 0x200 * c.val

/-- A write of CK_CTX_CTL: the standing value with one field replaced. -/
def State.ctlWrite (s : State) (src : Source) (c : CtxId) (lo w v : Nat) : Out :=
  s.wholeWrite src (ctlOff c) (setField ((s.ctx c).regVal .ctl) lo w v)

/-- CTX_ENABLE (06 R180). -/
def execCtxEnable (src : Source) (c : CtxId) (s : State) : Out := s.ctlWrite src c 0 1 1

/-- CTX_DISABLE (06 R178). -/
def execCtxDisable (src : Source) (c : CtxId) (s : State) : Out := s.ctlWrite src c 0 1 0

/-- START (06 R180). -/
def execStart (src : Source) (c : CtxId) (s : State) : Out := s.ctlWrite src c 2 1 1

/-- RESUME (06 R200). -/
def execResume (src : Source) (c : CtxId) (s : State) : Out := s.ctlWrite src c 3 1 1

/-- ABORT (06 R202). -/
def execAbort (src : Source) (c : CtxId) (s : State) : Out := s.ctlWrite src c 4 1 1

/-- DOMAIN_WRITE (14 R441). -/
def execDomainWrite (src : Source) (c : CtxId) (dom : BitVec 8) (s : State) : Out := s.ctlWrite src c 16 8 dom.toNat

/-- SECURE_WRITE (14 R447). -/
def execSecureWrite (src : Source) (c : CtxId) (secure : Bool) (s : State) : Out := s.ctlWrite src c 12 1 (b2n secure)

/-- The offset of a lease register (06 R183). -/
def leaseOff (c : CtxId) (k : LeaseKind) : Nat :=
  match k with
  | .tile n => 0x2100 + 0x200 * c.val + 8 * n.val
  | .vat n => 0x2140 + 0x200 * c.val + 8 * n.val

/-- LEASE_WRITE (14 R443). -/
def execLeaseWrite (src : Source) (c : CtxId) (k : LeaseKind) (p : Part) (v : Quad) (s : State) : Out :=
  whenUp s (s.regWrite src 0 (leaseOff c k) p v false)

/-- PAT_QUAD_WRITE (16 R493). -/
def execPatQuadWrite (src : Source) (c : CtxId) (reg quad : Fin 32) (p : Part) (v : Quad) (s : State) : Out :=
  whenUp s (s.regWrite src 0 (0x10000 + 0x2000 * c.val + 0x100 * reg.val + 8 * quad.val) p v false)

/-! Tables. -/

/-- FMT_WRITE (02 R50). -/
def execFmtWrite (src : Source) (entry : Fin 32) (p : Part) (v : Quad) (s : State) : Out :=
  whenUp s (s.regWrite src 0 (0x4000 + 16 * entry.val) p v false)

/-- SCURVE_WRITE (09 R298). -/
def execScurveWrite (src : Source) (curve : Fin 16) (hi : Bool) (p : Part) (v : Quad) (s : State) : Out :=
  whenUp s (s.regWrite src 0 (0x5000 + 16 * curve.val + 8 * b2n hi) p v false)

/-- The offset of a throttle curve table register: CK_TCLS0 to CK_TCLS2, CK_TCRIT, then CK_TCURVE (13 R428 to R430). -/
def tcurveOff (reg : Fin 24) : Nat := if reg.val < 4 then 0x5100 + 8 * reg.val else 0x5200 + 8 * (reg.val - 4)

/-- TCURVE_WRITE (13 R431). -/
def execTcurveWrite (src : Source) (reg : Fin 24) (p : Part) (v : Quad) (s : State) : Out :=
  whenUp s (s.regWrite src 0 (tcurveOff reg) p v false)

/-! Felt and the ports. -/

/-- REMAP_WRITE (11 R352). -/
def execRemapWrite (src : Source) (remap : Bool) (s : State) : Out :=
  s.wholeWrite src 0x1000 (setField (s.regVal .feltCtl) 0 1 (b2n remap))

/-- PORT_RETURN (11 R371). -/
def execPortReturn (src : Source) (sfail : BitVec 8) (rfail : BitVec 4) (s : State) : Out :=
  s.wholeWrite src 0x1048 (fieldWord [(sfail.toNat, 16), (rfail.toNat, 24)])

/-! Fronts and Korni. -/

/-- FRONT_CAL_START (10 R328). -/
def execFrontCalStart (src : Source) (s : State) : Out := s.wholeWrite src 0x6010 1

/-- KORNI_MODE_SET (10 R342). -/
def execKorniModeSet (src : Source) (mode : BitVec 2) (s : State) : Out :=
  s.wholeWrite src 0x6100 (setField (s.regVal .korniCtl) 0 2 mode.toNat)

/-- KORNI_HEAD_WRITE (10 R343). -/
def execKorniHeadWrite (src : Source) (v : Quad) (s : State) : Out := s.wholeWrite src 0x6110 v

/-- KORNI_TAIL_WRITE (10 R343). -/
def execKorniTailWrite (src : Source) (v : Quad) (s : State) : Out := s.wholeWrite src 0x6118 v

/-! Bring-up and power. -/

/-- GO (15 R460). -/
def execGo (src : Source) (s : State) : Out := s.wholeWrite src 0x0020 (fieldWord [(s.glob.super.toNat, 0), (1, 4)])

/-- SUPER_WRITE (15 R468). -/
def execSuperWrite (src : Source) (c : CtxId) (s : State) : Out := s.wholeWrite src 0x0020 (fieldWord [(c.val, 0)])

/-- PWR_EN_WRITE (13 R433). -/
def execPwrEnWrite (src : Source) (en : Bool) (s : State) : Out :=
  s.wholeWrite src 0x7000 (setField (s.regVal .pwrCtl) 0 1 (b2n en))

/-- CCACK (13 R423). -/
def execCcack (src : Source) (s : State) : Out := s.wholeWrite src 0x7000 (setField (s.regVal .pwrCtl) 1 1 1)

/-- ST_START (12 R412). -/
def execStStart (src : Source) (kind : BitVec 4) (unit : BitVec 8) (s : State) : Out :=
  s.wholeWrite src 0x8A00 (fieldWord [(kind.toNat, 0), (unit.toNat, 8), (1, 16)])

/-! Security. -/

/-- LOCK (14 R449). -/
def execLock (src : Source) (s : State) : Out := s.wholeWrite src 0x9000 (setField (s.regVal .secCtl) 24 1 1)

/-- SSIZE_WRITE (14 R449). -/
def execSsizeWrite (src : Source) (size : BitVec 6) (s : State) : Out :=
  s.wholeWrite src 0x9000 (setField (s.regVal .secCtl) 0 6 size.toNat)

/-! Telemetry and debug. -/

/-- FREEZE (15 R469). -/
def execFreeze (src : Source) (on : Bool) (s : State) : Out := s.wholeWrite src 0x0100 (fieldWord [(b2n on, 0)])

/-- CLEAR (15 R469). -/
def execClear (src : Source) (s : State) : Out := s.wholeWrite src 0x0100 (fieldWord [(b2n s.tel.freeze, 0), (1, 1)])

/-- DEBUG_HALT (15 R472). -/
def execDebugHalt (src : Source) (mask : BitVec 8) (s : State) : Out :=
  s.wholeWrite src 0x0200 (setField (s.regVal .dbgCtl) 0 8 mask.toNat)

/-- DEBUG_STEP (15 R472). -/
def execDebugStep (src : Source) (mask : BitVec 8) (s : State) : Out :=
  s.wholeWrite src 0x0200 (setField (s.regVal .dbgCtl) 8 8 mask.toNat)

/-! Every other register. -/

/-- REGISTER_WRITE (00 R10). -/
def execRegisterWrite (src : Source) (off : BitVec 24) (p : Part) (v : Quad) (goLow : Bool) (s : State) : Out :=
  whenUp s (s.regWrite src 0 off.toNat p v goLow)

end Sys2Proof.Machine
end

