-- ==== Sys2Proof/Machine/Eddy.lean ====
section
/-! DEFINITION. The eddy port (11 R353, R381, R382; 14 R444, R453) and the records a replay consumes (10 R347). -/

namespace Sys2Proof.Machine

/-! The command and its bytes. -/

/-- Byte `k` of a write command, as the beats carry it (R381). -/
def beatByte (addr : Nat) (data : List Byte) (k : Nat) : Byte := data.getD (addr % 8 + k) 0

/-- The enabled bytes of a write of `n` bytes, by their place in the command. -/
def enabledOf (addr n : Nat) (be : List Bool) : List Nat := (List.range n).filter fun k => be.getD (addr % 8 + k) false

/-- Numbers in ascending order, cut into runs of consecutive ones: (first, length). -/
def byteRuns : List Nat → List (Nat × Nat)
  | [] => []
  | k :: r =>
    match byteRuns r with
    | (j, n) :: t => if j = k + 1 then (k, n + 1) :: t else (k, 1) :: (j, n) :: t
    | [] => [(k, 1)]

/-- The register or half that `n` bytes at an address of the control window are, with its offset (00 R10). -/
def windowPart (addr n : Nat) : Option (Nat × Part) :=
  let o := addr - 0x80000000
  if n = 8 ∧ o % 8 = 0 then some (o, .whole)
  else if n = 4 ∧ o % 8 = 0 then some (o, .low)
  else if n = 4 ∧ o % 8 = 4 then some (o - 4, .high)
  else none

/-- Bytes in the places of a register's bits. -/
def partValue (p : Part) (bs : List Byte) : Quad := BitVec.ofNat 64 (leNat bs * (if p = .high then 2 ^ 32 else 1))

/-- Where an eddy command lands (R350). -/
inductive Place where
  | seq
  | vat
  | window
  | chip
  | miss
  deriving DecidableEq, Repr

/-- R350. -/
def placeOf (a : Nat) : Place :=
  if a < 0x40000000 then .seq
  else if a < 0x48000000 then .vat
  else if 0x80000000 ≤ a ∧ a < 0x81000000 then .window
  else if 0x100000000 ≤ a then .chip
  else .miss

/-- The whole command misses: its bytes lie in one 64-byte block, which no row of R350 and R351 cuts. -/
def State.misses (s : State) (a : Nat) : Bool :=
  match placeOf a with
  | .seq => s.seqPlace a == .miss
  | .miss => true
  | _ => false

/-- R444 and R453: the Vat bytes at an offset may be reached from domain `d`. -/
def State.vatFrom (s : State) (d : BitVec 8) (o : Nat) : Bool :=
  let r := o / 0x100000
  let inSecure := decide (r < s.secureSize)
  !(inSecure && s.sec.closed) &&
    s.ctxs.any fun x => x.domain == d && x.vlease.getLsbD r && s.ownerOf (.vat 0) r == some x.sdom && (!inSecure || x.secure)

/-! Writes of the Vat and of working RAM. -/

/-- The place in the tile store of the byte at a Vat offset, where it lies in a slot of the hosting reserve that a tile file has moved to:
256 KiB a slot, the tiles in ascending order (12 R398). (log 56: DEDUCED.) -/
def State.hostedAt (s : State) (o : Nat) : Option Nat :=
  if s.reserved (o / 0x100000) then
    let k := o / 0x40000 - 4 * s.hostRegion
    (s.st.hosts.find? fun h => h.2.2 == k).map fun h => tileBase (8 * h.1.val) + o % 0x40000
  else none

/-- The bytes that the Vat shows at an offset, all of one slot where it is one of the hosting reserve's. -/
def State.vatView (s : State) (o n : Nat) : List Byte :=
  match s.hostedAt o with
  | some i => bytesAt s.tileMem i n
  | none => bytesAt s.vat o n

/-- Bytes written to the Vat at an offset. -/
def State.putVat (s : State) (o : Nat) (bs : List Byte) : State :=
  match s.hostedAt o with
  | some i => { s with tileMem := putBytes s.tileMem i bs }
  | none => { s with vat := putBytes s.vat o bs }

/-- Bytes written to the Vat or to sequencer space, where working RAM takes them (R351). -/
def State.pokeBytes (s : State) (a : Nat) (bs : List Byte) : State :=
  match placeOf a with
  | .vat => (s.mark [6]).putVat (a - 0x40000000) bs
  | .seq => match s.seqPlace a with | .ram i => { s with ram := putBytes s.ram i bs } | _ => s
  | _ => s

/-- WRITE records of several pieces, none where the ring lacks the room (10 R346). -/
def State.recordAll : State → List (Nat × List Byte) → Option State
  | s, [] => some s
  | s, (a, bs) :: r =>
    if s.korniRoom (korniLen (writePayload a bs)) false then
      State.recordAll (s.korniPut 0x03 0 bs.length (writePayload a bs)) r
    else none

/-- A write of enabled bytes is recorded, carried out and acknowledged; without ring space it waits. -/
def State.eddyPoke (s : State) (id : BitVec 4) (ps : List (Nat × List Byte)) : State :=
  match s.recordAll ps with
  | none => s
  | some s1 => (ps.foldl (fun s p => s.pokeBytes p.1 p.2) s1).respondWrite id false

/-! EDDY_COMMAND. -/

/-- An eddy command as it stands at the port. -/
structure EddyCmd where
  write : Bool
  addr : Nat
  n : Nat
  id : BitVec 4
  dom : BitVec 8
  data : List Byte
  be : List Bool
  goLow : Bool
  d : Detect
  deriving DecidableEq, Repr

/-- The enabled bytes of a write, in runs of consecutive ones. -/
def EddyCmd.pieces (k : EddyCmd) : List (Nat × List Byte) :=
  (byteRuns (enabledOf k.addr k.n k.be)).map fun r => (k.addr + r.1, (List.range r.2).map fun i => beatByte k.addr k.data (r.1 + i))

/-- An error response of as many beats as the command's own (R381). -/
def EddyCmd.errorTo (k : EddyCmd) (s : State) : State :=
  if k.write then s.respondWrite k.id true else s.respondRead k.id true k.addr k.n []

/-- The register or half of a register that the command reads or writes, with the bytes written: R10. -/
def EddyCmd.access (k : EddyCmd) : Option (Nat × Part × List Byte) :=
  if k.write then
    match k.pieces with
    | [(a, bs)] => (windowPart a bs.length).map fun w => (w.1, w.2, bs)
    | _ => none
  else (windowPart k.addr k.n).map fun w => (w.1, w.2, [])

/-- The protection reports a word of the store that the command reads, among its bytes. -/
def EddyCmd.hits (k : EddyCmd) (w : Where) (loc : BitVec 48) : Bool :=
  !k.write && decide (k.addr ≤ loc.toNat ∧ loc.toNat < k.addr + k.n) &&
    w == (if placeOf k.addr = .vat then .vatOrLane else .sequencerSpace)

/-- What the protection reports of the command's bytes; the second part says that it could not be corrected. (log 59: DEDUCED.) -/
def State.eddyMeets (s : State) (k : EddyCmd) : State × Bool :=
  match k.d with
  | .clean => (s, false)
  | .corrected w unit loc => if k.hits w loc then (s.meetsError true w unit loc, false) else (s, false)
  | .uncorrectable w unit loc => if k.hits w loc then (s.meetsError false w unit loc, true) else (s, false)

/-- An access of the Vat or of sequencer space whose rules have been met. A read that meets a word which cannot be corrected receives no data.
(log 59: DEDUCED.) -/
def State.eddyReach (s : State) (k : EddyCmd) (bs : List Byte) : State :=
  if k.write then s.eddyPoke k.id k.pieces
  else
    let m := s.eddyMeets k
    if m.2 then k.errorTo m.1 else m.1.respondRead k.id false k.addr k.n bs

/-- In replay mode a live write outside the control window is refused (10 R347). -/
def State.liveBarred (s : State) (k : EddyCmd) : Bool := k.write && s.korni.mode == 2

/-- An access of the Vat at an offset reads the registers that describe the columns of its segment and the hosting reserve (12 R405). -/
def State.readColumns (s : State) (o : Nat) : State := s.compareAll (.host :: segmentRegs (vatSegment o))

/-- A command in the Vat; it waits while its segment serves nothing (12 R392, R402), and has no effect where the copies of a register that
describes the segment, or of CK_HOST, all differ (12 R406). (log 59: DEDUCED.) (log 44: DEDUCED.) -/
def State.eddyVat (s : State) (k : EddyCmd) : State :=
  let o := k.addr - 0x40000000
  if !s.vatFrom k.dom o || s.liveBarred k then k.errorTo s
  else if s.segmentBusy (vatSegment o) then s
  else
    let s1 := s.readColumns o
    if s1.vatMapBad (vatSegment o) then k.errorTo s1 else (if k.write then s1 else s1.mark [5]).eddyReach k (s1.vatView o k.n)

/-- A command in sequencer space that meets the boot ROM or working RAM (R351). -/
def State.eddySeq (s : State) (k : EddyCmd) : State :=
  match s.seqPlace k.addr with
  | .ram _ =>
    if k.write && (!s.fromSuper k.dom || s.liveBarred k) then k.errorTo s
    else s.eddyReach k ((List.range k.n).map fun i => s.seqByte (k.addr + i))
  | _ => if k.write then k.errorTo s else s.eddyReach k ((List.range k.n).map fun i => s.seqByte (k.addr + i))

/-- A command in the control window; it waits behind one of its identifier there (R357). -/
def State.eddyWindow (s : State) (k : EddyCmd) : State :=
  if s.idWaits (.eddy k.dom) k.id then s
  else
    match k.access with
    | none => k.errorTo s
    | some (off, p, bs) =>
      if k.write then s.regWrite (.eddy k.dom) k.id off p (partValue p bs) k.goLow
      else
        match s.readReg k.dom off p with
        | none => k.errorTo s
        | some (bs, s1) => s1.respondRead k.id false k.addr k.n bs

/-- A decode miss that DMZ lets pass: a read returns zero bytes, and a write has no effect (R353). -/
def EddyCmd.missed (k : EddyCmd) (s : State) : State :=
  if k.write then s.respondWrite k.id false else s.respondRead k.id false k.addr k.n (List.replicate k.n 0)

/-- The tests of R382 in order, then the transaction; the port takes nothing while 12 commands are outstanding. (log 59: DEDUCED.) -/
def State.eddy (s : State) (k : EddyCmd) : State :=
  if s.eddyFull then s
  else if 12 ≤ k.id.toNat ∨ 64 < k.addr % 64 + k.n then k.errorTo s
  else if placeOf k.addr = .chip then k.errorTo s
  else if s.misses k.addr then
    let s1 := s.recordMiss (BitVec.ofNat 48 k.addr) k.write false k.dom
    if s1.felt.dmz then k.missed s1 else k.errorTo s1
  else
    match placeOf k.addr with
    | .window => s.eddyWindow k
    | .vat => s.eddyVat k
    | _ => s.eddySeq k

/-- EDDY_COMMAND (R382). -/
def execEddyCommand (write : Bool) (addr : BitVec 48) (len : BitVec 6) (id : BitVec 4) (dom : BitVec 8) (data : List Byte)
    (be : List Bool) (w : Conditions) (s : State) : Out :=
  whenUp s (s.eddy ⟨write, addr.toNat, len.toNat + 1, id, dom, data, be, w.goLow, w.report⟩)

/-! Replay (10 R347). -/

/-- TAIL moves over a record. -/
def State.consume (s : State) (r : KorniRec) : State :=
  { s with korni := { s.korni with tail := s.korni.tail + BitVec.ofNat 64 (16 * r.len.toNat) } }

/-- The instruction of an ISSUE record. -/
def recInsn (r : KorniRec) : Insn :=
  let long := r.arg.getLsbD 16
  ⟨long, (List.range (if long then 4 else 1)).map fun i => r.payload.getD i 0⟩

/-- The domain tag, the byte count and the sequence number of a record's ARG. -/
def recTag (r : KorniRec) : BitVec 8 := (r.arg >>> 24).setWidth 8
def recSeq (r : KorniRec) : Seq := r.arg.setWidth 16
def recCount (r : KorniRec) : Nat := r.arg.toNat

/-- The bytes of a record's payload from quad `k`. -/
def recBytes (r : KorniRec) (k : Nat) : List Byte := quadBytes (r.payload.drop k)

/-- Quad `k` of a record's payload as a number. -/
def recQuad (r : KorniRec) (k : Nat) : Nat := (r.payload.getD k 0).toNat

/-- The tests 1 to 6 of 06 R175 accept a replayed instruction. -/
def State.replayAccepts (s : State) (c : CtxId) (tag : BitVec 8) (i : Insn) : Bool :=
  s.openTo c tag && !s.malformed i && !i.completesAtOnce && !s.lacksPrivilege c i && ((s.ctx c).outsideLease i).isNone

/-- DIVERGED is set, with the first instruction that diverged. -/
def State.diverge (s : State) (c : CtxId) (n : Seq) : State :=
  if s.korni.diverged then s
  else { s with korni := { s.korni with diverged := true, divCtx := BitVec.ofNat 3 c.val, divSeq := n } }

/-- A FRONT record of lower ORD has not taken effect: its FRONT has still to complete (10 R347). -/
def State.frontOwed (s : State) : Bool := !s.korni.words.isEmpty

/-- An ISSUE record: it waits while its context drains, has stopped or is under debug halt, has no room, or a record before it has not taken
effect (10 R347; 15 R472). -/
def State.replayIssue (s : State) (r : KorniRec) : State :=
  let x := s.ctx r.ctx
  if x.st = .draining ∨ x.st = .stopped ∨ s.debugHeld r.ctx ∨ s.frontOwed then s
  else if !s.replayAccepts r.ctx (recTag r) (recInsn r) then
    ((if s.openTo r.ctx (recTag r) then s.judged (recInsn r) else s).consume r).diverge r.ctx (recSeq r)
  else if s.roomFor r.ctx (recInsn r) then (s.consume r).accept r.ctx (recSeq r) (recInsn r) 0
  else s.judged (recInsn r)

/-- A WRITE record in the control window: it passed its domain rules when it was recorded. -/
def State.replayWindow (s : State) (r : KorniRec) (a : Nat) (bs : List Byte) : State :=
  let s1 := s.consume r
  match windowPart a bs.length with
  | none => s1
  | some (off, p) =>
    match s1.tryWrite off ⟨none, p, partValue p bs, true⟩ with
    | .refused => s1.readFor off ⟨none, p, partValue p bs, true⟩
    | .ok s2 => s2
    | .held k c p w => s1.grant c k ((⟨none, p, w, true⟩ : Access).merge ((s1.ctx c).leaseReg k))

/-- A write of the Vat at an offset has no effect: the secure region stays zero while CLOSED is set, which live tamper and life-cycle inputs set in
replay too (14 R453; 10 R347), and what a spare map register that disagrees describes takes nothing (12 R406). -/
def State.vatShut (s : State) (o : Nat) : Bool := (s.sec.closed && decide (o / 0x100000 < s.secureSize)) || s.vatMapBad (vatSegment o)

/-- A WRITE record in the Vat. (log 47: DEDUCED.) -/
def State.replayVat (s : State) (r : KorniRec) (a : Nat) (bs : List Byte) : State :=
  let o := a - 0x40000000
  if s.segmentBusy (vatSegment o) then s
  else
    let s1 := s.readColumns o
    (if s1.vatShut o then s1 else s1.pokeBytes a bs).consume r

/-- A WRITE record, once every record before it has taken effect (10 R347). -/
def State.replayWrite (s : State) (r : KorniRec) : State :=
  let a := recQuad r 0
  let bs := (recBytes r 1).take (recCount r)
  if s.frontOwed then s
  else
    match placeOf a with
    | .window => s.replayWindow r a bs
    | .vat => s.replayVat r a bs
    | _ => (s.pokeBytes a bs).consume r

/-- A RACE record: held for transfers, or compared with what the port received. It shows whether the trace holds race data, RACEFULL of the
trace (10 R347). (log 67: DEDUCED.) -/
def State.replayRace (s : State) (r : KorniRec) : State :=
  let digest := r.arg.getLsbD 2
  let bs := (recBytes r 2).take (if digest then 8 else recQuad r 1)
  let k := { s.korni with races := s.korni.races ++ [(r.arg.toNat % 4, digest, bs)], traceFull := some (!digest) }
  ({ s with korni := k.compareRace } : State).consume r

/-- A FRONT record: the next word of the owner's fronts. -/
def State.replayFront (s : State) (r : KorniRec) : State :=
  ({ s with korni := { s.korni with words := s.korni.words ++ [r.arg.setWidth 16] } } : State).consume r

/-- A TRAIL record. -/
def State.replayTrail (s : State) (r : KorniRec) : State :=
  let k := { s.korni with trails := s.korni.trails ++ [(r.ctx.val, recSeq r, r.payload.getD 0 0)] }
  ({ s with korni := k.compareTrail } : State).consume r

/-- Replay mode, and the record lies whole below HEAD. (log 47: DEDUCED.) -/
def State.mayConsume (s : State) (r : KorniRec) : Bool :=
  s.korni.mode == 2 && decide (0 < r.len.toNat) && decide (s.korni.tail.toNat + 16 * r.len.toNat ≤ s.korni.head.toNat)

/-- KORNI_REPLAY_RECORD: the record at TAIL. (log 47: DEDUCED.) -/
def execKorniReplayRecord (r : KorniRec) (s : State) : Out :=
  whenUp s <|
    if s.mayConsume r then
      if r.typ = 2 then s.replayIssue r
      else if r.typ = 3 then s.replayWrite r
      else if r.typ = 4 then s.replayRace r
      else if r.typ = 5 then s.replayFront r
      else if r.typ = 7 then s.replayTrail r
      else s.consume r
    else s

end Sys2Proof.Machine
end

