-- ==== Sys2Proof/Machine/Dispatch.lean ====
section
/-! DEFINITION. The dispatch: one arm for each command, one meaning for each arm. -/

namespace Sys2Proof.Machine

open Sys2Proof

/-- The effect of a command on everything but the queue. -/
def exec (i : Instr) (s : State) : Host.Outcome State Fault Refusal :=
  match i with
  | .issue c tag long data par => Sys2Proof.Machine.execIssue c tag long data par s
  | .sequencerFetch c d => Sys2Proof.Machine.execSequencerFetch c d s
  | .setpat c n => Sys2Proof.Machine.execSetpat c n s
  | .setfmt c n => Sys2Proof.Machine.execSetfmt c n s
  | .fence c n => Sys2Proof.Machine.execFence c n s
  | .loopSet c => Sys2Proof.Machine.execLoopSet c s
  | .loopCount c => Sys2Proof.Machine.execLoopCount c s
  | .br c => Sys2Proof.Machine.execBr c s
  | .halt c => Sys2Proof.Machine.execHalt c s
  | .tld c n => Sys2Proof.Machine.execTld c n s
  | .tldG c n => Sys2Proof.Machine.execTldG c n s
  | .tst c n => Sys2Proof.Machine.execTst c n s
  | .tmov c n => Sys2Proof.Machine.execTmov c n s
  | .trel c n => Sys2Proof.Machine.execTrel c n s
  | .tsave c n => Sys2Proof.Machine.execTsave c n s
  | .trestore c n => Sys2Proof.Machine.execTrestore c n s
  | .perm c n => Sys2Proof.Machine.execPerm c n s
  | .permX c n => Sys2Proof.Machine.execPermX c n s
  | .sperm c n => Sys2Proof.Machine.execSperm c n s
  | .gath c n => Sys2Proof.Machine.execGath c n s
  | .scat c n => Sys2Proof.Machine.execScat c n s
  | .conv c n => Sys2Proof.Machine.execConv c n s
  | .mat8 c n => Sys2Proof.Machine.execMat8 c n s
  | .rot2 c n => Sys2Proof.Machine.execRot2 c n s
  | .trans8 c n => Sys2Proof.Machine.execTrans8 c n s
  | .matmul c n => Sys2Proof.Machine.execMatmul c n s
  | .hrot c n => Sys2Proof.Machine.execHrot c n s
  | .vld c n => Sys2Proof.Machine.execVld c n s
  | .vst c n => Sys2Proof.Machine.execVst c n s
  | .copy c n => Sys2Proof.Machine.execCopy c n s
  | .add c n => Sys2Proof.Machine.execAdd c n s
  | .sub c n => Sys2Proof.Machine.execSub c n s
  | .mul c n => Sys2Proof.Machine.execMul c n s
  | .fma c n => Sys2Proof.Machine.execFma c n s
  | .min c n => Sys2Proof.Machine.execMin c n s
  | .max c n => Sys2Proof.Machine.execMax c n s
  | .scale c n => Sys2Proof.Machine.execScale c n s
  | .cmplt c n => Sys2Proof.Machine.execCmplt c n s
  | .cmpeq c n => Sys2Proof.Machine.execCmpeq c n s
  | .rand c n => Sys2Proof.Machine.execRand c n s
  | .amax c n => Sys2Proof.Machine.execAmax c n s
  | .upd c n => Sys2Proof.Machine.execUpd c n s
  | .commit c n => Sys2Proof.Machine.execCommit c n s
  | .sort c n => Sys2Proof.Machine.execSort c n s
  | .disp c n => Sys2Proof.Machine.execDisp c n s
  | .comb c n => Sys2Proof.Machine.execComb c n s
  | .front c n => Sys2Proof.Machine.execFront c n s
  | .foldWeight c n => Sys2Proof.Machine.execFoldWeight c n s
  | .foldInput c n => Sys2Proof.Machine.execFoldInput c n s
  | .writeWatermark c n => Sys2Proof.Machine.execWriteWatermark c n s
  | .clearDigests c n => Sys2Proof.Machine.execClearDigests c n s
  | .scoreboardBegin c n => Sys2Proof.Machine.execScoreboardBegin c n s
  | .slotCommit c n slot d => Sys2Proof.Machine.execSlotCommit c n slot d s
  | .drainEnd c => Sys2Proof.Machine.execDrainEnd c s
  | .spanCheck c n span planes received => Sys2Proof.Machine.execSpanCheck c n span planes received s
  | .screenGrant => Sys2Proof.Machine.execScreenGrant s
  | .addressPathGrant => Sys2Proof.Machine.execAddressPathGrant s
  | .screenError c n => Sys2Proof.Machine.execScreenError c n s
  | .laneParityError c n unit => Sys2Proof.Machine.execLaneParityError c n unit s
  | .ctxEnable src c => Sys2Proof.Machine.execCtxEnable src c s
  | .ctxDisable src c => Sys2Proof.Machine.execCtxDisable src c s
  | .start src c => Sys2Proof.Machine.execStart src c s
  | .resume src c => Sys2Proof.Machine.execResume src c s
  | .abort src c => Sys2Proof.Machine.execAbort src c s
  | .domainWrite src c dom => Sys2Proof.Machine.execDomainWrite src c dom s
  | .secureWrite src c secure => Sys2Proof.Machine.execSecureWrite src c secure s
  | .leaseWrite src c k p v => Sys2Proof.Machine.execLeaseWrite src c k p v s
  | .leaseClearDone => Sys2Proof.Machine.execLeaseClearDone s
  | .fmtWrite src entry p v => Sys2Proof.Machine.execFmtWrite src entry p v s
  | .scurveWrite src curve hi p v => Sys2Proof.Machine.execScurveWrite src curve hi p v s
  | .tcurveWrite src reg p v => Sys2Proof.Machine.execTcurveWrite src reg p v s
  | .patQuadWrite src c reg quad p v => Sys2Proof.Machine.execPatQuadWrite src c reg quad p v s
  | .remapWrite src remap => Sys2Proof.Machine.execRemapWrite src remap s
  | .portReturn src sfail rfail => Sys2Proof.Machine.execPortReturn src sfail rfail s
  | .frontCalStart src => Sys2Proof.Machine.execFrontCalStart src s
  | .korniModeSet src mode => Sys2Proof.Machine.execKorniModeSet src mode s
  | .korniTailWrite src v => Sys2Proof.Machine.execKorniTailWrite src v s
  | .korniHeadWrite src v => Sys2Proof.Machine.execKorniHeadWrite src v s
  | .korniReplayRecord r => Sys2Proof.Machine.execKorniReplayRecord r s
  | .go src => Sys2Proof.Machine.execGo src s
  | .superWrite src c => Sys2Proof.Machine.execSuperWrite src c s
  | .pwrEnWrite src en => Sys2Proof.Machine.execPwrEnWrite src en s
  | .ccack src => Sys2Proof.Machine.execCcack src s
  | .stStart src kind unit => Sys2Proof.Machine.execStStart src kind unit s
  | .lock src => Sys2Proof.Machine.execLock src s
  | .ssizeWrite src size => Sys2Proof.Machine.execSsizeWrite src size s
  | .freeze src on => Sys2Proof.Machine.execFreeze src on s
  | .clear src => Sys2Proof.Machine.execClear src s
  | .debugHalt src mask => Sys2Proof.Machine.execDebugHalt src mask s
  | .debugStep src mask => Sys2Proof.Machine.execDebugStep src mask s
  | .registerWrite src off p v goLow => Sys2Proof.Machine.execRegisterWrite src off p v goLow s
  | .rscRead src off p => Sys2Proof.Machine.execRscRead src off p s
  | .eddyCommand write addr len id dom data be w => Sys2Proof.Machine.execEddyCommand write addr len id dom data be w s
  | .writeAck c w => Sys2Proof.Machine.execWriteAck c w s
  | .memoryReadResponse port tag data stat => Sys2Proof.Machine.execMemoryReadResponse port tag data stat s
  | .translationResponse port ttag pa fault wperm => Sys2Proof.Machine.execTranslationResponse port ttag pa fault wperm s
  | .beatTransfer ch inbound beat par => Sys2Proof.Machine.execBeatTransfer ch inbound beat par s
  | .portNak port => Sys2Proof.Machine.execPortNak port s
  | .portStall port => Sys2Proof.Machine.execPortStall port s
  | .eventTransfer => Sys2Proof.Machine.execEventTransfer s
  | .frontArrivedWritten ok => Sys2Proof.Machine.execFrontArrivedWritten ok s
  | .frontGoCount elapsed vin vpar => Sys2Proof.Machine.execFrontGoCount elapsed vin vpar s
  | .frontExit => Sys2Proof.Machine.execFrontExit s
  | .frontDoneWritten ok => Sys2Proof.Machine.execFrontDoneWritten ok s
  | .strayFrontGo => Sys2Proof.Machine.execStrayFrontGo s
  | .frontGoHeld => Sys2Proof.Machine.execFrontGoHeld s
  | .frontWaitTimeout => Sys2Proof.Machine.execFrontWaitTimeout s
  | .sidebandGlitch input => Sys2Proof.Machine.execSidebandGlitch input s
  | .glitchWindowEnd => Sys2Proof.Machine.execGlitchWindowEnd s
  | .tamperAssert noisy => Sys2Proof.Machine.execTamperAssert noisy s
  | .tamperRelease => Sys2Proof.Machine.execTamperRelease s
  | .wipeEnd cycles => Sys2Proof.Machine.execWipeEnd cycles s
  | .lifeCycleChange v par => Sys2Proof.Machine.execLifeCycleChange v par s
  | .coolClassChange v => Sys2Proof.Machine.execCoolClassChange v s
  | .throttleChange v => Sys2Proof.Machine.execThrottleChange v s
  | .quadrantLost q => Sys2Proof.Machine.execQuadrantLost q s
  | .quadrantPowerTimeout q => Sys2Proof.Machine.execQuadrantPowerTimeout q s
  | .powerInterval readings => Sys2Proof.Machine.execPowerInterval readings s
  | .islandClockChange n => Sys2Proof.Machine.execIslandClockChange n s
  | .islandClockStart n => Sys2Proof.Machine.execIslandClockStart n s
  | .temperatureSample temps => Sys2Proof.Machine.execTemperatureSample temps s
  | .tablePatrol => Sys2Proof.Machine.execTablePatrol s
  | .scrubRow found => Sys2Proof.Machine.execScrubRow found s
  | .selfTestEnd u o => Sys2Proof.Machine.execSelfTestEnd u o s
  | .spareCopyDone g spareFails => Sys2Proof.Machine.execSpareCopyDone g spareFails s
  | .vatRebuildDone seg => Sys2Proof.Machine.execVatRebuildDone seg s
  | .traceSync => Sys2Proof.Machine.execTraceSync s
  | .reset cycles => Sys2Proof.Machine.execReset cycles s
  | .resetRelease lc cool => Sys2Proof.Machine.execResetRelease lc cool s
  | .fuseDone bad => Sys2Proof.Machine.execFuseDone bad s
  | .tableDone bad => Sys2Proof.Machine.execTableDone bad s
  | .testDone failed => Sys2Proof.Machine.execTestDone failed s
  | .clearDone elapsed => Sys2Proof.Machine.execClearDone elapsed s
  | .powerLoss => Sys2Proof.Machine.execPowerLoss s
  | .quadrantPowerGood q => Sys2Proof.Machine.execQuadrantPowerGood q s
  | .traceRecordOut => Sys2Proof.Machine.execTraceRecordOut s

end Sys2Proof.Machine
end

