-- ==== Sys2Proof/Safety.lean ====
section
/-! DEFINITION. What counts as a sound state and a sound run, and the terms that the statements use: canonical stores, an instruction
that stands where its command runs it, accesses of the Vat that proceed, units that commit one after the other, an instruction's
completion, and a register write that is taken. -/

namespace Sys2Proof.Machine

/-! Canonical stores. -/

/-- Every addressed store of the block is in canonical form: the Vat, working RAM, the tiles, the row cache and the pattern
registers. Equal stores are then equal data. -/
structure State.Canon (s : State) : Prop where
  vat : bytesWf s.vat = true
  ram : bytesWf s.ram = true
  tiles : bytesWf s.tileMem = true
  cache : bytesWf s.cache = true
  pats : ∀ c : CtxId, patsWf (s.ctx c).pats = true

/-! Instructions of a window. -/

/-- The registers of the triplicated tables that an instruction reads as it begins: its part of the spare map, and the format entries that only
its sources' recorded deckles name (12 R405; 03 R87). -/
def State.startRegs (s : State) (i : Insn) : List TabReg := s.mapRegs i ++ fmtRegs (s.unnamedFmts i)

/-- The copies of all of them agree. -/
def State.agreesFor (s : State) (i : Insn) : Bool := (s.startRegs i).all s.agrees

/-- Instruction `e` of context `c`, with sequence number `n`, stands where its command runs it: the block is up, the context runs or
drains, the scoreboard has let the instruction begin and nothing of it has run or failed, the copies of the tables it needs agree
(12 R405, R406), the format entries that only its sources' recorded deckles name stand as they did at its acceptance (log 22), and the
engines, planes and Screen it needs serve (12 R392, R397; 05 R162). -/
def State.poised (s : State) (c : CtxId) (n : Seq) (e : Entry) : Bool :=
  s.up && (s.ctx c).entry n == some e && (s.ctx c).mayRun e && !e.started && e.failed.isNone && e.extra.isEmpty && e.fmtBad.isEmpty &&
    e.hit == .clean && s.agreesFor e.insn && (s.readUnnamed e).fmts == e.fmts && s.unitsServe e.insn

/-- The instruction has begun, nothing of it has failed and no unit has committed out of order, and it stands where its command runs it on:
the copies of the spare map registers that it needs agree (12 R405). -/
def State.underWay (s : State) (c : CtxId) (n : Seq) (e : Entry) : Bool :=
  s.up && (s.ctx c).entry n == some e && (s.ctx c).mayRun e && e.started && e.failed.isNone && e.extra.isEmpty &&
    e.hit == .clean && (s.mapRegs e.insn).all s.agrees && s.unitsServe e.insn

/-- The entry of an instruction that has begun. -/
def Entry.begun (e : Entry) : Entry := { e with started := true, phase := .active }

/-- An access of the Vat alone may proceed at once: its operands lie in the Vat, no byte of it faults (03 R98, 06 R495, 14 R446), the
spare map's copies agree (12 R406), and no segment of it is under test or rebuilt (12 R392, R402). -/
def State.vatReady (s : State) (c : CtxId) (rs : List Run) : Bool :=
  rs.all (fun r => inVat r.addr) && (s.lowestFault c rs).isNone && rs.all (fun r => (s.mapFault r).isNone) && !rs.any (Run.vatBusy s)

/-- A read of an instruction may proceed at once: its operands may be read, and their translations and lines are there. -/
def State.readable (s : State) (c : CtxId) (who : Nat) (rs : List Run) : Bool := s.reachRead c who rs == .ok s

/-- A write of an instruction may proceed at once. -/
def State.writable (s : State) (c : CtxId) (who : Nat) (rs : List Run) : Bool := s.reach c who true rs == .ok s

/-- Units commit in order, each from the state that the one before it left; none where one waits or faults. -/
def Parts.commits (P : Parts) (c : CtxId) : List Nat → State → Entry → Option (State × Entry)
  | [], s, e => some (s, e)
  | k :: r, s, e =>
    match P.unit c s e k with
    | .ok s1 e1 => Parts.commits P c r (s1.dropXlats c e1.seq.toNat) (e1.commitUnit k)
    | _ => none

/-- The units an instruction that has begun has still to commit. -/
def Parts.left (P : Parts) (s : State) (e : Entry) : List Nat := List.range' e.upTo (P.units s e - e.upTo)

/-- An instruction completes in `s`: its trail digest (10 R349), its count and trace record (15 R469, R473), what it was granted given
back, its entry completed, and its context settled (06 R178, R190). -/
def State.completes (s : State) (c : CtxId) (e : Entry) : State := (s.trail c e.seq e.insn.opcode (s.trailParts e)).complete c e

/-- The outcome of an instruction with parts `P` that has begun as `e` in `s` and runs whole: its units commit in order and it
completes. -/
def Parts.Whole (P : Parts) (c : CtxId) (s : State) (e : Entry) (out : Out) : Prop :=
  ∃ t f, P.commits c (P.left s e) s e = some (t, f) ∧ out = .next ((P.finish c t f).completes c f)

/-! What the statements say of an instruction's results. -/

/-- The checks of a transfer into tiles: the instruction's own deckle, a destination it resumes (03 R97), engines out of service
(12 R400). -/
def State.loadChecks (s : State) (e : Entry) (own : Option FaultRec) (dests : List (Nat × Nat)) : Option FaultRec :=
  firstOf own fun _ => firstOf (if 0 < e.first then s.laterCheck (e.insn.q 1) dests else none) fun _ => s.outCheck e.insn.operandTiles

/-- A byte store after the Vat pieces of a write, in order. -/
def vatAfter (m : Bytes) (ps : List (Run × List Byte)) : Bytes :=
  ps.foldl (fun m p => putBytes m (vatOffset p.1.addr) (p.2.take p.1.len)) m

/-- Tile `n` holds `bs` from its first byte, recorded with `word`, in use and whole (03 R86). -/
def State.tileHolds (t : State) (n : Nat) (word : Quad) (bs : List Byte) : Prop :=
  t.tile n = { deckle := word, inUse := true, incomplete := false, lost := false } ∧ t.tileBytes n 0 bs.length = bs

/-- What the last use of source tile `n` leaves of its state in `t`: IN_USE is cleared where the flag is set, all else as in `s`
(03 R90). -/
def State.usedIn (s t : State) (n : Nat) (last : Bool) : Prop :=
  t.tile n = if last then { s.tile n with inUse := false } else s.tile n

/-- The units that an instruction has still to run. -/
def Entry.unitsLeft (e : Entry) (total : Nat) : List Nat := List.range' e.upTo (total - e.upTo)

/-- CK_CTX_RCHK after an instruction that crosses planes with the check value `v`: it is the value of the last one in program order, so it
stands where a later one has completed first (05 R160; 06 R191; log 64). -/
def State.rchkAfter (s : State) (c : CtxId) (e : Entry) (v : Quad) : Quad := if (s.ctx c).crossedLater e.seq then (s.ctx c).rchk else v

/-- The step that an island stands at, or goes to at the next boundary of its clock (13 R416). -/
def Island.goal (i : Island) : BitVec 5 := i.target.getD i.step

/-- An instruction has faulted: its context does not run it further, and its entry holds the fault with its completed count
(06 R197). -/
def State.faulted (t : State) (c : CtxId) (n : Seq) (k : Nat) (f : FaultRec) : Prop :=
  ∃ e, (t.ctx c).entry n = some e ∧ e.phase = .faulted ∧ e.fault = some (k, f)

end Sys2Proof.Machine

namespace Sys2Proof

open Machine

/-- The instruction that a command of a window runs: its context and its sequence number. -/
def Instr.runs (i : Instr) : Option (CtxId × Seq) :=
  match i with
  | .setpat c n => some (c, n)
  | .setfmt c n => some (c, n)
  | .fence c n => some (c, n)
  | .tld c n => some (c, n)
  | .tldG c n => some (c, n)
  | .tst c n => some (c, n)
  | .tmov c n => some (c, n)
  | .trel c n => some (c, n)
  | .tsave c n => some (c, n)
  | .trestore c n => some (c, n)
  | .perm c n => some (c, n)
  | .permX c n => some (c, n)
  | .sperm c n => some (c, n)
  | .gath c n => some (c, n)
  | .scat c n => some (c, n)
  | .conv c n => some (c, n)
  | .mat8 c n => some (c, n)
  | .rot2 c n => some (c, n)
  | .trans8 c n => some (c, n)
  | .matmul c n => some (c, n)
  | .hrot c n => some (c, n)
  | .vld c n => some (c, n)
  | .vst c n => some (c, n)
  | .copy c n => some (c, n)
  | .add c n => some (c, n)
  | .sub c n => some (c, n)
  | .mul c n => some (c, n)
  | .fma c n => some (c, n)
  | .min c n => some (c, n)
  | .max c n => some (c, n)
  | .scale c n => some (c, n)
  | .cmplt c n => some (c, n)
  | .cmpeq c n => some (c, n)
  | .rand c n => some (c, n)
  | .amax c n => some (c, n)
  | .upd c n => some (c, n)
  | .commit c n => some (c, n)
  | .sort c n => some (c, n)
  | .disp c n => some (c, n)
  | .comb c n => some (c, n)
  | .front c n => some (c, n)
  | .foldWeight c n => some (c, n)
  | .foldInput c n => some (c, n)
  | .writeWatermark c n => some (c, n)
  | .clearDigests c n => some (c, n)
  | _ => none

/-- The kind of instruction that a command of a window runs. -/
def Instr.takes (i : Instr) (x : Insn) : Bool :=
  match i with
  | .setpat _ _ => isOp .setpat x
  | .setfmt _ _ => isOp .setfmt x
  | .fence _ _ => isOp .fence x
  | .tld _ _ => isOp .tld x
  | .tldG _ _ => isOp .tldG x
  | .tst _ _ => isOp .tst x
  | .tmov _ _ => isOp .tmov x
  | .trel _ _ => isOp .trel x
  | .tsave _ _ => isOp .tsave x
  | .trestore _ _ => isOp .trestore x
  | .perm _ _ => isOp .perm x
  | .permX _ _ => isOp .permX x
  | .sperm _ _ => isOp .sperm x
  | .gath _ _ => isOp .gath x
  | .scat _ _ => isOp .scat x
  | .conv _ _ => isOp .conv x
  | .mat8 _ _ => isPress 0 x
  | .rot2 _ _ => isPress 1 x
  | .trans8 _ _ => isPress 2 x
  | .matmul _ _ => isPress 3 x
  | .hrot _ _ => isOp .hrot x
  | .vld _ _ => isOp .vld x
  | .vst _ _ => isOp .vst x
  | .copy _ _ => isVop 0 x
  | .add _ _ => isVop 1 x
  | .sub _ _ => isVop 2 x
  | .mul _ _ => isVop 3 x
  | .fma _ _ => isVop 4 x
  | .min _ _ => isVop 5 x
  | .max _ _ => isVop 6 x
  | .scale _ _ => isVop 7 x
  | .cmplt _ _ => isVop 8 x
  | .cmpeq _ _ => isVop 9 x
  | .rand _ _ => isVop 10 x
  | .amax _ _ => isOp .amax x
  | .upd _ _ => isOp .upd x
  | .commit _ _ => isOp .commit x
  | .sort _ _ => isOp .sort x
  | .disp _ _ => isOp .disp x
  | .comb _ _ => isOp .comb x
  | .front _ _ => isOp .front x
  | .foldWeight _ _ => isWmark 0 x
  | .foldInput _ _ => isWmark 1 x
  | .writeWatermark _ _ => isWmark 2 x
  | .clearDigests _ _ => isWmark 3 x
  | _ => false

end Sys2Proof

namespace Sys2Proof.Machine

/-- The bytes that a TST, a VST or a SCAT stores for slot `k` (06 R206, R214; 07 R236). -/
def State.tstWrites (s : State) (e : Entry) (k : Nat) : List (Run × List Byte) :=
  shareOut (e.insn.image.slotRuns e.shape k) (slotImage e.shape (s.relaid e) k)
def State.vstWrites (s : State) (e : Entry) (k : Nat) : List (Run × List Byte) :=
  shareOut (e.columnRuns k) (slotImage e.shape (s.relaid e) k)
def State.scatWrites (s : State) (e : Entry) (k : Nat) : List (Run × List Byte) :=
  let ps := (slotImgBytes e.shape k).filterMap fun b =>
    (e.rowOf true b.line).map fun x => (e.insn.rowPlace x b.off, (s.relaid e).getD b.tile 0)
  shareOut (runsOf (ps.map Prod.fst)) (ps.map Prod.snd)

/-- The stores of an instruction's remaining slots, in order. -/
def Entry.allWrites (e : Entry) (w : Nat → List (Run × List Byte)) : List (Run × List Byte) := (e.unitsLeft e.shape.slots).flatMap w

/-- The places of a GATH's slot `k` that it reads. -/
def Entry.gathRuns (e : Entry) (k : Nat) : List Run := runsOf ((e.gathBytes k).filterMap Prod.snd)

/-- The operands that unit `u` of a VOP reads of the Vat: A, then B, then D. -/
def Entry.vopA (e : Entry) (u : Nat) : List Run :=
  if vopReadsA e.insn.vopOp then
    [denseRun (vatAddr e.insn.vopSrcA) (e.widthOf e.insn.afmt) (unitFirst u) (unitCount e.insn.deckle.count u)] else []
def Entry.vopB (e : Entry) (u : Nat) : List Run :=
  if vopReadsB e.insn.vopOp then
    [denseRun (vatAddr e.insn.vopSrcB) (e.widthOf e.insn.bfmt) (unitFirst u) (unitCount e.insn.deckle.count u)]
  else []
def Entry.vopD (e : Entry) (u : Nat) : Run :=
  denseRun (vatAddr e.insn.vopDst) (streamC e.fmts e.insn.deckle) (unitFirst u) (unitCount e.insn.deckle.count u)
/-- The bytes of unit `u`'s destination that it covers in part. -/
def Entry.vopEdges (e : Entry) (u : Nat) : List Run :=
  denseEdges (vatAddr e.insn.vopDst) (streamC e.fmts e.insn.deckle) (unitFirst u) (unitCount e.insn.deckle.count u)

/-- Unit `u` of a VOP may proceed: its segment serves, and all its operands are ready. -/
def State.vopReady (s : State) (c : CtxId) (e : Entry) (u : Nat) : Bool :=
  !s.segmentBusy (u % 16) && s.vatReady c (e.vopA u ++ e.vopB u ++ e.vopEdges u ++ [e.vopD u])

/-- The codes that unit `u` of a VOP computes from the Vat as it stands in `s` (07 R237 to R239). -/
def State.vopUnitCodes (s : State) (c : CtxId) (e : Entry) (u : Nat) : List Nat :=
  let who := e.seq.toNat
  let m := unitCount e.insn.deckle.count u
  let codes (w : Nat) (rs : List Run) : Array Nat := (denseCodes w w (unitFirst u) m (s.readBytes c who rs)).toArray
  let d := streamC e.fmts e.insn.deckle
  let dv := (denseCodes d (e.widthOf e.insn.deckle.fmt) (unitFirst u) m
    (s.readBytes c who (if vopReadsD e.insn.vopOp then [e.vopD u] else []))).toArray
  e.vopCodes (unitFirst u) (codes (e.widthOf e.insn.afmt) (e.vopA u)) (codes (e.widthOf e.insn.bfmt) (e.vopB u)) dv (fp32At (e.rcd.getD []) 0) m

/-- The entry once the scale record at `a` has been read (07 R221). -/
def State.withScale (s : State) (c : CtxId) (e : Entry) (a : Int) : Entry :=
  { e with rcd := some (s.readBytes c e.seq.toNat [scaleRun a]) }

/-- What the descriptor of an instruction gives it: the entry once the 128 bytes have been read (07 R221). -/
def State.withDesc (s : State) (c : CtxId) (e : Entry) : Entry :=
  { e with rcd := some (s.readBytes c e.seq.toNat [run e.insn.base 128]) }

/-- The images that unit `u` of an UPD reads and writes; parity `p` is current (07 R244). -/
def Entry.updPiece (e : Entry) (u k : Nat) : Run :=
  denseRun (e.updBase k) (e.updC k) (unitFirst u) (unitCount e.insn.deckle.count u)
def Entry.updRuns (e : Entry) (u : Nat) : List Run := (List.range 9).map (e.updPiece u)

/-- What no instruction of context `c` changes: the rest of the block, and every other context. -/
structure State.SameOutside (s t : State) (c : CtxId) : Prop where
  pending : t.pending = s.pending
  powered : t.powered = s.powered
  inReset : t.inReset = s.inReset
  clock : t.clock = s.clock
  ans : t.ans = s.ans
  resp : t.resp = s.resp
  evtHeld : t.evtHeld = s.evtHeld
  leaseWaits : t.leaseWaits = s.leaseWaits
  fuses : t.fuses = s.fuses
  glob : t.glob = s.glob
  felt : t.felt = s.felt
  sb : t.sb = s.sb
  pwr : t.pwr = s.pwr
  islands : t.islands = s.islands
  evtPtr : t.evtPtr = s.evtPtr
  evtOut : t.evtOut = s.evtOut
  tileOwner : t.tileOwner = s.tileOwner
  regionOwner : t.regionOwner = s.regionOwner
  ram : t.ram = s.ram
  st : t.st = s.st
  sec : t.sec = s.sec
  ctxs : ∀ d, d ≠ c → t.ctx d = s.ctx d

/-- What no instruction but FRONT changes of its own context: the settings, the position of its program, the fault record, the streams,
the leases and the program digest. The other fields move with the window or belong to instructions of their own. -/
structure Ctx.SameSetup (x y : Ctx) : Prop where
  en : y.en = x.en
  prog : y.prog = x.prog
  qos : y.qos = x.qos
  secure : y.secure = x.secure
  domain : y.domain = x.domain
  accepted : y.accepted = x.accepted
  reject : y.reject = x.reject
  pc : y.pc = x.pc
  fpc : y.fpc = x.fpc
  code : y.code = x.code
  valid : y.valid = x.valid
  drained : y.drained = x.drained
  fseq : y.fseq = x.fseq
  count : y.count = x.count
  finfo : y.finfo = x.finfo
  doneBits : y.doneBits = x.doneBits
  seeds : y.seeds = x.seeds
  steps : y.steps = x.steps
  autos : y.autos = x.autos
  lcnt : y.lcnt = x.lcnt
  tlease : y.tlease = x.tlease
  vlease : y.vlease = x.vlease
  vote : y.vote = x.vote
  committed : y.committed = x.committed
  skipped : y.skipped = x.skipped
  fronts : y.fronts = x.fronts
  gen : y.gen = x.gen
  digP : y.digP = x.digP
  digN : y.digN = x.digN
  credits : y.credits = x.credits

/-- A Vat offset lies in one of some runs. -/
def inRuns (rs : List Run) (o : Nat) : Prop :=
  ∃ r ∈ rs, r.addr ≤ ((0x40000000 + o : Nat) : Int) ∧ ((0x40000000 + o : Nat) : Int) < r.addr + (r.len : Int)

/-! Register writes. -/

/-- The Korni record's payload of a register write (10 R345). -/
def writeRecord (off : Nat) (p : Part) (v : Quad) : List Byte := writePayload (windowAddr off p) (partBytes p v)

/-- The control window takes a write of `v` at an offset from a source: the block is up, nothing of the write's identifier is unanswered
(11 R357), its phase admits the register (16 R481), replay does not close it (10 R347), and a record of it has room in the ring, to which
a write of TAIL adds what it frees (10 R346). -/
def State.takesWrite (s : State) (src : Source) (id : BitVec 4) (off : Nat) (p : Part) (v : Quad) : Bool :=
  s.up && !s.idWaits src id && decide (off % 8 = 0) && !s.phaseBars (regAt off) && s.replayTakes (regAt off) (s.srcDomain src) &&
    (!s.recordsWrite src ||
      (s.roomAt off (s.tryWrite off ⟨some (s.srcDomain src), p, v, true⟩)).korniRoom (korniLen (writeRecord off p v)) false)

/-- After a write whose effect on `s` is `t`: its record in record mode (10 R345), and its response where it came from the eddy port. -/
def State.written (s : State) (src : Source) (id : BitVec 4) (off : Nat) (p : Part) (v : Quad) (t : State) : State :=
  (t.putWrite (s.recordsWrite src) off p v).answer src id false

/-- The write comes from the supervisor domain (06 R184, 14 R444). -/
def State.superSrc (s : State) (src : Source) : Bool := s.fromSuper (s.srcDomain src)

/-- The write comes from a domain that may write context `c`'s own registers (14 R444). -/
def State.ownerSrc (s : State) (c : CtxId) (src : Source) : Bool := s.ctxDomain c (s.srcDomain src)

/-- In `t` table register `r` has taken a write of `s`: a write of bits 31:0 waits; one of bits 63:32 takes effect with the half that waits,
or else the one that stands; one of the whole register takes effect, and no half waits any more; `fix` is what the register makes of a
value (02 R50; 09 R298; 13 R431). -/
def State.tableTakes (s t : State) (r : TabReg) (p : Part) (v : Quad) (fix : Quad → Quad) : Prop :=
  (∀ q : TabReg, q ≠ r → q.get t.tab = q.get s.tab) ∧
    match p with
    | .low => r.get t.tab = r.get s.tab ∧ t.stagedLow r = some (v.setWidth 32)
    | .high => t.stagedLow r = none ∧
        t.tabVal r = fix ((v &&& 0xFFFFFFFF00000000) ||| ((s.stagedLow r).getD ((s.tabVal r).setWidth 32)).setWidth 64)
    | .whole => t.stagedLow r = none ∧ t.tabVal r = fix v

/-! More of the instructions' results. -/

/-- The image of a fold, and the partial sum over it as the memory stands in `s` (10 R336). -/
def Entry.foldRun (e : Entry) : Run := denseRun e.insn.base (streamC e.fmts e.insn.deckle) 0 e.insn.deckle.count
def State.foldOf (s : State) (c : CtxId) (e : Entry) : Quad :=
  let d := e.insn.deckle
  BitVec.ofNat 64 (foldSum d.fmt e.insn.stride
    (denseCodes (streamC e.fmts d) (e.widthOf d.fmt) 0 d.count (s.readBytes c e.seq.toNat [e.foldRun])))

/-- The values that a CONV rounds: its source's, scaled (07 R227). -/
def State.convVals (s : State) (c : CtxId) (e : Entry) : Array Val :=
  (s.srcVals e.fmts (e.insn.srcA e.insn.wordA)).map
    (scaled e.insn.smode (fp32At (s.readBytes c e.seq.toNat [scaleRun e.insn.srec]) 0))

/-- The values of an HROT's source ream, by ream index, and what it makes of them before the final rounding (07 R232 to R234). -/
def State.hrotVals (s : State) (e : Entry) : Array Val :=
  rotateReam e.insn.hrotLog e.insn.hrotInv (fun k => (squallWord e.coord 0x02 0 k).testBit 31)
    ((e.insn.hrotSources.flatMap fun o => (s.srcVals e.fmts o).toList).toArray)

/-- The images of a SPERM whose domain fits its ream, and the codes it delivers (04 R140). -/
def Entry.spermFrom (e : Entry) : Run := denseRun e.insn.spermSrc e.spermC 0 e.spermN
def Entry.spermTo (e : Entry) : Run := denseRun e.insn.spermDst e.spermC 0 e.spermN
def Entry.spermEdges (e : Entry) : List Run := denseEdges e.insn.spermDst e.spermC 0 e.spermN
def State.spermCodes (s : State) (c : CtxId) (e : Entry) : List Nat :=
  let who := e.seq.toNat
  let codes := (denseCodes e.spermC e.spermW 0 e.spermN (s.runBytes c who e.spermFrom)).toArray
  let es := listEntries e.spermN (s.readBytes c who (e.chain.listRuns e.spermN))
  (List.range e.spermN).map fun d => codes.getD (chainPull es e.chain.links d) 0

/-- The check value of such a SPERM's one round (04 R142; 05 R156). -/
def State.spermCheck (s : State) (c : CtxId) (e : Entry) : Quad :=
  let who := e.seq.toNat
  let codes := (denseCodes e.spermC e.spermW 0 e.spermN (s.runBytes c who e.spermFrom)).toArray
  let pi := pullArray e.chain e.spermN (listEntries e.spermN (s.readBytes c who (e.chain.listRuns e.spermN)))
  unitCheck e.spermC e.spermN pi (chainLinear e.chain e.spermN pi) codes

/-- The record of an AMAX with the curve it names, the largest absolute value of its image, and the new record (07 R242; 09 R300). -/
def Entry.recRun (e : Entry) : Run := runAt e.insn.recAt e.insn.recAt 512
def Entry.amaxRun (e : Entry) : Run := denseRun e.insn.amaxSrc (streamC e.fmts e.insn.deckle) 0 e.insn.deckle.count
def State.amaxCurve (s : State) (c : CtxId) (e : Entry) : Nat := numAt (s.readBytes c e.seq.toNat [e.recRun]) 13 1
def State.amaxMost (s : State) (c : CtxId) (e : Entry) : Val :=
  let d := e.insn.deckle
  valMaxAbs ((denseCodes (streamC e.fmts d) (e.widthOf d.fmt) 0 d.count (s.readBytes c e.seq.toNat [e.amaxRun])).map
    (elemVal (fmtAt e.fmts d.fmt)))
def State.amaxRecord (s : State) (c : CtxId) (e : Entry) : List Byte :=
  let bs := s.readBytes c e.seq.toNat [e.recRun]
  let k := s.curve (s.amaxCurve c e)
  foldRecord (bs ++ leBytes 8 k.lo.toNat ++ leBytes 8 k.hi.toNat) e.step.toNat (codeOf32 (s.amaxMost c e)) e.insn.amaxFinal
    (s.ctx c).skipped

/-- What unit `u` of an UPD computes from the current images, and where it stores it (07 R244). -/
def State.updOut (s : State) (c : CtxId) (e : Entry) (u : Nat) : List Updated :=
  let p := s.parity c
  let m := unitCount e.insn.deckle.count u
  let codes (k w : Nat) : Array Nat :=
    (denseCodes (e.updC k) w (unitFirst u) m (s.runBytes c e.seq.toNat (e.updPiece u k))).toArray
  let f := fmtAt e.fmts e.insn.deckle.fmt
  (List.range m).map fun j =>
    updElement e e.insn.sel (fun d => e.srWord d (unitFirst u + j)) (floatVal f ((codes 0 f.width).getD j 0))
      (floatVal fp32 ((codes (1 + p) 16).getD j 0 * 65536 + (codes (3 + p) 16).getD j 0)) (floatVal fp32 ((codes (5 + p) 32).getD j 0))
      (floatVal fp32 ((codes (7 + p) 32).getD j 0))
def State.updStores (s : State) (c : CtxId) (e : Entry) (u : Nat) : List (Run × List Byte) :=
  let t := 1 - s.parity c
  let out := s.updOut c e u
  [(e.updPiece u (1 + t), out.flatMap fun x => leBytes 2 (x.weight / 65536)), (e.updPiece u (3 + t), out.flatMap fun x => leBytes 2 x.weight),
    (e.updPiece u (5 + t), out.flatMap fun x => leBytes 4 x.first), (e.updPiece u (7 + t), out.flatMap fun x => leBytes 4 x.second)]

/-- The sorted records of a SORT and its keys (07 R249); the results of a DISP (R250, R251). -/
def State.sortedOf (s : State) (c : CtxId) (e : Entry) : List Nat × List SortRec :=
  let n := e.scCount
  let w := fixedBytes (e.scFmt 0)
  let bs := s.readBytes c e.seq.toNat e.sortIns
  let keys := wordsAt w n bs
  (keys, sortedRecs (fmtAt [] (e.scFmt 0)) e.sortDesc keys (if e.sortIota then List.range n else wordsAt 4 n (bs.drop (w * n))))
def State.dispatchedOf (s : State) (c : CtxId) (e : Entry) : Dispatched := e.dispResult (s.readBytes c e.seq.toNat e.dispIns)

/-- The weights and the combine list of a COMB, the expert output rows its list names, and the bytes of output row `t` (07 R252). -/
def State.combLists (s : State) (c : CtxId) (e : Entry) : List Nat × List Nat :=
  let bs := s.readBytes c e.seq.toNat e.combIns
  let wa := fixedBytes (e.scFmt 0)
  (wordsAt wa e.scEntries bs, wordsAt 4 e.scEntries (bs.drop (wa * e.scEntries)))
def State.combNamed (s : State) (c : CtxId) (e : Entry) : List Nat := ((s.combLists c e).2.filter fun x => !isHole x).eraseDups
def State.combBytes (s : State) (c : CtxId) (e : Entry) (t : Nat) : List Byte :=
  (e.combRowCodes (s.combLists c e).1.toArray (s.combLists c e).2.toArray
    (fun x => (wordsAt (fixedBytes (e.scFmt 1)) e.scCap (s.runBytes c e.seq.toNat (e.combRow x))).toArray) t).flatMap
      (leBytes (fixedBytes (e.scFmt 2)))

/-- A Screen instruction may run: it holds the sorter, and its descriptor can be read. -/
def State.screenReady (s : State) (c : CtxId) (e : Entry) : Bool :=
  e.granted && decide (e.upTo = 0) && s.vatReady c [run e.insn.base 128]

/-- The changes of 07 R255 to a context with a reduced word, as `y` has them. -/
structure Ctx.FrontDone (x y : Ctx) (word : BitVec 16) (cmt : Bool) : Prop where
  vote : y.vote = word
  fronts : y.fronts = x.fronts + 1
  gen : y.gen = if cmt && word.getLsbD 0 && word.getLsbD 1 then x.gen + 1 else x.gen
  committed : y.committed = if cmt then word.getLsbD 0 && word.getLsbD 1 else x.committed
  skipped : y.skipped = if cmt then !word.getLsbD 0 else x.skipped
  sealedGen : y.sealedGen = if cmt then false else x.sealedGen
  nonfinite : y.nonfinite = if cmt then false else x.nonfinite
  steps : ∀ i : Fin 8, y.steps[i] = if x.autos.getLsbD i.val then x.steps[i] + 1 else x.steps[i]

/-- A register write of the control window in whole would be taken (what is written matters to that for TAIL alone). -/
def State.opens (s : State) (src : Source) (id : BitVec 4) (off : Nat) : Bool := s.takesWrite src id off .whole 0

/-- A context's offer comes in the order of 08 R263: its distance from the one next after the pointer. -/
def turnOf (p c : Fin 8) : Nat := (c.val + 7 - p.val) % 8

end Sys2Proof.Machine
end

