-- ==== Sys2Proof/WellFormed.lean ====
section
/-! DEFINITION. The commands whose operands have the sizes and ranges their rules give them. A meaning is defined on every
command; a sender sends well-formed ones. -/

namespace Sys2Proof

/-- A stream port's beat carries up to 1,024 bytes, a race port's up to 256 (11 R376). -/
def beatLimit (port : Fin 12) : Nat := if port.val < 8 then 1024 else 256

/-- The bytes in the beats of an eddy write (11 R381). -/
def eddyBeats (addr : BitVec 48) (len : BitVec 6) : Nat := (addr.toNat % 8 + len.toNat + 8) / 8 * 8

/-- A write command has the bytes and byte enables of its beats, a read command none (11 R381). -/
def wfEddy (write : Bool) (addr : BitVec 48) (len : BitVec 6) (data : List Byte) (be : List Bool) : Bool :=
  let n := if write then eddyBeats addr len else 0
  decide (data.length = n) && decide (be.length = n)

/-- LEN of a record counts its header and its payload in units of 16 bytes (10 R344). -/
def wfRecord (r : KorniRec) : Bool := decide (16 * r.len.toNat = 16 + 8 * r.payload.length)

/-- The outcome is one the unit's test can have: bit lines and lanes are parts of Vat macros, slices of the Screen, line ways of a row cache
slice (12 R402, R403). -/
def wfOutcome (u : TestUnit) (o : TestOutcome) : Bool :=
  match o with
  | .pass => true
  | .fail => true
  | .badLine _ _ => match u with | .macroOf _ _ => true | _ => false
  | .badLane _ => match u with | .macroOf _ _ => true | _ => false
  | .badSlice _ => match u with | .screen => true | _ => false
  | .badWays _ => match u with | .cacheSlice _ => true | _ => false

/-- A beat carries at least one byte and at most as many as its port's, with a parity bit for each byte of the channel (11 R370, R376). One of
the eddy port's response channel is outbound and has 8 bytes and no parity (11 R381). -/
def wfBeat (ch : Channel) (inbound : Bool) (b : Beat) (par : List Bool) : Bool :=
  match ch with
  | .port p => decide (1 ≤ b.count ∧ b.count ≤ b.data.length ∧ b.data.length ≤ beatLimit p) && decide (par.length = b.data.length)
  | .eddy => !inbound && decide (b.count = 8 ∧ b.data.length = 8 ∧ par.length = 0)

/-- The operands of a command are within its rule. -/
def Instr.wf (i : Instr) : Bool :=
  match i with
  | .spanCheck _ _ _ planes _ => planes != 0
  | .korniReplayRecord r => wfRecord r
  | .eddyCommand write addr len _ _ data be _ => wfEddy write addr len data be
  | .memoryReadResponse _ _ data _ => decide (data.length = 512)
  | .beatTransfer ch inbound beat par => wfBeat ch inbound beat par
  | .frontGoCount elapsed _ _ => decide (8 ≤ elapsed)
  | .wipeEnd cycles => decide (cycles ≤ 8000)
  | .powerInterval readings => decide (readings.length = 121)
  | .temperatureSample temps => decide (temps.length = 121)
  | .selfTestEnd u o => wfOutcome u o
  | .testDone failed => failed.all fun f => wfOutcome f.1 f.2 && f.2 != TestOutcome.pass
  | .reset cycles => decide (1 ≤ cycles)
  | _ => true

end Sys2Proof
end

