-- ==== Sys2Proof/Certificates/Slice0/Obligations.lean ====
section
/-! DEFINITION. The statements for the provers. -/

open Sys2Proof Sys2Proof.Machine

/-! The block. -/

/-- A step carries out the command at the front of the queue on the state with the queue's rest; with an empty queue it is the idle tick
(log 1, the model's choice). -/
def Obligations.StepRunsFront : Prop :=
  ∀ (c : Instr) (r : List Instr) (s : State),
    (s.pending = c :: r → step s = exec c { s with pending := r }) ∧ (s.pending = [] → step s = .next s.tick)

/-- 11 R384: an assertion of RST_N for 4 or more cycles resets the whole block, and a shorter one is ignored. What is not the block's own
stands: the queue, the fuse bank and the number of the next open value.
13 R437: loss of power leaves a block without power that holds nothing but its fuses; it comes back through reset. The queue and the
number of the next open value are the model's own and stand. -/
def Obligations.ResetAndPowerLoss : Prop :=
  (∀ (s : State) (k : Nat),
    (4 ≤ k → exec (.reset k) s = .next { State.reset with pending := s.pending, fuses := s.fuses, freeCtr := s.freeCtr }) ∧
    (k < 4 → exec (.reset k) s = .next s)) ∧
  (∀ s : State, ∃ t, exec .powerLoss s = .next t ∧ t.powered = false ∧ t.up = false ∧
    t = { State.reset with powered := false, pending := s.pending, fuses := s.fuses, freeCtr := s.freeCtr } ∧
    ∃ u, exec (.reset 4) t = .next u ∧ u.powered = true)

/-- The state after reset meets the invariant of `StepKeepsCanon`. -/
def Obligations.ResetCanon : Prop := State.reset.Canon

/-- Every step keeps every addressed store in canonical form: the Vat, working RAM, the tiles, the row cache and the
pattern registers, from every state that has them so. -/
def Obligations.StepKeepsCanon : Prop := ∀ s t : State, s.Canon → step s = .next t → t.Canon

/-- Every command has a next state in every state: none faults, and none is refused (a command that is not due changes nothing: log 2; a
write of the reserved MODE 3 is held: log 66). -/
def Obligations.EveryCommandRuns : Prop := ∀ (i : Instr) (s : State), ∃ t, exec i s = .next t

/-- 14 R442: after reset every owner tag is none, and no register reads an owner tag: the value of every register is the same whatever
the tags are. -/
def Obligations.OwnerTagsUnread : Prop :=
  (∀ n, n < 512 → State.reset.ownerOf (.tile 0) n = none) ∧ (∀ n, n < 128 → State.reset.ownerOf (.vat 0) n = none) ∧
  ∀ (s : State) (a : Vector (Option SecDomain) 512) (b : Vector (Option SecDomain) 128) (r : Reg),
    ({ s with tileOwner := a, regionOwner := b } : State).regVal r = s.regVal r

/-! Reset and bring-up. -/

/-- 15 R454, R456, R457: release of reset begins FUSE with the life-cycle state and cooling class counted; FUSE loads what the fuses hold
and goes on to TABLES, or to FAILED at an uncorrectable word; TABLES applies the boot records and goes on to HOLD, or to FAILED. -/
def Obligations.BringUpLoads : Prop :=
  (∀ (s : State) (lc cool : BitVec 2), s.powered = true → s.inReset = true →
    ∃ t, exec (.resetRelease lc cool) s = .next t ∧ t.up = true ∧ t.clock = 0 ∧ t.glob.bu = 0 ∧ t.sec.lc = lc ∧ t.pwr.ccount = cool ∧
      t.pwr.cls = (if cool = 3 then 0 else cool) ∧ t.ctxs = s.ctxs ∧ t.tiles = s.tiles ∧ t.vat = s.vat ∧ t.tab = s.tab) ∧
  (∀ s : State, s.up = true → s.glob.bu = 0 →
    (∃ t, exec (.fuseDone false) s = .next t ∧ t.glob.bu = 1 ∧ t.glob.grade = s.fuses.grade ∧ t.glob.bitClass = s.fuses.bitClass ∧
      t.glob.dieId = s.fuses.dieId ∧ t.glob.fuseRev = s.fuses.fuseRev ∧ t.tabVal .spareRet = s.fuses.retired ∧
      t.tabVal .spareEng = s.fuses.spareEng ∧ t.tabVal .sparePlane = s.fuses.sparePlane ∧ t.ctxs = s.ctxs ∧ t.vat = s.vat) ∧
    (∃ t, exec (.fuseDone true) s = .next t ∧ t.glob.bu = 6 ∧ t.glob.fuseBad = true ∧ t.tab = s.tab)) ∧
  (∀ s : State, s.up = true → s.glob.bu = 1 →
    (∃ t, exec (.tableDone false) s = .next t ∧ t.glob.bu = 2 ∧ t.tabVal (.scurve 0) = 0x7F82000043E00000 ∧ t.tabVal (.scurve 1) = 0xF4 ∧
      t.tabVal (.tcls 0) = 0x00000010E55F2800 ∧ t.tabVal (.tcls 1) = 0x00000008E5694D80 ∧ t.tabVal (.tcls 2) = 0x00000008E5644880 ∧
      t.tabVal .tcrit = 0x73 ∧ t.ctxs = s.ctxs ∧ t.vat = s.vat) ∧
    (∃ t, exec (.tableDone true) s = .next t ∧ t.glob.bu = 6 ∧ t.glob.romBad = true ∧ t.tab = s.tab))

/-- 15 R461: in TEST the quadrants are powered one after the other, each report within 2^16 reference e-cycles of its QPWR_EN closing the next
one's switch; a quadrant that does not report by then is lost at that moment (12 R404), with LOST in all its tiles, also where a report comes
later (which counts then for nothing but QPWR_OK: log 58); and when the tests have ended bring-up goes on to CLEAR, with STFAIL set where a
unit that the tests cover failed. An engine that a map written in HOLD marks retired is replaced by its free spare, without STFAIL (the
model's reading: log 58). Where the copies of a register of the spare map all differ, what repair would do waits: QLOST for a write that ends
the disagreement, and the end of the tests with it (12 R406; the model's reading: log 44). -/
def Obligations.QuadrantsPowerUp : Prop :=
  (∀ (s : State) (q : Fin 4), s.up = true → s.powering q = true → s.clock ≤ s.pwr.qpwrAt + 2 ^ 16 → s.sb.qpnoisy.getLsbD q.val = false →
    ∃ t, exec (.quadrantPowerGood q) s = .next t ∧ t.pwr.qpwrOk.getLsbD q.val = true ∧ t.glob.quads = s.glob.quads + 1 ∧
      (∀ r : Fin 4, r.val = q.val + 1 → t.pwr.qpwrEn.getLsbD r.val = true ∧ t.pwr.qpwrAt = s.clock) ∧ t.tiles = s.tiles ∧
      t.ctxs = s.ctxs ∧ t.tab = s.tab) ∧
  (∀ (s : State) (q : Fin 4) (good : Bool), s.up = true → s.powering q = true →
    (good = true → s.pwr.qpwrAt + 2 ^ 16 < s.clock ∧ s.clock ≤ s.pwr.qpwrAt + 2 * 2 ^ 16) →
    ∃ t, exec (if good then .quadrantPowerGood q else .quadrantPowerTimeout q) s = .next t ∧ t.glob.quads = s.glob.quads + 1 ∧
      t.clock = max s.clock (s.pwr.qpwrAt + 2 ^ 16) ∧ t.pwr.qpwrOk.getLsbD q.val = (s.pwr.qpwrOk.getLsbD q.val || good) ∧
      t.pwr.qpwrEn.getLsbD q.val = false ∧
      (∀ r : Fin 4, r.val = q.val + 1 → t.pwr.qpwrEn.getLsbD r.val = true ∧ t.pwr.qpwrAt = s.pwr.qpwrAt + 2 ^ 16) ∧
      (s.split engineRegs = false → t.qlost q.val = true) ∧ (s.split engineRegs = true → t.st.lossDue = s.st.lossDue ++ [q]) ∧
      ∀ i, i < 128 → (t.tile (128 * q.val + i)).lost = true) ∧
  (∀ (s : State) (failed : List (TestUnit × TestOutcome)), s.up = true → s.glob.bu = 3 → s.glob.quads = 4 → s.split spareRegs = true →
    exec (.testDone failed) s = .next s.readSpares) ∧
  (∀ (s : State) (failed : List (TestUnit × TestOutcome)), s.up = true → s.glob.bu = 3 → s.glob.quads = 4 → s.split spareRegs = false →
    ∃ t, exec (.testDone failed) s = .next t ∧ t.glob.bu = 4 ∧ ((∀ c, (s.ctx c).window = []) → t.ctxs = s.ctxs) ∧
      (s.hostEn = false → s.st.hosts = [] → t.vat = s.vat) ∧
      ((∀ p, p < 64 → s.retired p = false) → failed = [] → t = { s.readSpares.mark [3, 4, 5, 6] with glob := { s.glob with bu := 4 } }) ∧
      ((∀ p, p < 64 → s.retired p = false) →
        t.glob.stFail = (s.glob.stFail || failed.any fun f => f.2 != .pass && s.startupTests f.1)) ∧
      (∀ p : Fin 64, (∀ k, k < 64 → (s.retired k = true ↔ k = p.val)) → s.logicalOf p.val = some p → s.spareFree (p.val / 16) = true →
        failed = [] → t.physical p.val = 64 + p.val / 16 ∧ t.glob.stFail = s.glob.stFail))

/-- 15 R462: CLEAR writes zero to every byte of the Vat and of working RAM, invalidates every line of the row cache, zeroes the lane
registers and the Screen's bucket buffers, and the spare map's column entries stay in force; READY follows. -/
def Obligations.ClearZeroes : Prop :=
  ∀ (s : State) (k : Nat), s.up = true → s.glob.bu = 4 →
    ∃ t, exec (.clearDone k) s = .next t ∧ (∀ a, byteAt t.vat a = 0) ∧ (∀ a, byteAt t.ram a = 0) ∧ t.lines = [] ∧
      t.laneFree = Vector.replicate 16 none ∧
      t.screen.bufFree = none ∧ t.tab = s.tab ∧ t.glob.bu = 5 ∧ t.ctxs = s.ctxs ∧ t.sec = s.sec ∧
      ∀ n, n < 512 → t.tile n = { lost := (s.tile n).lost }

/-! Issue and fetch. -/

/-- 06 R175, R176, R190: an issue that passes every test is answered ACCEPT with the next sequence number; the instruction is in the
window with what it latched, and its context runs.
06 R175, R176: the first test that fails decides: after tests 1 to 3 and the parity, REJECT with MALFORMED at test 4, PRIVILEGE at 5, LEASE at
6, and BUSY at test 7: the window is full, a SETPAT or SETFMT of it that wrote what the instruction names has not completed, a debug halt
(15 R472), a wipe (14 R451) or the Korni ring (10 R346) holds it back. After BUSY or REJECT nothing of the instruction is held, and no state
has changed but the answer, REJECT of CK_CTX_STAT after a REJECT, ISSPAR (11 R379), after BUSY the count of refused issues (15 R469), and what
the read of the format entry that test 4 judges a store by rewrites and logs (12 R405). -/
def Obligations.IssueAnswers : Prop :=
  (∀ (s : State) (c : CtxId) (tag : BitVec 8) (long : Bool) (data : BitVec 256) (par : BitVec 4), s.up = true →
    (s.ctx c).st = .idle ∨ (s.ctx c).st = .run → s.korni.mode ≠ 2 → (s.ctx c).prog = false → tag = (s.ctx c).domain →
    parityGood (issued long data) par = true → s.malformed (issued long data) = false →
    (issued long data).completesAtOnce = false → s.lacksPrivilege c (issued long data) = false →
    (s.ctx c).outsideLease (issued long data) = none → s.roomFor c (issued long data) = true →
    s.korniRoom (korniLen (issuePayload (issued long data))) false = true →
    ∃ t, exec (.issue c tag long data par) s = .next t ∧ t.ans = ⟨1, 0, (s.ctx c).accepted + 1⟩ ∧
      (t.ctx c).accepted = (s.ctx c).accepted + 1 ∧ (t.ctx c).st = .run ∧
      (∃ e, (t.ctx c).window = (s.ctx c).window ++ [e] ∧ e.seq = (s.ctx c).accepted + 1 ∧ e.insn = issued long data ∧
        e.phase = .waiting ∧ e.upTo = (issued long data).first ∧ e.started = false ∧ e.seed = (s.ctx c).seed (issued long data).stream) ∧
      (∀ d, d ≠ c → t.ctx d = s.ctx d) ∧ t.vat = s.vat ∧ t.tiles = s.tiles ∧ t.tileMem = s.tileMem) ∧
  (∀ (s t : State) (c : CtxId) (tag : BitVec 8) (long : Bool) (data : BitVec 256) (par : BitVec 4), s.up = true →
    exec (.issue c tag long data par) s = .next t → t.ans.answer ≠ 1 →
    let u := s.refusedAt c tag (issued long data) par
    (t.ans.answer = 2 ∧ t = { u.tally 14 1 with ans := ⟨2, 0, 0⟩ }) ∨
    (t.ans.answer = 3 ∧ t.ans.seq = 0 ∧ ∃ r p, t = { u.upCtx c fun x => { x with reject := r } with
        ans := ⟨3, r, 0⟩, felt := { s.felt with issPar := s.felt.issPar || p } })) ∧
  (∀ (s : State) (c : CtxId) (tag : BitVec 8) (long : Bool) (data : BitVec 256) (par : BitVec 4), s.up = true → s.openTo c tag = true →
    s.korni.mode ≠ 2 → parityGood (issued long data) par = true →
    let i := issued long data
    (s.malformed i = true ∨ i.completesAtOnce = true →
      ∃ t, exec (.issue c tag long data par) s = .next t ∧ t.ans = ⟨3, 1, 0⟩ ∧ (t.ctx c).reject = 1 ∧ t.felt = s.felt) ∧
    (s.malformed i = false → i.completesAtOnce = false →
      (s.lacksPrivilege c i = true →
        ∃ t, exec (.issue c tag long data par) s = .next t ∧ t.ans = ⟨3, 2, 0⟩ ∧ (t.ctx c).reject = 2 ∧ t.felt = s.felt) ∧
      (s.lacksPrivilege c i = false → (∃ n ∈ i.tiles, (s.ctx c).tlease.getLsbD n = false) →
        ∃ t, exec (.issue c tag long data par) s = .next t ∧ t.ans = ⟨3, 3, 0⟩ ∧ (t.ctx c).reject = 3 ∧ t.felt = s.felt) ∧
      (s.lacksPrivilege c i = false → (∀ n ∈ i.tiles, (s.ctx c).tlease.getLsbD n = true) →
        32 ≤ (s.ctx c).window.length ∨ (s.ctx c).pendingSet i = true ∨ s.debugHeld c = true ∨ s.wipeHeld c = true ∨
          s.korniRoom (korniLen (issuePayload i)) false = false →
        ∃ t, exec (.issue c tag long data par) s = .next t ∧ t.ans = ⟨2, 0, 0⟩ ∧ t.ctxs = s.ctxs ∧ t.felt = s.felt ∧
          t.tel = (s.tally 14 1).tel)))

/-- 11 R379: an issue whose parity fails is malformed when it reaches test 4 of 06 R175: REJECT with MALFORMED, and ISSPAR is set; an issue
that test 1, 2 or 3 answers first leaves ISSPAR unchanged, whatever its parity, those tests being made on ISS_CTX and ISS_TAG as
presented. -/
def Obligations.IssueParity : Prop :=
  ∀ (s : State) (c : CtxId) (tag : BitVec 8) (long : Bool) (data : BitVec 256) (par : BitVec 4), s.up = true → s.korni.mode ≠ 2 →
    (parityGood (issued long data) par = false → (s.ctx c).st = .idle ∨ (s.ctx c).st = .run → (s.ctx c).prog = false →
      tag = (s.ctx c).domain →
      ∃ t, exec (.issue c tag long data par) s = .next t ∧ t.ans = ⟨3, 1, 0⟩ ∧ t.felt.issPar = true ∧ (t.ctx c).reject = 1) ∧
    ((s.ctx c).st ≠ .idle → (s.ctx c).st ≠ .run →
      ∃ t, exec (.issue c tag long data par) s = .next t ∧ t.ans = ⟨3, 4, 0⟩ ∧ t.felt = s.felt) ∧
    ((s.ctx c).st = .idle ∨ (s.ctx c).st = .run → (s.ctx c).prog = true →
      ∃ t, exec (.issue c tag long data par) s = .next t ∧ t.ans = ⟨3, 5, 0⟩ ∧ t.felt = s.felt) ∧
    ((s.ctx c).st = .idle ∨ (s.ctx c).st = .run → (s.ctx c).prog = false → tag ≠ (s.ctx c).domain →
      ∃ t, exec (.issue c tag long data par) s = .next t ∧ t.ans = ⟨3, 2, 0⟩ ∧ t.felt = s.felt)

/-- 06 R186 to R189: the sequencer takes the instruction at CK_CTX_PC into the window, with the next sequence number, and its program
counter moves over it, modulo 2^48 (the model's choice: log 68); a program counter that is not aligned to 8 bytes stops the context with
DECODE_ERROR: it drains, and nothing is accepted. A word of the row cache that cannot be corrected, met by a fetch from chip memory, is counted
and its slice tested; nothing is accepted, and the line is dropped, to be fetched again (12 R391, R392). -/
def Obligations.SequencerAccepts : Prop :=
  (∀ (s u : State) (c : CtxId) (i : Insn), s.up = true → s.mayFetch c = true → s.fetchAt c (s.ctx c).pc.toNat .clean = .insn i u →
    s.acceptFault c i (s.ctx c).pc.toNat = none → s.roomFor c i = true → i.completesAtOnce = false →
    ∃ t, exec (.sequencerFetch c .clean) s = .next t ∧ (t.ctx c).accepted = (s.ctx c).accepted + 1 ∧
      (t.ctx c).pc = (s.ctx c).pc + (if i.long then 32 else 8) ∧
      (∃ e, e ∈ (t.ctx c).window ∧ e.seq = (s.ctx c).accepted + 1 ∧ e.insn = i ∧ e.addr = (s.ctx c).pc ∧ e.phase = .waiting) ∧
      (t.ctx c).lcnt = (s.ctx c).lcnt ∧ (∀ d, d ≠ c → t.ctx d = s.ctx d) ∧ t.vat = s.vat ∧ t.tiles = s.tiles) ∧
  (∀ (s : State) (c : CtxId) (d : Detect), s.up = true → s.mayFetch c = true → (s.ctx c).pc.toNat % 8 ≠ 0 →
    ∃ t f, exec (.sequencerFetch c d) s = .next t ∧ (t.ctx c).st = .draining ∧ (t.ctx c).fetchFault = some f ∧ f.code = 0x0C ∧
      f.finfo = (s.ctx c).pc.setWidth 64 ∧ (t.ctx c).accepted = (s.ctx c).accepted ∧ (t.ctx c).window = (s.ctx c).window) ∧
  (∀ (s : State) (c : CtxId) (a : Nat) (u : Fin 128) (loc : BitVec 48), s.up = true → s.mayFetch c = true → (s.ctx c).pc.toNat = a →
    a % 8 = 0 → inChip (a : Int) = true → s.readable c 65536 [run a 8] = true → a ≤ loc.toNat → loc.toNat < a + 8 →
    ∃ t, exec (.sequencerFetch c (.uncorrectable .memory u loc)) s = .next t ∧ t.ctxs = s.ctxs ∧
      t.err.uncorr = satAdd s.err.uncorr 1 ∧ t.testing (.cacheSlice (Fin.ofNat 16 u.val)) = true ∧
      s.physAddr c 65536 false loc.toNat / 256 ∉ t.lines ∧ ∀ l ∈ t.lines, l ∈ s.lines)

/-- 07 R262, 06 R188: LOOP with SET loads its counter; LOOP without it ends at a counter of 0 and otherwise counts down and branches; HALT
stops fetching, and the context is HALTED when its window has completed. That the next address and the branch target are taken modulo
2^48 is the model's choice (log 68). -/
def Obligations.LoopAndHalt : Prop :=
  ∀ (s u : State) (c : CtxId) (i : Insn), s.up = true → s.mayFetch c = true → s.fetchAt c (s.ctx c).pc.toNat .clean = .insn i u →
    s.acceptFault c i (s.ctx c).pc.toNat = none → s.roomFor c i = true → s.trailReady = true →
    (i.op = some .loop → i.loopSet = true →
      ∃ t, exec (.loopSet c) s = .next t ∧ (t.ctx c).lcnt[i.loopCnt]? = some (BitVec.ofNat 32 i.imm) ∧
        (t.ctx c).pc = (s.ctx c).pc + (if i.long then 32 else 8) ∧ (t.ctx c).accepted = (s.ctx c).accepted + 1) ∧
    (i.op = some .loop → i.loopSet = false → (s.ctx c).lcnt[i.loopCnt]? = some 0 →
      ∃ t, exec (.loopCount c) s = .next t ∧ (t.ctx c).lcnt = (s.ctx c).lcnt ∧
        (t.ctx c).pc = (s.ctx c).pc + (if i.long then 32 else 8)) ∧
    (∀ v, i.op = some .loop → i.loopSet = false → (s.ctx c).lcnt[i.loopCnt]? = some v → v ≠ 0 →
      ∃ t, exec (.loopCount c) s = .next t ∧ (t.ctx c).lcnt[i.loopCnt]? = some (v - 1) ∧
        (t.ctx c).pc = (s.ctx c).pc + BitVec.ofInt 48 (8 * i.off)) ∧
    (i.op = some .halt →
      ∃ t, exec (.halt c) s = .next t ∧ (t.ctx c).accepted = (s.ctx c).accepted + 1 ∧
        (t.ctx c).pc = (s.ctx c).pc + (if i.long then 32 else 8) ∧
        (if (s.ctx c).window.all (fun e => e.phase == .completed) then (t.ctx c).st = .halted ∧ (t.ctx c).fetching = false
         else (t.ctx c).st = .run ∧ (t.ctx c).halting = true))

/-- 07 R262, 06 R188, 14 R451: a BR is resolved once every earlier instruction has completed: the program counter goes to its target where the
tested bit of CK_FSTAT agrees with its sense, or always with ALWAYS, and otherwise to the next instruction, both taken modulo 2^48 (the model's
choice: log 68); nothing else changes. In a secure context it waits while a wipe is in progress. -/
def Obligations.BrResolves : Prop :=
  ∀ (s : State) (c : CtxId) (i : Insn), s.up = true → (s.ctx c).brWait = some i → (s.ctx c).st = .run →
    (s.ctx c).window.all (fun e => e.phase == .completed) = true →
    (s.wipeHeld c = true → exec (.br c) s = .next s) ∧
    (s.wipeHeld c = false → ∃ t, exec (.br c) s = .next t ∧
      t.ctx c = { s.ctx c with
        brWait := none
        pc := if i.brAlways || (s.ctx c).fstat.getLsbD i.brCond == i.brSense then (s.ctx c).pc + BitVec.ofInt 48 (8 * i.off)
              else (s.ctx c).pc + (if i.long then 32 else 8) } ∧
      (∀ d, d ≠ c → t.ctx d = s.ctx d) ∧ t.vat = s.vat ∧ t.tiles = s.tiles ∧ t.korni = s.korni)

/-! Every instruction of a window. -/

/-- 03 R95, R96, 06 R190, R197, R198: whatever the instruction and wherever its operands lie, one that has begun and whose remaining units
all commit, in ascending order, runs to its end: it completes with what its units leave. When a unit fails after all the units below it
have committed, the instruction faults with their number as its completed count, 0 without a FIRST operand; its context drains, what the
units before wrote stays, and a SPERM's working ream is no longer in use (04 R142). At each of its commands an instruction compares the copies of the
spare map registers it needs first, and waits where a unit that it needs does not serve; as it begins it compares those of the format entries
that only its sources' recorded deckles name: where each has a majority, it runs as it does once the minority copies are rewritten and logged
(12 R405; which registers, log 44) and those entries are taken as they stand (log 22), so that the agreement that `poised` and the first two
clauses ask for shuts nothing out. -/
def Obligations.UnitsRunInOrder : Prop :=
  (∀ (i : Instr) (s t : State) (c : CtxId) (n : Seq) (e f : Entry) (P : Parts),
    i.runs = some (c, n) → s.up = true → (s.ctx c).entry n = some e → i.takes e.insn = true → partsOf e.insn = some P →
    (s.ctx c).mayRun e = true → s.unitsServe e.insn = true → (∀ r ∈ s.mapRegs e.insn, s.agrees r = true) → e.started = true →
    e.failed = none → e.extra = [] → P.commits c (P.left s e) s e = some (t, f) → t.trailReady = true →
    exec i s = .next ((P.finish c t f).completes c f)) ∧
  (∀ (i : Instr) (s t u : State) (c : CtxId) (n : Seq) (e f : Entry) (P : Parts) (k : Nat) (fr : FaultRec),
    i.runs = some (c, n) → s.up = true → (s.ctx c).entry n = some e → i.takes e.insn = true → partsOf e.insn = some P →
    (s.ctx c).mayRun e = true → s.unitsServe e.insn = true → (∀ r ∈ s.mapRegs e.insn, s.agrees r = true) → e.started = true →
    e.failed = none → e.extra = [] → e.upTo ≤ k → k < P.units s e →
    P.commits c (List.range' e.upTo (k - e.upTo)) s e = some (t, f) → P.unit c t f k = .fault fr u →
    exec i s = .next ((u.leaveReam f (some fr)).faultEntry c f (f.countOf k) fr)) ∧
  (∀ (i : Instr) (s u v : State) (c : CtxId) (n : Seq) (e : Entry),
    i.runs = some (c, n) → s.up = true → (s.ctx c).entry n = some e → i.takes e.insn = true → (s.ctx c).mayRun e = true →
    u = s.compareAll (s.mapRegs e.insn) →
    (u.unitsServe e.insn = false → exec i s = .next u) ∧
    (s.split (s.mapRegs e.insn) = false → (e.started = true → exec i s = exec i u) ∧
      (e.started = false → u.unitsServe e.insn = true → s.split (fmtRegs (u.unnamedFmts e.insn)) = false →
        v = u.compareAll (fmtRegs (u.unnamedFmts e.insn)) →
        ((v.readUnnamed e).fmts = e.fmts → exec i s = exec i v) ∧
        (∀ P, partsOf e.insn = some P → (∀ f x, State.startEntry P c u e ≠ .fault f x) →
          exec i s = exec i (v.putEntry c (v.readUnnamed e))))))

/-- No instruction changes what is not its own: the rest of the block and the other contexts stand, whatever its end; and but for FRONT no
instruction changes its context's settings, program position, fault record, streams, leases, status of fronts or program digest.
Each status of a context that an instruction may change is changed by its own instructions alone: the pattern registers by SETPAT,
NONFINITE by CONV, AMAX, UPD and FRONT, SEALED by UPD, COMMIT and FRONT, CK_CTX_RCHK by TMOV, TLD.G, PERM, PERM.X and SPERM, the weight and
input digests by WMARK, the events by FENCE. -/
def Obligations.InstructionsStayInside : Prop :=
  (∀ (i : Instr) (s t : State) (c : CtxId) (n : Seq), i.runs = some (c, n) → exec i s = .next t →
    s.SameOutside t c ∧ ((∀ m, i ≠ .front c m) → (s.ctx c).SameSetup (t.ctx c))) ∧
  (∀ (i : Instr) (s t : State) (c : CtxId) (n : Seq), i.runs = some (c, n) → exec i s = .next t →
    (i ≠ .setpat c n → (t.ctx c).pats = (s.ctx c).pats) ∧
    (i ≠ .conv c n → i ≠ .amax c n → i ≠ .upd c n → i ≠ .front c n → (t.ctx c).nonfinite = (s.ctx c).nonfinite) ∧
    (i ≠ .upd c n → i ≠ .commit c n → i ≠ .front c n → (t.ctx c).sealedGen = (s.ctx c).sealedGen) ∧
    (i ≠ .tmov c n → i ≠ .tldG c n → i ≠ .perm c n → i ≠ .permX c n → i ≠ .sperm c n → (t.ctx c).rchk = (s.ctx c).rchk) ∧
    (i ≠ .foldWeight c n → i ≠ .writeWatermark c n → i ≠ .clearDigests c n → (t.ctx c).digW = (s.ctx c).digW) ∧
    (i ≠ .foldInput c n → i ≠ .writeWatermark c n → i ≠ .clearDigests c n → (t.ctx c).digI = (s.ctx c).digI) ∧
    (i ≠ .fence c n → (t.ctx c).events = (s.ctx c).events))

/-- An instruction that works on tiles alone leaves the Vat and working RAM as they are, whatever its end; and an instruction that has not
begun changes the state and the bytes of no tile register but those it names (03 R86, R90; 06 R185). -/
def Obligations.TilesNamedAlone : Prop :=
  (∀ (i : Instr) (s t : State) (c : CtxId) (n : Seq),
    i ∈ [Instr.setpat c n, .setfmt c n, .fence c n, .tld c n, .tldG c n, .tmov c n, .trel c n, .trestore c n, .perm c n, .permX c n,
      .gath c n, .conv c n, .mat8 c n, .rot2 c n, .trans8 c n, .matmul c n, .hrot c n, .vld c n, .commit c n, .foldWeight c n,
      .foldInput c n, .clearDigests c n, .front c n] →
    exec i s = .next t → t.vat = s.vat ∧ t.ram = s.ram) ∧
  (∀ (i : Instr) (s t : State) (c : CtxId) (n : Seq) (e : Entry) (k o : Nat), i.runs = some (c, n) → s.poised c n e = true →
    exec i s = .next t → k < 512 → e.insn.tiles.contains k = false → o < 32768 →
    t.tile k = s.tile k ∧ t.tileBytes k o 1 = s.tileBytes k o 1)

/-- 06 R191: what the scoreboard compares is all that an instruction stores to in the Vat: a byte that differs after TST, VST, SCAT, TSAVE,
SPERM, VOP, AMAX or WMARK, or after SORT, DISP, COMB or UPD with the descriptor that it read, lies in one of the instruction's write
ranges. -/
def Obligations.ScoreboardSeesEveryStore : Prop :=
  (∀ (i : Instr) (s t : State) (c : CtxId) (n : Seq) (e : Entry) (o : Nat),
    i ∈ [Instr.tst c n, .vst c n, .scat c n, .tsave c n, .sperm c n, .copy c n, .add c n, .sub c n, .mul c n, .fma c n, .min c n, .max c n,
      .scale c n, .cmplt c n, .cmpeq c n, .rand c n, .amax c n, .writeWatermark c n] →
    s.poised c n e = true → exec i s = .next t → byteAt t.vat o ≠ byteAt s.vat o → inRuns (e.uses (s.parity c)).writes o) ∧
  (∀ (i : Instr) (s t : State) (c : CtxId) (n : Seq) (e : Entry) (o : Nat),
    i ∈ [Instr.sort c n, .disp c n, .comb c n, .upd c n] →
    s.poised c n e = true → exec i s = .next t → byteAt t.vat o ≠ byteAt s.vat o → inRuns ((s.withDesc c e).uses (s.parity c)).writes o)

/-! Setup and control. -/

/-- 07 R259, R260: SETPAT copies the 256 bytes as they stand into its pattern register; SETFMT writes all three copies of its entry.
06 R194, 07 R261, 11 R375, R380: a FENCE completes once every earlier instruction of its context has completed and every write has been
acknowledged, and with EVT fewer than four events of the context's fences wait (one that the channel presents counts among them: log 26);
with EVT its tag enters the event queue; with INV the row cache is invalidated, nothing that an uncorrectable line has left remains, and
reads on their way fill no line. -/
def Obligations.SetupCompletes : Prop :=
  ((∀ (s : State) (c : CtxId) (n : Seq) (e : Entry),
    (s.poised c n e = true ∧ s.vatReady c [run e.insn.setpatSrc 256] = true) ∨
      (s.underWay c n e = true ∧ s.readable c n.toNat [run e.insn.setpatSrc 256] = true) →
    isOp .setpat e.insn = true → e.upTo = 0 → s.trailReady = true →
    ∃ t, exec (.setpat c n) s = .next t ∧
      (t.ctx c).pat e.insn.setReg = quadsAt 32 (s.readBytes c n.toNat [run e.insn.setpatSrc 256]) ∧
      ∀ r, r < 32 → r ≠ e.insn.setReg → (t.ctx c).pat r = (s.ctx c).pat r) ∧
  (∀ (s : State) (c : CtxId) (n : Seq) (e : Entry),
    (s.poised c n e = true ∧ s.vatReady c [run e.insn.setfmtSrc 16] = true) ∨
      (s.underWay c n e = true ∧ s.readable c n.toNat [run e.insn.setfmtSrc 16] = true) →
    isOp .setfmt e.insn = true → e.upTo = 0 → 16 ≤ e.insn.setReg →
    setfmtFault (s.readBytes c n.toNat [run e.insn.setfmtSrc 16]) = none → s.trailReady = true →
    ∃ t, exec (.setfmt c n) s = .next t ∧
      t.tab.fmt[e.insn.setReg - 16]? = some (.all (BitVec.ofNat 64 (numAt (s.readBytes c n.toNat [run e.insn.setfmtSrc 16]) 0 8))) ∧
      ∀ r, r < 16 → r ≠ e.insn.setReg - 16 → t.tab.fmt[r]? = s.tab.fmt[r]?)) ∧
  (∀ (s : State) (c : CtxId) (n : Seq) (e : Entry), s.poised c n e = true → isOp .fence e.insn = true →
    (s.ctx c).earlierDone n = true → s.acked c = true → (e.insn.fenceEvt = true → s.fencesWaiting c < 4) → s.trailReady = true →
    ∃ t, exec (.fence c n) s = .next t ∧
      (t.ctx c).events = (s.ctx c).events ++ (if e.insn.fenceEvt then [.fence (BitVec.ofNat 16 e.insn.fenceTag)] else []) ∧
      (e.insn.fenceInv = true → t.lines = [] ∧ t.cache = [] ∧ t.bad = [] ∧ ∀ r ∈ t.reads, r.stale = true) ∧
      (e.insn.fenceInv = false → t.lines = s.lines ∧ t.cache = s.cache ∧ t.reads = s.reads) ∧ t.vat = s.vat ∧ t.tiles = s.tiles)

/-! Tiles. -/

/-- 03 R105: TREL clears IN_USE of its one tile and leaves INCOMPLETE, LOST, the recorded deckle and the contents; on a tile whose IN_USE is
clear it has no effect; and it never faults, but for TILE_NOT_LEASED where the tile is outside the lease. -/
def Obligations.TrelClearsInUse : Prop :=
  (∀ (s : State) (c : CtxId) (n : Seq) (e : Entry), s.poised c n e = true → isOp .trel e.insn = true → s.trailReady = true →
    ∃ t, exec (.trel c n) s = .next t ∧ t.tile e.insn.td = { s.tile e.insn.td with inUse := false } ∧
      (∀ k, k ≠ e.insn.td → t.tile k = s.tile k) ∧ t.tileMem = s.tileMem ∧
      ((s.tile e.insn.td).inUse = false → t.tiles = s.tiles)) ∧
  (∀ (s t : State) (c : CtxId) (n : Seq) (e : Entry), s.poised c n e = true → isOp .trel e.insn = true → exec (.trel c n) s = .next t →
    (s.ctx c).st = .run → (t.ctx c).st ≠ .draining) ∧
  (∀ (s : State) (c : CtxId) (i : Insn) (a : Nat), i.op = some .trel → s.malformed i = false →
    (s.ctx c).tlease.getLsbD i.td = false → s.acceptFault c i a = some ⟨0x04, BitVec.ofNat 64 i.td⟩)

/-- 03 R84, R86, R93, R97, R99, 06 R205, R208, 07 R236: a load from the Vat by TLD, TLD.G or VLD leaves its destination whole, in use and
recorded with its deckle; each slot from FIRST on holds the bytes of its image and zero elsewhere; the slots below FIRST stand. TLD.G
leaves the same in every receiver, and in CK_CTX_RCHK the sum of its slots' checks, unless a later instruction that crosses planes has
completed before it (log 64). The same holds slot by slot wherever the image lies: a slot whose bytes may be read takes them as it commits,
and the bytes of chip memory are those that the row cache holds at their translated addresses (01 R32; 11 R373, R374). -/
def Obligations.LoadsFillTiles : Prop :=
  (∀ (s : State) (c : CtxId) (n : Seq) (e : Entry), s.poised c n e = true → isOp .tld e.insn = true → e.insn.port = 0 →
    s.loadChecks e (ownWord e) [(e.insn.td, 0)] = none →
    (∀ k, e.upTo ≤ k → k < e.shape.slots → s.vatReady c (e.insn.image.slotRuns e.shape k) = true) → s.trailReady = true →
    ∃ t, exec (.tld c n) s = .next t ∧ t.tile e.insn.td = ⟨e.insn.q 1, true, false, false⟩ ∧
      ∀ k, (e.upTo ≤ k → k < e.shape.slots → t.tileBytes e.insn.td (256 * k) 256 =
          slotOf e.shape k (s.readBytes c n.toNat (e.insn.image.slotRuns e.shape k))) ∧
        (k < e.upTo → t.tileBytes e.insn.td (256 * k) 256 = s.tileBytes e.insn.td (256 * k) 256)) ∧
  (∀ (s : State) (c : CtxId) (n : Seq) (e : Entry), s.poised c n e = true → isOp .tldG e.insn = true →
    s.loadChecks e (ownWord e) e.insn.receivers = none →
    (∀ k, e.upTo ≤ k → k < e.shape.slots → s.vatReady c (e.insn.gustImage.slotRuns e.shape k) = true) → s.trailReady = true →
    ∃ t, exec (.tldG c n) s = .next t ∧
      (∀ d ∈ e.insn.receivers, t.tile d.1 = ⟨e.insn.q 1, true, false, false⟩ ∧
        ∀ k, (e.upTo ≤ k → k < e.shape.slots → t.tileBytes d.1 (256 * k) 256 =
            slotOf e.shape k (s.readBytes c n.toNat (e.insn.gustImage.slotRuns e.shape k))) ∧
          (k < e.upTo → t.tileBytes d.1 (256 * k) 256 = s.tileBytes d.1 (256 * k) 256)) ∧
      (t.ctx c).rchk = s.rchkAfter c e ((e.unitsLeft e.shape.slots).foldl (fun a k => a + slotCheck k
        (slotOf e.shape k (s.readBytes c n.toNat (e.insn.gustImage.slotRuns e.shape k)))) e.rchk)) ∧
  (∀ (s : State) (c : CtxId) (n : Seq) (e : Entry), s.poised c n e = true → isOp .vld e.insn = true →
    s.loadChecks e (columnCheck e) [(e.insn.td, 0)] = none →
    (∀ k, e.upTo ≤ k → k < e.shape.slots → s.vatReady c (e.columnRuns k) = true) → s.trailReady = true →
    ∃ t, exec (.vld c n) s = .next t ∧ t.tile e.insn.td = ⟨e.insn.q 1, true, false, false⟩ ∧
      ∀ k, (e.upTo ≤ k → k < e.shape.slots → t.tileBytes e.insn.td (256 * k) 256 =
          slotOf e.shape k (s.readBytes c n.toNat (e.columnRuns k))) ∧
        (k < e.upTo → t.tileBytes e.insn.td (256 * k) 256 = s.tileBytes e.insn.td (256 * k) 256)) ∧
  (∀ (s : State) (c : CtxId) (n : Seq) (e : Entry) (rs : List Run) (ds : List Nat),
    (isOp .tld e.insn = true ∧ e.insn.port = 0 ∧ rs = e.insn.image.slotRuns e.shape e.upTo ∧ ds = [e.insn.td]) ∨
      (isOp .tldG e.insn = true ∧ rs = e.insn.gustImage.slotRuns e.shape e.upTo ∧ ds = e.insn.receivers.map Prod.fst) ∨
      (isOp .vld e.insn = true ∧ rs = e.columnRuns e.upTo ∧ ds = [e.insn.td]) →
    s.underWay c n e = true → e.upTo < e.shape.slots → s.readable c n.toNat rs = true →
    ∃ t, exec (.slotCommit c n e.upTo .clean) s = .next t ∧ t.vat = s.vat ∧
      ∀ d ∈ ds, t.tileBytes d (256 * e.upTo) 256 = slotOf e.shape e.upTo (s.readBytes c n.toNat rs)) ∧
  (∀ (s : State) (c : CtxId) (who i : Nat) (r : Run), s.readable c who [r] = true → inVat r.addr = false → i < r.len →
    ∃ x, s.xlatAns c who false ((r.addr.toNat + i) / 4096) = some x ∧ x.fault = false ∧
      (x.pa.toNat * 4096 + (r.addr.toNat + i) % 4096) / 256 ∈ s.lines ∧
      (s.readBytes c who [r])[i]? = some (byteAt s.cache (x.pa.toNat * 4096 + (r.addr.toNat + i) % 4096)))

/-- 06 R206, R213, R214, 07 R236, 03 R90, R93: a TST, VST or SCAT into the Vat stores for each slot from FIRST on the bytes of its image
there, in ascending slots, and nothing else; the source keeps its bytes, and loses IN_USE with LAST_A. Slot by slot it stores the same bytes
wherever the image lies; those of chip memory leave as write requests of the instruction's master at their translated addresses, and update the
lines of the row cache that hold them (11 R358, R373, R375; which master, log 75). -/
def Obligations.StoresWriteImages : Prop :=
  (∀ (s : State) (c : CtxId) (n : Seq) (e : Entry), s.poised c n e = true → isOp .tst e.insn = true → e.insn.port = 0 →
    s.srcChecks e (ownWord e) (fun _ => s.tstGroups e) = none →
    (∀ k, e.upTo ≤ k → k < e.shape.slots → s.vatReady c (e.insn.image.slotRuns e.shape k) = true) → s.trailReady = true →
    ∃ t, exec (.tst c n) s = .next t ∧ t.vat = vatAfter s.vat (e.allWrites (s.tstWrites e)) ∧ s.usedIn t e.insn.ta e.insn.lastA ∧
      (∀ k, k ≠ e.insn.ta → t.tile k = s.tile k) ∧ t.tileMem = s.tileMem) ∧
  (∀ (s : State) (c : CtxId) (n : Seq) (e : Entry), s.poised c n e = true → isOp .vst e.insn = true →
    s.srcChecks e (columnCheck e) (fun _ => none) = none →
    (∀ k, e.upTo ≤ k → k < e.shape.slots → s.vatReady c (e.columnRuns k) = true) → s.trailReady = true →
    ∃ t, exec (.vst c n) s = .next t ∧ t.vat = vatAfter s.vat (e.allWrites (s.vstWrites e)) ∧ s.usedIn t e.insn.ta e.insn.lastA ∧
      (∀ k, k ≠ e.insn.ta → t.tile k = s.tile k) ∧ t.tileMem = s.tileMem) ∧
  (∀ (s : State) (c : CtxId) (n : Seq) (e f : Entry), s.poised c n e = true → isOp .scat e.insn = true → e.pathReady = true →
    s.srcChecks e (ownWord e) (fun _ => gatherPattern e) = none →
    f = { e with rcd := some (s.readBytes c n.toNat e.gatherList) } → s.vatReady c e.gatherList = true →
    entriesFault e.insn true 0 [] f.rows = none →
    (∀ k, e.upTo ≤ k → k < e.shape.slots → s.vatReady c ((s.scatWrites f k).map Prod.fst) = true) → s.trailReady = true →
    ∃ t, exec (.scat c n) s = .next t ∧ t.vat = vatAfter s.vat (e.allWrites (s.scatWrites f)) ∧ s.usedIn t e.insn.ta e.insn.lastA ∧
      (∀ k, k ≠ e.insn.ta → t.tile k = s.tile k) ∧ t.tileMem = s.tileMem) ∧
  (∀ (s : State) (c : CtxId) (n : Seq) (e : Entry) (ps : List (Run × List Byte)),
    (isOp .tst e.insn = true ∧ e.insn.port = 0 ∧ ps = s.tstWrites e e.upTo) ∨ (isOp .vst e.insn = true ∧ ps = s.vstWrites e e.upTo) ∨
      (isOp .scat e.insn = true ∧ ps = s.scatWrites e e.upTo) →
    s.underWay c n e = true → e.upTo < e.shape.slots → s.writable c n.toNat (ps.map Prod.fst) = true →
    let u := s.store (e.insn.carrier c) c n ps
    ∃ t, exec (.slotCommit c n e.upTo .clean) s = .next t ∧ t.vat = u.vat ∧ t.unacked = u.unacked ∧ t.cache = u.cache ∧
      t.tileMem = s.tileMem) ∧
  (∀ (s : State) (k : Carrier) (c : CtxId) (n : Seq) (r : Run) (bs : List Byte) (i : Nat), s.writable c n.toNat [r] = true → inVat r.addr = false →
    i < r.len →
    ∃ x, s.xlatAns c n.toNat true ((r.addr.toNat + i) / 4096) = some x ∧ x.fault = false ∧ x.wperm = true ∧
      (s.store k c n [(r, bs)]).vat = s.vat ∧
      let a := x.pa.toNat * 4096 + (r.addr.toNat + i) % 4096
      (∃ u ∈ (s.store k c n [(r, bs)]).unacked, u.ctx = c ∧ u.seq = n ∧ u.master = some k.master ∧
        ∃ w, u.tgt = .memory w ∧ w.port = Config.stackOf (a / 256) ∧ w.line = a / 256 ∧ (a, bs.getD i 0) ∈ w.cells) ∧
      (a / 256 ∈ s.lines → (∀ j, i < j → j < r.len → s.physAddr c n.toNat true (r.addr.toNat + j) ≠ a) →
        byteAt (s.store k c n [(r, bs)]).cache a = bs.getD i 0))

/-- 06 R213, R214: a GATH whose list and rows lie in the Vat fills the slots of its destination from the rows its list names, and with zero
where the list holds a hole or, with OOB, an entry at LIMIT or above. Slot by slot it does so wherever the rows lie, in chip memory from the
row cache (the bytes: `LoadsFillTiles`). -/
def Obligations.GathFillsRows : Prop :=
  (∀ (s : State) (c : CtxId) (n : Seq) (e f : Entry), s.poised c n e = true → isOp .gath e.insn = true → e.pathReady = true →
    firstOf (ownWord e) (fun _ => firstOf (if 0 < e.first then s.laterCheck (e.insn.q 1) [(e.insn.td, 0)] else none) fun _ =>
      firstOf (gatherPattern e) fun _ => s.outCheck e.insn.operandTiles) = none →
    f = { e with rcd := some (s.readBytes c n.toNat e.gatherList) } → s.vatReady c e.gatherList = true →
    entriesFault e.insn false 0 [] f.rows = none →
    (∀ k, e.upTo ≤ k → k < e.shape.slots → s.vatReady c (f.gathRuns k) = true) → s.trailReady = true →
    ∃ t, exec (.gath c n) s = .next t ∧ t.tile e.insn.td = ⟨e.insn.q 1, true, false, false⟩ ∧
      ∀ k, e.upTo ≤ k → k < e.shape.slots → t.tileBytes e.insn.td (256 * k) 256 =
        slotOf e.shape k (fillHoles (f.gathBytes k) (s.readBytes c n.toNat (f.gathRuns k)))) ∧
  (∀ (s : State) (c : CtxId) (n : Seq) (e : Entry), s.underWay c n e = true → isOp .gath e.insn = true → e.upTo < e.shape.slots →
    s.readable c n.toNat (e.gathRuns e.upTo) = true →
    ∃ t, exec (.slotCommit c n e.upTo .clean) s = .next t ∧ t.vat = s.vat ∧ t.tileBytes e.insn.td (256 * e.upTo) 256 =
      slotOf e.shape e.upTo (fillHoles (e.gathBytes e.upTo) (s.readBytes c n.toNat (e.gathRuns e.upTo))))

/-- 06 R195, R207, 11 R371: outside record and replay, and with no other context in the middle of a piece of the stream, a TLD takes its
image's bytes from its port in order and a TST sends them, slot after slot from FIRST on; a TLD or a TST that meets a failed port faults
with UNCORRECTABLE and 4 in bits 2:0 of CK_CTX_FINFO. That a TST sends all its bytes at once, the port's queue having no bound, is the
model's choice (log 27). -/
def Obligations.PortTransfers : Prop :=
  (∀ (s : State) (c : CtxId) (n : Seq) (e : Entry), s.poised c n e = true → isOp .tld e.insn = true → e.insn.port ≠ 0 →
    s.korni.mode = 0 → s.loadChecks e (ownWord e) [(e.insn.td, 0)] = none → (s.port (portOf e.insn.port)).fail = false →
    s.pieceFree (s.port (portOf e.insn.port)).inPiece c = true →
    ((e.unitsLeft e.shape.slots).map fun k => (slotImgBytes e.shape k).length).sum ≤ (s.port (portOf e.insn.port)).inq.length →
    ∃ t, exec (.tld c n) s = .next t ∧ t.tile e.insn.td = ⟨e.insn.q 1, true, false, false⟩ ∧
      (t.port (portOf e.insn.port)).inq = (s.port (portOf e.insn.port)).inq.drop
        ((e.unitsLeft e.shape.slots).map fun k => (slotImgBytes e.shape k).length).sum ∧
      ∀ k, e.upTo ≤ k → k < e.shape.slots → t.tileBytes e.insn.td (256 * k) 256 = slotOf e.shape k
        (((s.port (portOf e.insn.port)).inq.drop ((e.unitsLeft k).map fun j => (slotImgBytes e.shape j).length).sum).take
          (slotImgBytes e.shape k).length)) ∧
  (∀ (s : State) (c : CtxId) (n : Seq) (e : Entry), s.poised c n e = true → isOp .tst e.insn = true → e.insn.port ≠ 0 →
    s.srcChecks e (ownWord e) (fun _ => s.tstGroups e) = none → (s.port (portOf e.insn.port)).fail = false →
    s.pieceFree (s.port (portOf e.insn.port)).outPiece c = true → s.trailReady = true →
    ∃ t, exec (.tst c n) s = .next t ∧
      (t.port (portOf e.insn.port)).outq = (s.port (portOf e.insn.port)).outq ++
        (e.unitsLeft e.shape.slots).flatMap (fun k => slotImage e.shape (s.relaid e) k) ∧
      s.usedIn t e.insn.ta e.insn.lastA ∧ t.vat = s.vat ∧ t.tileMem = s.tileMem) ∧
  (∀ (s : State) (c : CtxId) (n : Seq) (e : Entry), s.poised c n e = true → isOp .tld e.insn = true → e.insn.port ≠ 0 →
    s.korni.mode = 0 → s.loadChecks e (ownWord e) [(e.insn.td, 0)] = none → (s.port (portOf e.insn.port)).fail = true →
    s.pieceFree (s.port (portOf e.insn.port)).inPiece c = true → e.upTo < e.shape.slots →
    ∃ t f, exec (.tld c n) s = .next t ∧ t.faulted c n e.upTo f ∧ f.code = 0x0A ∧ f.finfo.bits 2 0 = 4) ∧
  (∀ (s : State) (c : CtxId) (n : Seq) (e : Entry), s.poised c n e = true → isOp .tst e.insn = true → e.insn.port ≠ 0 →
    s.srcChecks e (ownWord e) (fun _ => s.tstGroups e) = none → (s.port (portOf e.insn.port)).fail = true →
    e.upTo < e.shape.slots →
    ∃ t f, exec (.tst c n) s = .next t ∧ t.faulted c n e.upTo f ∧ f.code = 0x0A ∧ f.finfo.bits 2 0 = 4)

/-- 03 R90, R100, 06 R209, 05 R160: TMOV leaves in TD the footprint slots of TA, with TA's recorded deckle or, with REINT, its own; TA loses
IN_USE with LAST_A unless it is TD itself; CK_CTX_RCHK holds the sum of the slots' checks, unless a later instruction that crosses planes
has completed before it (log 64).
03 R101 to R104, 06 R210: a TSAVE into the Vat writes its header, from FIRST on, and then the slots of each saved tile in turn; a
TRESTORE from the Vat gives each masked tile the state its entry names, with INCOMPLETE as saved, and its data. -/
def Obligations.MoveSaveRestore : Prop :=
  (∀ (s : State) (c : CtxId) (n : Seq) (e : Entry), s.poised c n e = true → isOp .tmov e.insn = true → e.upTo = 0 →
    s.srcChecks e (ownWord e) (fun _ => none) = none → s.trailReady = true →
    ∃ t, exec (.tmov c n) s = .next t ∧ t.tile e.insn.td = ⟨s.movedWord e, true, false, false⟩ ∧
      (∀ k, k < (s.movedShape e).slots → t.tileBytes e.insn.td (256 * k) 256 = s.tileBytes e.insn.ta (256 * k) 256) ∧
      (e.insn.ta ≠ e.insn.td → s.usedIn t e.insn.ta e.insn.lastA) ∧
      (t.ctx c).rchk = s.rchkAfter c e ((List.range (s.movedShape e).slots).foldl
        (fun a k => a + slotCheck k (s.tileBytes e.insn.ta (256 * k) 256)) e.rchk) ∧ t.vat = s.vat) ∧
  ((∀ (s : State) (c : CtxId) (n : Seq) (e f : Entry), s.poised c n e = true → isOp .tsave e.insn = true →
    s.entriesBad (s.savedFmts e.insn) = none → s.saveCheck e.insn = none → f = { e with fmts := s.fmtProg } →
    (∀ k, e.upTo ≤ k → k < 4 + (saveData (s.saveHeader f)).length → s.vatReady c [areaRun e.insn k] = true) → s.trailReady = true →
    ∃ t, exec (.tsave c n) s = .next t ∧
      (∀ k, e.upTo ≤ k → k < 4 →
        bytesAt t.vat (vatOffset (areaRun e.insn k).addr) 256 = ((headerBytes (s.saveHeader f)).drop (256 * k)).take 256) ∧
      (∀ j p, e.upTo ≤ 4 + j → (saveData (s.saveHeader f))[j]? = some p →
        bytesAt t.vat (vatOffset (areaRun e.insn (4 + j)).addr) 256 = s.tileBytes (e.insn.td + p.1) (256 * p.2) 256) ∧
      (∀ o, ¬ inRuns ((e.unitsLeft (4 + (saveData (s.saveHeader f)).length)).map (areaRun e.insn)) o → byteAt t.vat o = byteAt s.vat o) ∧
      t.tiles = s.tiles ∧ t.tileMem = s.tileMem) ∧
  (∀ (s : State) (c : CtxId) (n : Seq) (e f : Entry), s.poised c n e = true → isOp .trestore e.insn = true → e.insn.td % 64 = 0 →
    s.vatReady c ((List.range 4).map (areaRun e.insn)) = true →
    f = { e with rcd := some (s.readBytes c n.toNat ((List.range 4).map (areaRun e.insn))), fmts := s.fmtProg } →
    s.entriesBad f.restoredFmts = none → headerCheck s.fmtProg e.insn f.header = none → s.outCheck e.insn.operandTiles = none →
    (∀ k, e.upTo ≤ k → 4 ≤ k → k < 4 + (saveData f.header).length → s.vatReady c [areaRun e.insn k] = true) → s.trailReady = true →
    ∃ t, exec (.trestore c n) s = .next t ∧ t.vat = s.vat ∧
      (∀ k h, k ∈ maskList (e.insn.q 3) → f.header[k]? = some h →
        t.tile (e.insn.td + k) = (if h.live then ⟨h.deckle, true, h.incomplete, false⟩ else ⟨h.deckle, false, h.incomplete, h.lost⟩)) ∧
      (∀ j p, e.upTo ≤ 4 + j → (saveData f.header)[j]? = some p → (e.insn.q 3).getLsbD p.1 = true →
        t.tileBytes (e.insn.td + p.1) (256 * p.2) 256 = s.readBytes c n.toNat [areaRun e.insn (4 + j)])))

/-! Press, patterns, Vat and digests. -/

/-- 07 R246, R256, R257, 10 R336, R338 to R340: COMMIT sets SEALED; a WMARK fold adds its image's partial sum to its digest when it
completes; OP 2 writes the SHA-256 of the 64-byte record to its 32 bytes and clears the weight and input digests; OP 3 clears both. -/
def Obligations.CommitAndWatermark : Prop :=
  (∀ (s : State) (c : CtxId) (n : Seq) (e : Entry), s.poised c n e = true → isOp .commit e.insn = true → s.trailReady = true →
    ∃ t, exec (.commit c n) s = .next t ∧ (t.ctx c).sealedGen = true ∧ (t.ctx c).gen = (s.ctx c).gen ∧ t.vat = s.vat ∧
      t.tiles = s.tiles) ∧
  (∀ (s : State) (c : CtxId) (n : Seq) (e : Entry), s.poised c n e = true → e.upTo = 0 →
    streamCheck e.fmts (e.insn.q 1) = none → s.vatReady c [e.foldRun] = true → s.trailReady = true →
    (isWmark 0 e.insn = true → ∃ t, exec (.foldWeight c n) s = .next t ∧ (t.ctx c).digW = (s.ctx c).digW ^^^ s.foldOf c e ∧
      (t.ctx c).digI = (s.ctx c).digI ∧ t.vat = s.vat) ∧
    (isWmark 1 e.insn = true → ∃ t, exec (.foldInput c n) s = .next t ∧ (t.ctx c).digI = (s.ctx c).digI ^^^ s.foldOf c e ∧
      (t.ctx c).digW = (s.ctx c).digW ∧ t.vat = s.vat)) ∧
  (∀ (s : State) (c : CtxId) (n : Seq) (e : Entry), s.poised c n e = true → isWmark 2 e.insn = true → e.upTo = 0 →
    s.vatReady c [run e.insn.base 32] = true → s.trailReady = true →
    ∃ t, exec (.writeWatermark c n) s = .next t ∧ bytesAt t.vat (vatOffset e.insn.base) 32 =
        sha256of64 (watermarkRecord e (s.ctx c).digW (s.ctx c).digI s.glob.bitClass) ∧
      (∀ o, ¬ inRuns [run e.insn.base 32] o → byteAt t.vat o = byteAt s.vat o) ∧ (t.ctx c).digW = 0 ∧ (t.ctx c).digI = 0 ∧
      t.tiles = s.tiles) ∧
  (∀ (s : State) (c : CtxId) (n : Seq) (e : Entry), s.poised c n e = true → isWmark 3 e.insn = true → s.trailReady = true →
    ∃ t, exec (.clearDigests c n) s = .next t ∧ (t.ctx c).digW = 0 ∧ (t.ctx c).digI = 0 ∧ t.vat = s.vat ∧ t.tiles = s.tiles)

/-- 07 R221, R222, R226, R227, 02 R57 to R60: a CONV whose checks pass and whose scale record, if any, can be read whole and is well formed
(log 33) leaves in TD its source's values, scaled and rounded into its own deckle; NFS records a value that is not finite in NONFINITE;
TA loses IN_USE with LAST_A unless it is TD. -/
def Obligations.ConvConverts : Prop :=
  ∀ (s : State) (c : CtxId) (n : Seq) (e : Entry), s.poised c n e = true → isOp .conv e.insn = true → e.upTo = 0 →
    s.convChecks e = none → (e.insn.smode ≠ 0 → s.vatReady c [scaleRun e.insn.srec] = true ∧
      scaleRecordFault (s.readBytes c n.toNat [scaleRun e.insn.srec]) = none) → s.trailReady = true →
    ∃ t, exec (.conv c n) s = .next t ∧
      t.tileHolds e.insn.td (e.insn.q 1) (encodeTile e.fmts e.shape e.insn.sel (s.convVals c e) (e.srWord 0)) ∧
      (e.insn.ta ≠ e.insn.td → s.usedIn t e.insn.ta e.insn.lastA) ∧
      (t.ctx c).nonfinite = ((s.ctx c).nonfinite || (e.insn.convNfs &&
        ((s.srcVals e.fmts (e.insn.srcA e.insn.wordA)).any (fun v => !valIsFinite v) || (s.convVals c e).any fun v => !valIsFinite v))) ∧
      t.vat = s.vat

/-- 07 R229 to R231: a PRESS of any of its four modes whose checks pass leaves in TD its results, rounded into its own deckle; each source
that is not TD loses IN_USE with its flag. In mode 1 the two elements of a pair are the exact rotation of the source's pair. -/
def Obligations.PressComputes : Prop :=
  (∀ (i : Instr) (s : State) (c : CtxId) (n : Seq) (e : Entry), i ∈ [Instr.mat8 c n, .rot2 c n, .trans8 c n, .matmul c n] →
    s.poised c n e = true → i.takes e.insn = true → e.upTo = 0 → s.pressChecks e = none → s.trailReady = true →
    ∃ t, exec i s = .next t ∧
      t.tileHolds e.insn.td (e.insn.q 1) (encodeTile e.fmts e.shape e.insn.sel (s.pressVals e) fun _ => 0) ∧
      (e.insn.ta ≠ e.insn.td → s.usedIn t e.insn.ta
        (e.insn.lastA || (e.insn.mode != 2 && e.insn.tb == e.insn.ta && e.insn.lastB))) ∧
      (e.insn.mode ≠ 2 → e.insn.tb ≠ e.insn.td → e.insn.tb ≠ e.insn.ta → s.usedIn t e.insn.tb e.insn.lastB) ∧ t.vat = s.vat) ∧
  (∀ (s : State) (e : Entry) (r p : Nat), e.insn.mode = 1 → s.pressChecks e = none → r < e.shape.d.rows → 2 * p < e.shape.d.cols →
    let x := fun k => elemsAt (s.srcVals e.fmts (e.insn.srcA e.insn.wordA)) e.insn.deckleA.cols r (2 * p + k)
    let y := fun k => elemsAt (s.srcVals e.fmts ⟨e.insn.tb, 2, e.insn.wordB, e.insn.reint⟩) e.insn.deckleB.cols r (2 * p + k)
    (s.pressVals e)[r * e.shape.d.cols + 2 * p]? =
      some (pressResult e.shape e.insn.sel [valMul (x 0) (y 0), valNeg (valMul (x 1) (y 1))]) ∧
    (s.pressVals e)[r * e.shape.d.cols + 2 * p + 1]? =
      some (pressResult e.shape e.insn.sel [valMul (x 0) (y 1), valMul (x 1) (y 0)]))

/-- 07 R232 to R234: an HROT whose checks pass leaves in each tile of its destination ream the rotated values of the same elements of the
source ream, rounded into its own deckle; a source tile that is no destination loses IN_USE with LAST_A. -/
def Obligations.HrotRotates : Prop :=
  ∀ (s : State) (c : CtxId) (n : Seq) (e : Entry), s.poised c n e = true → isOp .hrot e.insn = true → e.upTo = 0 →
    s.hrotChecks e = none → s.trailReady = true →
    ∃ t, exec (.hrot c n) s = .next t ∧
      (∀ r k, e.insn.hrotDests[r]? = some k →
        t.tileHolds k (e.insn.q 1) (encodeTile e.fmts e.shape e.insn.sel
          ((s.hrotVals e).extract (r * e.shape.d.count) (r * e.shape.d.count + e.shape.d.count))
          fun j => e.srWord 0 (r * e.shape.d.count + j))) ∧
      (∀ k ∈ reamTiles e.insn.ta (e.insn.q 2), k ∉ e.insn.hrotDests → s.usedIn t k e.insn.lastA) ∧ t.vat = s.vat

/-- 04 R127 to R131, R136, R137, 06 R211: a PERM or PERM.X whose checks pass, whose list can be read and is a permutation, and whose map
keeps groups whole, writes its destination at one point: element d of the ream is the source element that the chain's pull map gives.
CK_CTX_RCHK holds the check value, unless a later instruction that crosses planes has completed before it (log 64). -/
def Obligations.PermMoves : Prop :=
  ∀ (i : Instr) (s : State) (c : CtxId) (n : Seq) (e : Entry) (os : List Operand) (ts : List Nat) (es : List Nat) (p : Permuted),
    (i = .perm c n ∧ isOp .perm e.insn = true ∧ os = [e.insn.srcA (e.insn.q 1)] ∧ ts = [e.insn.td]) ∨
      (i = .permX c n ∧ isOp .permX e.insn = true ∧ os = e.insn.permXSources ∧ ts = reamTiles e.insn.td (e.insn.q 3)) →
    s.poised c n e = true → e.upTo = 0 → s.permChecks e os = none →
    s.vatReady c (e.chain.listRuns (os.length * e.insn.deckle.count)) = true →
    es = listEntries (os.length * e.insn.deckle.count) (s.readBytes c n.toNat (e.chain.listRuns (os.length * e.insn.deckle.count))) →
    listFault e.chain (os.length * e.insn.deckle.count) es = none →
    s.permuteReam e.fmts e.chain e.shape os es = some p → s.trailReady = true →
    ∃ t, exec i s = .next t ∧
      (∀ r k, ts[r]? = some k → t.tileHolds k (e.insn.q 1)
        (layTile e.shape (slice p.codes r e.shape.d.count) (slice p.scales r e.shape.d.groups))) ∧
      (∀ d, d < e.shape.d.count * os.length →
        p.codes[d]? = some ((s.reamCodes e.fmts os).getD (chainPull es e.chain.links d) 0)) ∧
      (t.ctx c).rchk = s.rchkAfter c e (e.rchk + p.check) ∧ t.vat = s.vat

/-- 04 R139 to R142, 06 R212: a SPERM whose domain fits its ream and whose images lie in the Vat without overlap delivers to element d of
the destination the source element that its chain's pull map gives; its working ream is no longer in use; CK_CTX_RCHK is its check value,
unless a later instruction that crosses planes has completed before it (log 64). -/
def Obligations.SpermDelivers : Prop :=
  ∀ (s : State) (c : CtxId) (n : Seq) (e : Entry), s.poised c n e = true → isOp .sperm e.insn = true → e.upTo = 0 →
    streamCheck e.fmts (e.insn.q 1) = none → chainFault e.chain .pushOnly none = none → s.outCheck e.insn.operandTiles = none →
    e.spermN ≤ e.spermZ → e.spermOverlap = false →
    s.vatReady c (e.chain.listRuns e.spermN ++ [e.spermFrom, e.spermTo] ++ e.spermEdges) = true →
    listFault e.chain e.spermN (listEntries e.spermN (s.readBytes c n.toNat (e.chain.listRuns e.spermN))) = none → s.trailReady = true →
    ∃ t, exec (.sperm c n) s = .next t ∧
      t.vat = vatAfter s.vat [(e.spermTo, denseBytes e.spermC 0 (s.spermCodes c e) (s.readBytes c n.toNat e.spermEdges))] ∧
      (t.ctx c).rchk = s.rchkAfter c e (e.rchk + s.spermCheck c e) ∧ ∀ k ∈ e.insn.spermReam, (t.tile k).inUse = false

/-- 07 R221, R222, R237 to R240: a VOP of any of its eleven operations whose checks pass, whose operands are ready, whose images do not
overlap as R240 leaves open (log 36), and whose scale record, with SCALE, can be read whole and is well formed (log 33), stores for each
unit from FIRST on the results that its elements give, and nothing else. -/
def Obligations.VopComputes : Prop :=
  ∀ (i : Instr) (s : State) (c : CtxId) (n : Seq) (e f : Entry),
    i ∈ [Instr.copy c n, .add c n, .sub c n, .mul c n, .fma c n, .min c n, .max c n, .scale c n, .cmplt c n, .cmpeq c n, .rand c n] →
    s.poised c n e = true → i.takes e.insn = true → vopChecks e = none → e.vopOverlap = false →
    (∀ u, e.upTo ≤ u → u < unitsIn e.insn.deckle.count → s.vopReady c e u = true) →
    (e.insn.vopOp = 7 → s.vatReady c [scaleRun (vatAddr e.insn.vopSrcB)] = true ∧
      scaleRecordFault (s.readBytes c n.toNat [scaleRun (vatAddr e.insn.vopSrcB)]) = none) →
    f = (if e.insn.vopOp = 7 then s.withScale c e (vatAddr e.insn.vopSrcB) else e) → s.trailReady = true →
    ∃ t, exec i s = .next t ∧
      t.vat = vatAfter s.vat ((e.unitsLeft (unitsIn e.insn.deckle.count)).map fun u =>
        (e.vopD u, denseBytes (streamC e.fmts e.insn.deckle) (unitFirst u) (s.vopUnitCodes c f u) (s.readBytes c n.toNat (e.vopEdges u)))) ∧
      t.tiles = s.tiles ∧ t.tileMem = s.tileMem

/-- 07 R241, R242, 09 R296 to R302: an AMAX whose record is well formed, and whose curve is with FINAL, folds the largest absolute value of
its image into its record; NFS records in NONFINITE that the image held a value that is not finite. -/
def Obligations.AmaxFolds : Prop :=
  ∀ (s : State) (c : CtxId) (n : Seq) (e : Entry), s.poised c n e = true → isOp .amax e.insn = true → e.upTo = 0 →
    streamCheck e.fmts (e.insn.q 1) = none → s.vatReady c [e.recRun] = true →
    scaleRecordFault (s.readBytes c n.toNat [e.recRun]) = none →
    (e.insn.amaxFinal = true → s.curveFault (s.amaxCurve c e) = none) → s.vatReady c [e.amaxRun] = true → s.trailReady = true →
    ∃ t, exec (.amax c n) s = .next t ∧ t.vat = vatAfter s.vat [(e.recRun, s.amaxRecord c e)] ∧
      (t.ctx c).nonfinite = ((s.ctx c).nonfinite || (e.insn.amaxNfs && !valIsFinite (s.amaxMost c e))) ∧ t.tiles = s.tiles ∧
      t.tileMem = s.tileMem

/-- 07 R243 to R245, 09 R303 to R305: an UPD whose descriptor is well formed and whose images do not overlap stores, for each unit from
FIRST on, the new weight and moments of the other parity, computed from the gradient and the images of the current parity; SEALED is
cleared. SEALED reads clear, in CK_FSTAT and in the vote word, from the moment an UPD begins; the fault of an earlier instruction, which cancels
an UPD that has written nothing, leaves it as it was (06 R197; log 37). -/
def Obligations.UpdSteps : Prop :=
  (∀ (x : Ctx), ((∃ e ∈ x.window, e.insn.op = some .upd ∧ (e.phase = .ready ∨ e.phase = .active)) →
      x.fstat.getLsbD 17 = false ∧ ∀ v, (x.voteWord v).getLsbD 1 = false) ∧
    ((∀ e ∈ x.window, e.insn.op = some .upd → e.phase ≠ .ready ∧ e.phase ≠ .active) →
      x.fstat.getLsbD 17 = x.sealedGen ∧ ∀ v, (x.voteWord v).getLsbD 1 = x.sealedGen)) ∧
  (∀ (s : State) (c : CtxId) (e u : Entry) (k : Nat) (f : FaultRec) (pre post : List Entry), (s.ctx c).window = pre ++ e :: u :: post →
    (∀ x ∈ pre, x.seq ≠ e.seq) → u.seq ≠ e.seq → e.insn.op ≠ some .upd → u.insn.op = some .upd → u.phase = .active → u.wrote = false →
    (s.faultEntry c e k f).ctx c = { s.ctx c with
        st := if (s.ctx c).st = .run then .draining else (s.ctx c).st
        window := ((s.faultEntry c e k f).ctx c).window } ∧
      ∃ v ∈ ((s.faultEntry c e k f).ctx c).window, v.seq = u.seq ∧ v.phase = .cancelled) ∧
  ∀ (s : State) (c : CtxId) (n : Seq) (e f : Entry), s.poised c n e = true → isOp .upd e.insn = true →
    streamCheck e.fmts (e.insn.q 1) = none → (fmtAt e.fmts e.insn.deckle.fmt).kind = .float → f = s.withDesc c e →
    s.vatReady c [run e.insn.base 128] = true → updDescFault (s.readBytes c n.toNat [run e.insn.base 128]) = none →
    f.updOverlap = false →
    (∀ u, e.upTo ≤ u → u < unitsIn e.insn.deckle.count → s.segmentBusy (u % 16) = false ∧ s.vatReady c (f.updRuns u) = true) →
    s.trailReady = true →
    ∃ t, exec (.upd c n) s = .next t ∧
      t.vat = vatAfter s.vat ((e.unitsLeft (unitsIn e.insn.deckle.count)).flatMap (s.updStores c f)) ∧ (t.ctx c).sealedGen = false ∧
      (t.ctx c).gen = (s.ctx c).gen ∧
      (t.ctx c).nonfinite = ((s.ctx c).nonfinite || (e.insn.xf.testBit 0 &&
        (e.unitsLeft (unitsIn e.insn.deckle.count)).any fun u => (s.updOut c f u).any Updated.nonfinite)) ∧ t.tiles = s.tiles

/-! The Screen. -/

/-- 07 R247 to R252, 08 R266 to R282: a SORT, DISP or COMB that holds the sorter, whose descriptor and lists pass their checks and whose
images are ready and do not overlap, writes its outputs: the sorted payloads and keys; the gather list, combine list, counts and spill
list; the combined rows. -/
def Obligations.ScreenWrites : Prop :=
  (∀ (s : State) (c : CtxId) (n : Seq) (e f : Entry), s.poised c n e = true → isOp .sort e.insn = true → f = s.withDesc c e →
    s.screenReady c e = true → sortDescBad f = none → s.vatReady c (f.workRun f.scCount :: (f.sortIns ++ f.sortOuts)) = true →
    groupsMeet ((f.sortIns ++ f.sortOuts ++ [f.workRun f.scCount, f.descRun]).map fun r => [r]) = false → s.trailReady = true →
    ∃ t, exec (.sort c n) s = .next t ∧
      bytesAt t.vat (vatOffset (f.scAddr 3)) (4 * f.scCount) = words4 ((s.sortedOf c f).2.map SortRec.payload) ∧
      (f.sortKeys = true → bytesAt t.vat (vatOffset (f.scAddr 2)) (f.scCount * fixedBytes (f.scFmt 0)) =
        (s.sortedOf c f).2.flatMap fun r => leBytes (fixedBytes (f.scFmt 0)) ((s.sortedOf c f).1.getD r.pos 0)) ∧ t.tiles = s.tiles) ∧
  (∀ (s : State) (c : CtxId) (n : Seq) (e f : Entry), s.poised c n e = true → isOp .disp e.insn = true → f = s.withDesc c e →
    s.screenReady c e = true → dispDescBad f = none → s.vatReady c (f.workRun f.scEntries :: (f.dispIns ++ f.dispOuts)) = true →
    groupsMeet ((f.dispIns ++ f.dispOuts ++ [f.workRun f.scEntries, f.descRun]).map fun r => [r]) = false →
    dispFault f (s.readBytes c n.toNat f.dispIns) = none → s.trailReady = true →
    ∃ t, exec (.disp c n) s = .next t ∧
      bytesAt t.vat (vatOffset (f.scAddr 2)) (4 * f.scExperts * f.scCap) = words4 (s.dispatchedOf c f).gather ∧
      bytesAt t.vat (vatOffset (f.scAddr 3)) (4 * f.scEntries) = words4 (s.dispatchedOf c f).combine ∧
      bytesAt t.vat (vatOffset (f.scAddr 4)) (4 * (f.scExperts + 1)) = words4 (s.dispatchedOf c f).counts ∧
      (f.policy = 1 → bytesAt t.vat (vatOffset (f.scAddr 5)) (4 * (s.dispatchedOf c f).spill.length) =
        words4 (s.dispatchedOf c f).spill) ∧ t.tiles = s.tiles) ∧
  (∀ (s : State) (c : CtxId) (n : Seq) (e f : Entry), s.poised c n e = true → isOp .comb e.insn = true → f = s.withDesc c e →
    s.screenReady c e = true → combDescBad f = none → s.vatReady c (f.combIns ++ f.combOuts) = true →
    s.vatReady c ((s.combNamed c f).map f.combRow) = true →
    groupsMeet ((f.combIns.map fun r => [r]) ++ [(s.combNamed c f).map f.combRow, f.combOuts, [f.descRun]]) = false →
    s.trailReady = true →
    ∃ t, exec (.comb c n) s = .next t ∧
      (∀ k, k < f.scCount → bytesAt t.vat (vatOffset ((f.scAddr 3 + k * f.scStride 1 : Nat) : Int)) (f.scCap * fixedBytes (f.scFmt 2)) =
        s.combBytes c f k) ∧ t.tiles = s.tiles)

/-- 07 R249, 08 R267: the passes over the digits of the code sort stably: the sorted records are the input's, each with its own code and
payload, in ascending code, and records of equal codes keep ascending input position. -/
def Obligations.SortIsStable : Prop :=
  ∀ (k : Nat) (desc : Bool) (keys payloads : List Nat), k ∈ [0, 1, 2, 8, 9, 10, 12, 13] → keys.length = payloads.length →
    (∀ x ∈ keys, x < 2 ^ (fmtAt [] k).width) →
    let out := sortedRecs (fmtAt [] k) desc keys payloads
    (out.map SortRec.pos).Perm (List.range keys.length) ∧
    (∀ r ∈ out, keys[r.pos]?.map (sortCode (fmtAt [] k) desc) = some r.code ∧ payloads[r.pos]? = some r.payload) ∧
    out.Pairwise fun a b => a.code < b.code ∨ (a.code = b.code ∧ a.pos < b.pos)

/-! Fronts. -/

/-- 07 R253, R254, 10 R313, R314, R323, R326, R331: a FRONT that may begin completes at once, with the changes of R255 under the word it is
forced with or its own, where it is forced or solitary and records nothing; a domain front without a record raises FRONT_ARRIVE with its
vote word; one that records asks for its record's translation first, where the translation port has a free tag; and a domain front with FRONT_GO
held or ENABLE clear faults with FRONT_TIMEOUT. -/
def Obligations.FrontBegins : Prop :=
  ∀ (s : State) (c : CtxId) (n : Seq) (e : Entry), s.poised c n e = true → isOp .front e.insn = true → s.frontReady c e = true →
    let a := s.frontLatch c e
    (s.frontKind ≠ .domain → s.front.recEn = false →
      ∃ t, exec (.front c n) s = .next t ∧ (s.ctx c).FrontDone (t.ctx c) a.word a.cmt ∧ t.front.num = s.front.num + 1 ∧
        t.front.act = none ∧ t.vat = s.vat ∧ t.tiles = s.tiles) ∧
    (s.frontKind = .domain → s.front.held = false → (s.ctx c).en = true → s.front.recEn = false →
      ∃ t, exec (.front c n) s = .next t ∧ t.front.act = some { a with phase := .arrived s.clock } ∧ t.front.arrive = true ∧
        t.front.vout = (s.ctx c).voteWord ((e.insn.q 2).bits 15 0) ∧ t.front.vopar = oddParity t.front.vout ∧
        t.front.num = s.front.num ∧ t.vat = s.vat) ∧
    ((s.frontKind = .domain → s.front.held = false ∧ (s.ctx c).en = true) → s.front.recEn = true → 2 ^ 32 ≤ s.front.reca.toNat →
      ∃ t, exec (.front c n) s = .next t ∧ t.front.act = some a ∧ t.front.arrive = s.front.arrive ∧ t.front.num = s.front.num ∧
        ((s.freeTtag (Config.xlatPort (recaPage s.front.reca))).isSome = true →
          ∃ x ∈ t.xlats, x.ctx = c ∧ x.who = recordAccess ∧ x.write = true ∧ x.page = recaPage s.front.reca)) ∧
    (s.frontKind = .domain → s.front.held = true ∨ (s.ctx c).en = false →
      ∃ t f, exec (.front c n) s = .next t ∧ t.faulted c n 0 f ∧ f.code = 0x0D ∧ t.front.act = none ∧ t.front.arrive = false)

/-- 10 R315 to R332: a front whose ARRIVED record is written arrives, or completes where it is forced or solitary and the ring can take its
trail record; one whose record cannot be written faults; the first count of FRONT_GO with odd parity fixes its exit DELAY later, one with
even parity faults it; at its exit it completes with the reduced word, and a front that records leaves its DONE record to be written; that
is written, or REC_ERR is set; and in a calibration the count gives the round trip. A record's write waits for its translation and for a
tag of its memory port (log 65). -/
def Obligations.FrontCompletes : Prop :=
  (∀ (s u : State) (a : FrontAct) (ok : Bool), s.up = true → s.front.act = some a → a.phase = .recording →
    u = (s.askXlat a.ctx recordAccess true (recaPage s.front.reca)).recordStep →
    (u.recordWritten a.ctx s.front.reca ok = none → exec (.frontArrivedWritten ok) s = .next u) ∧
    (u.recordWritten a.ctx s.front.reca ok = some true →
      (a.kind = .domain → (s.ctx a.ctx).en = true →
        ∃ t, exec (.frontArrivedWritten ok) s = .next t ∧ t.front.act = some { a with phase := .arrived s.clock } ∧
          t.front.arrive = true ∧ t.front.vout = a.voteOut ∧ t.front.sent = none ∧ t.vat = s.vat) ∧
      (a.kind ≠ .domain → u.frontTrailReady = false → exec (.frontArrivedWritten ok) s = .next u) ∧
      (∀ e, a.kind ≠ .domain → u.frontTrailReady = true → (s.ctx a.ctx).entry a.seq = some e →
        ∃ t, exec (.frontArrivedWritten ok) s = .next t ∧ (s.ctx a.ctx).FrontDone (t.ctx a.ctx) a.word a.cmt ∧
          t.front.num = s.front.num + 1 ∧ t.front.act = none ∧ t.front.sent = none ∧ t.vat = s.vat)) ∧
    (∀ e, u.recordWritten a.ctx s.front.reca ok = some false → (s.ctx a.ctx).entry a.seq = some e →
      ∃ t f, exec (.frontArrivedWritten ok) s = .next t ∧ t.faulted a.ctx a.seq 0 f ∧ f.code = 0x03 ∧ t.front.act = none ∧
        t.front.sent = none)) ∧
  (∀ (s : State) (a : FrontAct) (since k : Nat) (w : BitVec 16), s.up = true → s.front.calBusy = false → s.front.act = some a →
    a.phase = .arrived since → 8 ≤ k → s.countFree (since + k) = true → a.limit = 0 ∨ k ≤ waitLimit a.limit →
    (∃ t, exec (.frontGoCount k w (oddParity w)) s = .next t ∧ t.clock = max s.clock (since + k) ∧
      t.front.act = some { a with phase := .counted (t.clock + s.front.delay.toNat) w }) ∧
    (∀ e, (s.ctx a.ctx).entry a.seq = some e →
      ∃ t f, exec (.frontGoCount k w (!oddParity w)) s = .next t ∧ t.faulted a.ctx a.seq 0 f ∧ f.code = 0x0A ∧ t.front.parity = true ∧
        t.front.act = none)) ∧
  (∀ (s : State) (k : Nat) (w : BitVec 16) (p : Bool), s.up = true → s.front.calBusy = true → 8 ≤ k → k < 2 ^ 16 →
    s.countFree (s.front.calSince + k) = true →
    ∃ t, exec (.frontGoCount k w p) s = .next t ∧ t.front.calBusy = false ∧ t.front.calValid = true ∧ t.front.rtt = BitVec.ofNat 16 k ∧
      t.front.arrive = false ∧ t.front.cal = false) ∧
  (∀ (s : State) (a : FrontAct) (e : Entry) (x : Nat) (w : BitVec 16), s.up = true → s.front.act = some a → a.phase = .counted x w →
    (s.ctx a.ctx).entry a.seq = some e → s.frontTrailReady = true →
    ∃ t, exec .frontExit s = .next t ∧ (s.ctx a.ctx).FrontDone (t.ctx a.ctx) w a.cmt ∧ t.clock = max s.clock x ∧
      t.front.num = s.front.num + 1 ∧ t.front.act = none ∧ t.front.arrive = false ∧ t.vat = s.vat ∧
      t.front.doneRec = if a.recEn then some (a.ctx, s.front.reca, a.doneRecord (t.ctx a.ctx) w) else none) ∧
  (∀ (s u : State) (c : CtxId) (at_ : BitVec 48) (bs : List Byte) (ok : Bool), s.up = true → s.front.doneRec = some (c, at_, bs) →
    u = (s.askXlat c recordAccess true (recaPage at_)).recordStep →
    (u.recordWritten c at_ ok = none → exec (.frontDoneWritten ok) s = .next u) ∧
    (u.recordWritten c at_ ok = some true →
      ∃ t, exec (.frontDoneWritten ok) s = .next t ∧ t.front = { s.front with doneRec := none, sent := none }) ∧
    (u.recordWritten c at_ ok = some false →
      ∃ t, exec (.frontDoneWritten ok) s = .next t ∧ t.front = { s.front with doneRec := none, sent := none, recErr := true }))

/-- 10 R322 to R324: FRONT_GO counted while FRONT_ARRIVE is low sets STRAY, counts it and changes nothing else of the front registers;
FRONT_GO held sets HELD; a front that waits past its limit faults with FRONT_TIMEOUT, and its signals fall. -/
def Obligations.FrontSignals : Prop :=
  (∀ s : State, s.up = true → s.front.arrive = false →
    ∃ t, exec .strayFrontGo s = .next t ∧ t.front = { s.front with stray := true, strays := satAdd s.front.strays 1, lastCount := some s.clock } ∧
      t.ctxs = s.ctxs) ∧
  (∀ (s : State) (k : Nat), s.up = true → s.front.lastCount = some k →
    ∃ t, exec .frontGoHeld s = .next t ∧ t.front = { s.front with held := true } ∧ t.clock = max s.clock (k + 2 ^ 20) ∧ t.ctxs = s.ctxs) ∧
  (∀ (s : State) (a : FrontAct) (e : Entry) (since : Nat), s.up = true → s.front.act = some a → a.phase = .arrived since → a.limit ≠ 0 →
    (s.ctx a.ctx).entry a.seq = some e →
    ∃ t f, exec .frontWaitTimeout s = .next t ∧ t.faulted a.ctx a.seq 0 f ∧ f.code = 0x0D ∧ f.finfo.bits 7 0 = 1 ∧ t.front.act = none ∧
      t.front.arrive = false ∧ t.front.num = s.front.num ∧ t.clock = max s.clock (since + waitLimit a.limit))

/-! Events of a window. -/

/-- 06 R191, 03 R95, R96, R103, 05 R157 to R159, 12 R391, R396: the scoreboard lets an instruction begin exactly when no earlier one that has not
ended conflicts with it; a unit that runs clean commits; the first event of an instruction's units begins it, and a TRESTORE of whose header
a word of the Vat cannot be corrected leaves every tile as it was; an uncorrectable word of the tile file in the lowest unit faults (a
TRESTORE has read the units of its header as it began); a span whose
totals agree commits, and one whose totals differ, or whose plane reports a parity mismatch, is counted and its planes are tested; it is
tried again on other planes while another is active; the third failure in succession faults; and the failure of a span whose words a
substitution has lost changes nothing but that it runs again (05 R165; log 28). -/
def Obligations.WindowEvents : Prop :=
  (∀ (s : State) (c : CtxId) (n : Seq) (e : Entry), s.up = true → (s.ctx c).entry n = some e → e.phase = .waiting → (s.ctx c).works = true →
    ((s.ctx c).free e = true → ∃ t, exec (.scoreboardBegin c n) s = .next t ∧ (t.ctx c).entry n = some { e with phase := .ready } ∧
      t.vat = s.vat ∧ t.tiles = s.tiles ∧ ∀ d, d ≠ c → t.ctx d = s.ctx d) ∧
    ((s.ctx c).free e = false → exec (.scoreboardBegin c n) s = .next s)) ∧
  (∀ (s s1 : State) (c : CtxId) (n : Seq) (e e1 : Entry) (P : Parts) (k : Nat), s.up = true → (s.ctx c).entry n = some e →
    partsOf e.insn = some P → (s.ctx c).mayRun e = true → s.unitsServe e.insn = true → (∀ r ∈ s.mapRegs e.insn, s.agrees r = true) →
    e.started = true → unitOpen P s e k = true → P.unit c s e k = .ok s1 e1 →
    exec (.slotCommit c n k .clean) s = .next (State.afterUnit P c (s1.forget c e1) (e1.commitUnit k))) ∧
  (∀ (s s1 : State) (c : CtxId) (n : Seq) (e e1 : Entry) (P : Parts) (k : Nat) (d : Detect), s.poised c n e = true →
    partsOf e.insn = some P → P.start c (s.putEntry c { e with hit := d }) e = .ok s1 e1 →
    let u := s1.forget c e1
    exec (.slotCommit c n k d) s = .next (State.slotAt P c (u.dropHit c n) e1.begun k (u.hitOf c n))) ∧
  (∀ (s : State) (c : CtxId) (n : Seq) (e : Entry) (k j : Nat) (u : Fin 128) (loc : BitVec 48), s.poised c n e = true →
    isOp .trestore e.insn = true → s.vatReady c (headerRuns e.insn) = true → j < 4 →
    (areaRun e.insn j).addr ≤ loc.toNat → (loc.toNat : Int) < (areaRun e.insn j).addr + 256 →
    ∃ t, exec (.slotCommit c n k (.uncorrectable .vatOrLane u loc)) s = .next t ∧ t.tiles = s.tiles ∧ t.tileMem = s.tileMem ∧
      t.vat = s.vat ∧ t.err.uncorr = satAdd s.err.uncorr 1 ∧
      (j ≤ e.upTo → ∃ f, t.faulted c n (e.countOf e.upTo) f ∧ f.code = 0x0A ∧ f.finfo.bits 2 0 = 1)) ∧
  (∀ (s : State) (c : CtxId) (n : Seq) (e : Entry) (P : Parts) (u : Fin 128) (loc : BitVec 48), s.up = true →
    (s.ctx c).entry n = some e → partsOf e.insn = some P → (s.ctx c).mayRun e = true → s.unitsServe e.insn = true →
    (∀ r ∈ s.mapRegs e.insn, s.agrees r = true) → e.started = true → (e.insn.op = some .trestore → 4 ≤ e.upTo) →
    e.failed = none → unitOpen P s e e.upTo = true →
    ∃ t f, exec (.slotCommit c n e.upTo (.uncorrectable .tileFile u loc)) s = .next t ∧ t.faulted c n (e.countOf e.upTo) f ∧
      f.code = 0x0A ∧ f.finfo.bits 2 0 = 0 ∧ t.err.uncorr = satAdd s.err.uncorr 1 ∧
      t.testing (.engine (Fin.ofNat 68 (s.physical (u.val % 64)))) = true ∧ t.vat = s.vat ∧
      (e.insn.op ≠ some .sperm → t.tileMem = s.tileMem)) ∧
  (∀ (s s1 : State) (c : CtxId) (n : Seq) (e e1 : Entry) (P : Parts) (o : Op) (k : Nat) (m : BitVec 5) (got : List Quad), s.up = true →
    (s.ctx c).entry n = some e → partsOf e.insn = some P → e.insn.op = some o → o.crossesPlane = true → (s.ctx c).mayRun e = true →
    s.unitsServe e.insn = true → (∀ r ∈ s.mapRegs e.insn, s.agrees r = true) → e.started = true → m ≠ 0 → (o = .tldG → (planesOf m).length = 1) →
    (planesOf m).all s.planeActive = true → (∀ p, s.testing (.plane p) = false) → unitOpen P s e k = true →
    P.unit c s e k = .ok s1 e1 →
    (s.avoids e k (planesOf m) = false → exec (.spanCheck c n k m got) s = .next s) ∧
    (s.avoids e k (planesOf m) = true → totalsAgree e.insn (e1.rchk - e.rchk) got = true →
      exec (.spanCheck c n k m got) s = .next (State.afterUnit P c (s1.forget c e1) (e1.commitUnit k))) ∧
    (s.avoids e k (planesOf m) = true → totalsAgree e.insn (e1.rchk - e.rchk) got = false → k ∈ e.spanLost →
      exec (.spanCheck c n k m got) s = .next (s.putEntry c { e with spanLost := e.spanLost.filter fun j => j != k })) ∧
    (s.avoids e k (planesOf m) = true → totalsAgree e.insn (e1.rchk - e.rchk) got = false → k ∉ e.spanLost →
      (countAt e.spanFails k < 2 →
        ∃ t f, exec (.spanCheck c n k m got) s = .next t ∧ (t.ctx c).entry n = some f ∧
          countAt f.spanFails k = countAt e.spanFails k + 1 ∧ f.failedPlanes k = planesOf m ∧ f.upTo = e.upTo ∧
          (∀ p ∈ planesOf m, t.planeActive p = false) ∧ t.vat = s.vat ∧ t.tileMem = s.tileMem) ∧
      (2 ≤ countAt e.spanFails k → e.failed = none → k = e.upTo →
        ∃ t f, exec (.spanCheck c n k m got) s = .next t ∧ t.faulted c n (e.countOf k) f ∧ f.code = 0x0A ∧ f.finfo.bits 2 0 = 2 ∧
          (∀ p ∈ planesOf m, t.planeActive p = false) ∧ t.vat = s.vat))) ∧
  (∀ (s : State) (c : CtxId) (n : Seq) (e : Entry) (P : Parts) (k : Nat) (u : Fin 128) (loc : BitVec 48), s.up = true →
    (s.ctx c).entry n = some e → partsOf e.insn = some P → e.crosses = true → (s.ctx c).mayRun e = true → s.unitsServe e.insn = true →
    (∀ r ∈ s.mapRegs e.insn, s.agrees r = true) → e.started = true → unitOpen P s e k = true → u.val < 5 →
    s.planeActive u.val = true → (∀ p, s.testing (.plane p) = false) →
    (s.avoids e k [u.val] = false → exec (.slotCommit c n k (.uncorrectable .fabric u loc)) s = .next s) ∧
    (s.avoids e k [u.val] = true → k ∈ e.spanLost →
      exec (.slotCommit c n k (.uncorrectable .fabric u loc)) s =
        .next (s.putEntry c { e with spanLost := e.spanLost.filter fun j => j != k })) ∧
    (s.avoids e k [u.val] = true → k ∉ e.spanLost → countAt e.spanFails k < 2 →
      ∃ t f, exec (.slotCommit c n k (.uncorrectable .fabric u loc)) s = .next t ∧ (t.ctx c).entry n = some f ∧
        countAt f.spanFails k = countAt e.spanFails k + 1 ∧ f.failedPlanes k = [u.val] ∧ f.upTo = e.upTo ∧ t.planeActive u.val = false ∧
        t.vat = s.vat ∧ t.tileMem = s.tileMem))

/-- 08 R263, R264: the sorter, when it is free, goes to the context of the highest QOS among those that offer an instruction, and among
equals to the one that comes next after the context served last; so does a place of the address path, of which there are four. -/
def Obligations.ScreenGrants : Prop :=
  ∀ s : State, s.up = true → s.testing .screen = false →
    (s.screen.owner = none → (∃ c, ((s.ctx c).offer usesSorter).isSome = true) →
      ∃ t c e, exec .screenGrant s = .next t ∧ (s.ctx c).offer usesSorter = some e ∧ t.screen.owner = some (c, e.seq) ∧
        t.screen.ptr = c ∧ (t.ctx c).entry e.seq = some { e with granted := true } ∧
        ∀ d, ((s.ctx d).offer usesSorter).isSome = true → (s.ctx d).qos.toNat < (s.ctx c).qos.toNat ∨
          ((s.ctx d).qos = (s.ctx c).qos ∧ turnOf s.screen.ptr c ≤ turnOf s.screen.ptr d)) ∧
    (s.screen.paths.length < 4 → (∃ c, ((s.ctx c).offer usesPath).isSome = true) →
      ∃ t c e, exec .addressPathGrant s = .next t ∧ (s.ctx c).offer usesPath = some e ∧ t.screen.paths = s.screen.paths ++ [(c, e.seq)] ∧
        t.screen.pathPtr = c ∧ (t.ctx c).entry e.seq = some { e with granted := true } ∧
        ∀ d, ((s.ctx d).offer usesPath).isSome = true → (s.ctx d).qos.toNat < (s.ctx c).qos.toNat ∨
          ((s.ctx d).qos = (s.ctx c).qos ∧ turnOf s.screen.pathPtr c ≤ turnOf s.screen.pathPtr d))

/-- 08 R275, 09 R293, 12 R413: an error of the Screen while an instruction holds it, or a lane parity error while one runs, enters the error
log with code 0x04 and its unit, the Screen or every macro of the segment is tested, and the instruction repeats; the third in succession
faults it with UNCORRECTABLE. The unit that a lane error discards has left open contents in the lane registers of its segment. A lane error
in the first unit of an instruction begins it, with its checks, and is met as any other. -/
def Obligations.UnitErrors : Prop :=
  ∀ (s : State) (c : CtxId) (n : Seq) (e : Entry) (P : Parts), s.up = true → (s.ctx c).entry n = some e → partsOf e.insn = some P →
    (s.ctx c).mayRun e = true → e.failed = none →
    (e.granted = true → s.testing .screen = false →
      (e.screenFail < 2 → ∃ t, exec (.screenError c n) s = .next t ∧ t.testing .screen = true ∧
        (t.ctx c).entry n = some { e with screenFail := e.screenFail + 1 } ∧ t.err = (s.logErr ⟨0x04, 3, 0, 0, 0⟩).err ∧ t.vat = s.vat) ∧
      (2 ≤ e.screenFail → ∃ t f, exec (.screenError c n) s = .next t ∧ t.testing .screen = true ∧ t.faulted c n (e.countOf e.upTo) f ∧
        f.code = 0x0A ∧ f.finfo.bits 2 0 = 5 ∧ t.err = (s.logErr ⟨0x04, 3, 0, 0, 0⟩).err ∧ t.vat = s.vat)) ∧
    (s.poised c n e = true → ∀ u g s1 e1, e.laneSegment u = some g → u < unitsIn e.insn.deckle.count → P.start c s e = .ok s1 e1 →
      unitOpen P (s1.forget c e1) e1.begun (e1.laneUnit u) = true →
      exec (.laneParityError c n u) s = .next (State.laneFails P c (s1.forget c e1) e1.begun g u)) ∧
    (e.started = true → s.unitsServe e.insn = true → (∀ r ∈ s.mapRegs e.insn, s.agrees r = true) → ∀ u g,
      e.laneSegment u = some g → g < 16 → u < unitsIn e.insn.deckle.count → unitOpen P s e (e.laneUnit u) = true →
      (countAt e.laneFails u < 2 → ∃ t f, exec (.laneParityError c n u) s = .next t ∧ (t.ctx c).entry n = some f ∧
        countAt f.laneFails u = countAt e.laneFails u + 1 ∧ f.upTo = e.upTo ∧
        (∀ m : Fin 16, t.testing (.macroOf (Fin.ofNat 16 g) m) = true) ∧ t.err = (s.logErr ⟨0x04, 2, 16 * g, 0, 0⟩).err ∧
        t.laneFree[g]? = some (some s.freeCtr) ∧ t.vat = s.vat) ∧
      (2 ≤ countAt e.laneFails u → e.laneUnit u = e.upTo → ∃ t f, exec (.laneParityError c n u) s = .next t ∧
        t.faulted c n (e.countOf e.upTo) f ∧ f.code = 0x0A ∧ f.finfo.bits 2 0 = 1 ∧ t.err = (s.logErr ⟨0x04, 2, 16 * g, 0, 0⟩).err ∧
        t.laneFree[g]? = some (some s.freeCtr) ∧ t.vat = s.vat))

/-- 06 R178, R197 to R199, 11 R380: when every instruction of a draining context has ended, the fault record takes the earliest faulted
instruction, with CK_CTX_DONE telling which of the 31 after it have completed, its event enters the queue, and the context is STOPPED, or
DISABLED with an empty window where ENABLE is clear, its program counter then at CK_CTX_FPC in program mode; a drain
without a fault leaves it DISABLED, or IDLE where ENABLE has been set again (the model's reading: log 50). Whether another
instruction faulted too is read as log 19 says. -/
def Obligations.DrainEnds : Prop :=
  ∀ (s : State) (c : CtxId), s.up = true → (s.ctx c).st = .draining → (s.ctx c).allEnded = true →
    (∀ n k f a, (s.ctx c).recorded = some (n, k, f, a) →
      ∃ t, exec (.drainEnd c) s = .next t ∧ (t.ctx c).valid = true ∧ (t.ctx c).code = f.code ∧ (t.ctx c).finfo = f.finfo ∧
        (t.ctx c).fseq = n ∧ (t.ctx c).count = BitVec.ofNat 32 k ∧ (t.ctx c).drained = (s.ctx c).otherFaults ∧
        (t.ctx c).fpc = (if (s.ctx c).prog then a else 0) ∧
        (∀ i, i < 31 → ((t.ctx c).doneBits.getLsbD i = true ↔
          ∃ e ∈ (s.ctx c).window, e.seq = n + 1 + BitVec.ofNat 16 i ∧ e.phase = .completed)) ∧
        (t.ctx c).pc = (if (s.ctx c).en = false ∧ (s.ctx c).prog = true then a else (s.ctx c).pc) ∧
        (∃ v, (t.ctx c).events.getLast? = some (.fault v) ∧ v.toNat % 256 = f.code.toNat) ∧
        (if (s.ctx c).en then (t.ctx c).st = .stopped ∧ (t.ctx c).window = (s.ctx c).window
         else (t.ctx c).st = .disabled ∧ (t.ctx c).window = [] ∧ (t.ctx c).retired = (s.ctx c).accepted) ∧
        (∀ d, d ≠ c → t.ctx d = s.ctx d) ∧ t.vat = s.vat ∧ t.tiles = s.tiles) ∧
    ((s.ctx c).recorded = none →
      ∃ t, exec (.drainEnd c) s = .next t ∧ (t.ctx c).st = (if (s.ctx c).en then .idle else .disabled) ∧ (t.ctx c).window = [] ∧
        (t.ctx c).retired = (s.ctx c).accepted ∧ (t.ctx c).events = (s.ctx c).events ∧ (∀ d, d ≠ c → t.ctx d = s.ctx d))

/-! Register writes. -/

/-- 06 R178, R180, R187, R200, R202, 14 R444: writes of CK_CTX_CTL from a domain that may: ENABLE set, ENABLE cleared, START, RESUME, which
after a fetch fault fetches again from CK_CTX_FPC, and ABORT. -/
def Obligations.ContextControl : Prop :=
  ∀ (s : State) (src : Source) (c : CtxId), s.opens src 0 (ctlOff c) = true → s.ownerSrc c src = true →
    ((s.ctx c).en = false → s.glob.bu = 5 → s.korni.startOwed = false →
      ∃ t, exec (.ctxEnable src c) s = .next t ∧ (∀ d, d ≠ c → t.ctx d = s.ctx d) ∧ t.vat = s.vat ∧ t.tiles = s.tiles ∧
        t.ctx c = { s.ctx c with en := true, valid := false, st := if (s.ctx c).st = .disabled then .idle else (s.ctx c).st }) ∧
    ((s.ctx c).en = true →
      ∃ t, exec (.ctxDisable src c) s = .next t ∧ (t.ctx c).en = false ∧ t.vat = s.vat ∧ t.tiles = s.tiles ∧
        (t.ctx c).st = (if (s.ctx c).st = .draining ∨ ((s.ctx c).st = .run ∧ (s.ctx c).window ≠ []) then .draining else .disabled) ∧
        ((s.ctx c).st = .stopped → (t.ctx c).window = [] ∧ (t.ctx c).retired = (s.ctx c).accepted ∧ (t.ctx c).valid = false)) ∧
    ((s.ctx c).prog = true → (s.ctx c).st = .idle ∨ (s.ctx c).st = .halted → s.shut c = false →
      ∃ t, exec (.start src c) s = .next t ∧ t.ctx c = { s.ctx c with st := .run, fetching := true, halting := false, brWait := none } ∧
        ∀ d, d ≠ c → t.ctx d = s.ctx d) ∧
    ((s.ctx c).st = .stopped → s.shut c = false →
      ∃ t, exec (.resume src c) s = .next t ∧ (t.ctx c).valid = false ∧ (t.ctx c).doneBits = 0 ∧
        (t.ctx c).window = (dropCompleted (s.ctx c).retired ((s.ctx c).window.map (s.ctx c).rerun)).2 ∧
        ((t.ctx c).window ≠ [] → (t.ctx c).st = .run) ∧
        (t.ctx c).pc = (if (s.ctx c).prog && (s.ctx c).fetchRecorded then (s.ctx c).fpc else (s.ctx c).pc) ∧ (∀ d, d ≠ c → t.ctx d = s.ctx d)) ∧
    ((s.ctx c).st = .stopped →
      ∃ t, exec (.abort src c) s = .next t ∧ (t.ctx c).st = .idle ∧ (t.ctx c).window = [] ∧ (t.ctx c).retired = (s.ctx c).accepted ∧
        (t.ctx c).valid = false ∧ (t.ctx c).pc = (if (s.ctx c).prog then (s.ctx c).fpc else (s.ctx c).pc) ∧
        ∀ d, d ≠ c → t.ctx d = s.ctx d)

/-- 14 R439 to R443, R447: a change of DOMAIN or SECURE clears the context's state; a lease register takes a value at once where no granted
tile or region has another owner tag, and otherwise once what it grants has been cleared and tagged; a 32-bit write that has waited changes
its own half alone of the register as it then stands (16 R478). -/
def Obligations.DomainsAndLeases : Prop :=
  (∀ (s : State) (src : Source) (c : CtxId) (d : BitVec 8), s.opens src 0 (ctlOff c) = true → s.superSrc src = true →
    (s.ctx c).st = .disabled → d ≠ (s.ctx c).domain →
    ∃ t, exec (.domainWrite src c d) s = .next t ∧ t.ctx c = { (s.ctx c).clearDomain with domain := d } ∧ t.tiles = s.tiles ∧
      t.vat = s.vat ∧ t.tileOwner = s.tileOwner ∧ ∀ x, x ≠ c → t.ctx x = s.ctx x) ∧
  (∀ (s : State) (src : Source) (c : CtxId) (on : Bool), s.opens src 0 (ctlOff c) = true → s.srcDomain src = s.sec.secdom →
    (s.ctx c).st = .disabled → on ≠ (s.ctx c).secure → (on = true → s.maySecure = true) →
    ∃ t, exec (.secureWrite src c on) s = .next t ∧ t.ctx c = { (s.ctx c).clearDomain with secure := on } ∧ t.tiles = s.tiles ∧
      t.vat = s.vat ∧ ∀ x, x ≠ c → t.ctx x = s.ctx x) ∧
  (∀ (s : State) (src : Source) (c : CtxId) (k : LeaseKind) (p : Part) (v w : Quad), s.takesWrite src 0 (leaseOff c k) p v = true →
    s.superSrc src = true → (s.ctx c).st = .disabled → w = Access.merge ⟨none, p, v, false⟩ ((s.ctx c).leaseReg k) →
    s.grantRefused c k w = false →
    (s.grantClears c k w = [] → ∃ t, exec (.leaseWrite src c k p v) s = .next t ∧ (t.ctx c).leaseReg k = w ∧ t.leaseWaits = s.leaseWaits ∧
      t.tiles = s.tiles ∧ t.tileMem = s.tileMem ∧ t.vat = s.vat ∧ ∀ x, x ≠ c → t.ctx x = s.ctx x) ∧
    (s.grantClears c k w ≠ [] → ∃ t, exec (.leaseWrite src c k p v) s = .next t ∧ t.leaseWaits = s.leaseWaits ++ [⟨src, 0, c, k, p, v⟩] ∧
      t.ctxs = s.ctxs ∧ t.resp = s.resp)) ∧
  (∀ (s : State) (w : LeaseWait) (r : List LeaseWait) (v : Quad), s.up = true → s.leaseWaits = w :: r → (s.ctx w.ctx).st = .disabled →
    v = Access.merge ⟨none, w.part, w.value, true⟩ ((s.ctx w.ctx).leaseReg w.kind) → s.grantRefused w.ctx w.kind v = false →
    ∃ t, exec .leaseClearDone s = .next t ∧ t.leaseWaits = r ∧ (t.ctx w.ctx).leaseReg w.kind = v ∧
      (∀ i ∈ (s.ctx w.ctx).grants w.kind v, t.ownerOf w.kind i = some (s.ctx w.ctx).sdom) ∧
      (∀ i ∈ s.grantClears w.ctx w.kind v, match w.kind with
        | .tile _ => t.tile i = { lost := (s.tile i).lost } ∧ t.tileBytes i 0 32768 = List.replicate 32768 0
        | .vat _ => ∀ o, o < 0x100000 → byteAt t.vat (i * 0x100000 + o) = 0))

/-- 02 R50, 09 R298, 12 R407, 13 R431, 16 R493: format entries, curve registers and throttle tables take a whole write at once, with reserved
bits zero, and a half that waited is discarded; a write of bits 31:0 waits for the write of bits 63:32, which takes effect with it, or with
the standing half where none waits; a write with a reserved KIND or NAN_MODE, or one that 13 R431 bars, is refused and changes no value; a
write reads the registers of the tables that its tests name, and its own where a half of it stands, which rewrites a minority copy and changes
no value (12 R405; log 44); the fixed format entries take none. A pattern quad takes the bits that the KIND standing in its register gives a field. -/
def Obligations.TableWrites : Prop :=
  (∀ (s : State) (src : Source) (n : Fin 32) (p : Part) (v : Quad) (r : TabReg), r = .fmt (Fin.ofNat 16 (n.val - 16)) →
    s.takesWrite src 0 (0x4000 + 16 * n.val) p v = true →
    (n.val < 16 → ∃ t, exec (.fmtWrite src n p v) s = .next t ∧ t.tab = s.tab ∧ t.vat = s.vat) ∧
    (16 ≤ n.val → s.tableDomain (s.srcDomain src) = true →
      (Access.reservedFmt ⟨none, p, v, false⟩ = true → exec (.fmtWrite src n p v) s =
        .next ((s.readFor (0x4000 + 16 * n.val) ⟨some (s.srcDomain src), p, v, false⟩).answer src 0 true)) ∧
      (Access.reservedFmt ⟨none, p, v, false⟩ = false →
        ∃ t, exec (.fmtWrite src n p v) s = .next t ∧ s.tableTakes t r p v (· &&& fmtMask)))) ∧
  (∀ (s : State) (src : Source) (k : Fin 16) (hi : Bool) (p : Part) (v : Quad) (r : TabReg), r = .scurve (Fin.ofNat 32 (2 * k.val + b2n hi)) →
    s.takesWrite src 0 (0x5000 + 16 * k.val + 8 * b2n hi) p v = true → s.tableDomain (s.srcDomain src) = true →
    ∃ t, exec (.scurveWrite src k hi p v) s = .next t ∧ s.tableTakes t r p v (· &&& curveMask r)) ∧
  (∀ (s : State) (src : Source) (n : Fin 24) (p : Part) (v : Quad) (r : TabReg), regAt (tcurveOff n) = .curve r →
    s.takesWrite src 0 (tcurveOff n) p v = true → s.superSrc src = true →
    let u := s.readFor (tcurveOff n) ⟨some (s.srcDomain src), p, v, false⟩
    (∀ q : TabReg, u.tabVal q = s.tabVal q) ∧
    (s.throttleRefused r ⟨none, p, v, false⟩ = true → exec (.tcurveWrite src n p v) s = .next (u.answer src 0 true)) ∧
    (s.throttleRefused r ⟨none, p, v, false⟩ = false →
      ∃ t, exec (.tcurveWrite src n p v) s = .next t ∧ u.tableTakes t r p v (clampEnvelope r))) ∧
  (∀ (s : State) (src : Source) (c : CtxId) (n q : Fin 32) (p : Part) (v : Quad),
    s.takesWrite src 0 (0x10000 + 0x2000 * c.val + 0x100 * n.val + 8 * q.val) p v = true → s.ownerSrc c src = true →
    let x := s.ctx c
    let m := fieldMask (patFields (patKind (x.patQuad n.val 0)) q.val) &&& partMask p
    let w := (x.patQuad n.val q.val &&& ~~~m) ||| (v &&& m)
    (q.val ≠ 0 ∨ patKind w = patKind (x.patQuad n.val 0) →
      ∃ t, exec (.patQuadWrite src c n q p v) s = .next t ∧ (t.ctx c).patQuad n.val q.val = w ∧
        ∀ (n' q' : Fin 32), (n', q') ≠ (n, q) → (t.ctx c).patQuad n'.val q'.val = x.patQuad n'.val q'.val) ∧
    (q.val = 0 → patKind w ≠ patKind (x.patQuad n.val 0) →
      ∃ t, exec (.patQuadWrite src c n q p v) s = .next t ∧
        (t.ctx c).patQuad n.val 0 = w &&& fieldMask (patFields (patKind (x.patQuad n.val 0)) 0) ∧
        ∀ q' : Fin 32, q'.val ≠ 0 → (t.ctx c).patQuad n.val q'.val = 0))

/-- 10 R328, R342, R343, R345, 11 R352, R371: REMAP changes while no context runs a program; a failed port returns to service; a calibration
begins; the Korni mode starts a new trace, with its START record in READY, whose bytes go to BASE; HEAD is written in replay mode and TAIL
in record mode. -/
def Obligations.BoundaryRegisters : Prop :=
  (∀ (s : State) (src : Source) (b : Bool), s.opens src 0 0x1000 = true → s.superSrc src = true → s.mayRemap = true →
    ∃ t, exec (.remapWrite src b) s = .next t ∧ t.felt = { s.felt with remap := b } ∧ t.ctxs = s.ctxs) ∧
  (∀ (s : State) (src : Source) (f : BitVec 8) (r : BitVec 4), s.opens src 0 0x1048 = true → s.superSrc src = true →
    ∃ t, exec (.portReturn src f r) s = .next t ∧ t.felt = s.felt ∧
      ∀ p : Fin 12, t.port p = if (if p.val < 8 then f.getLsbD p.val else r.getLsbD (p.val - 8)) && (s.port p).fail then
        (s.port p).returned else s.port p) ∧
  (∀ (s : State) (src : Source), s.opens src 0 0x6010 = true → s.superSrc src = true → s.front.enable = true → s.front.calBusy = false →
    s.front.act = none →
    ∃ t, exec (.frontCalStart src) s = .next t ∧ t.front.calBusy = true ∧ t.front.arrive = true ∧ t.front.cal = true ∧ t.front.vout = 0 ∧
      t.ctxs = s.ctxs) ∧
  (∀ (s : State) (src : Source) (m : BitVec 2), s.opens src 0 0x6100 = true → s.superSrc src = true → s.allDisabled = true →
    16 ≤ s.korni.log2size.toNat → s.korni.log2size.toNat ≤ 36 → (s.sec.lc = 2 → m ≠ 0 → ∀ c, (s.ctx c).secure = false) →
    (m = s.korni.mode → ∃ t, exec (.korniModeSet src m) s = .next t ∧ t.korni = (s.putWrite (s.recordsWrite src) 0x6100 .whole
      (setField (s.regVal .korniCtl) 0 2 m.toNat)).korni) ∧
    (m ≠ s.korni.mode → m ≠ 1 → ∃ t, exec (.korniModeSet src m) s = .next t ∧ t.korni.mode = m ∧ t.korni.head = 0 ∧ t.korni.tail = 0 ∧
      t.korni.ord = 0 ∧ t.korni.startOwed = false) ∧
    (m ≠ s.korni.mode → m = 1 → s.glob.bu = 5 → ∃ t, exec (.korniModeSet src m) s = .next t ∧ t.korni.mode = 1 ∧ t.korni.head = 64 ∧
      t.korni.tail = 0 ∧ t.korni.ord = 1 ∧ t.korni.startOwed = false ∧
      t.korni.out = s.korni.out ++ blockPieces s.korni.base.toNat (korniBytes 1 0 0 0 s.startPayload))) ∧
  (∀ (s : State) (src : Source) (v : Quad), s.superSrc src = true →
    (s.opens src 0 0x6110 = true → ∃ t, exec (.korniHeadWrite src v) s = .next t ∧
      t.korni = if s.korni.mode = 2 then { s.korni with head := v } else (s.putWrite (s.recordsWrite src) 0x6110 .whole v).korni) ∧
    (s.takesWrite src 0 0x6118 .whole v = true → s.korni.dropped = 0 → ∃ t, exec (.korniTailWrite src v) s = .next t ∧
      t.korni.tail = (if s.korni.mode = 1 then v else s.korni.tail) ∧
      (s.recordsWrite src = false → t.korni = { s.korni with tail := if s.korni.mode = 1 then v else s.korni.tail })))

/-- 12 R412, 13 R423, R433, 15 R460, R468: GO begins TEST; the supervisor context moves; EN clear holds LVL at 31; CCACK accepts a pending
class; START of CK_ST_CTL takes the unit out of service for its test. -/
def Obligations.GlobalRegisters : Prop :=
  (∀ (s : State) (src : Source), s.opens src 0 0x0020 = true → s.superSrc src = true → s.allDisabled = true →
    (s.glob.bu = 2 → ∃ t, exec (.go src) s = .next t ∧ t.glob = { s.glob with bu := 3, quads := 0 } ∧ t.pwr.qpwrEn = 1 ∧
      t.ctxs = s.ctxs ∧ t.tiles = s.tiles) ∧
    (s.glob.bu ≠ 2 → ∃ t, exec (.go src) s = .next t ∧ t.glob = s.glob ∧ t.pwr = s.pwr) ∧
    (∀ c : CtxId, ∃ t, exec (.superWrite src c) s = .next t ∧ t.superCtx = c ∧ t.ctxs = s.ctxs)) ∧
  (∀ (s : State) (src : Source) (b : Bool), s.opens src 0 0x7000 = true → s.superSrc src = true →
    (∃ t, exec (.pwrEnWrite src b) s = .next t ∧ t.pwr.en = b ∧ t.pwr.minstep = s.pwr.minstep ∧ (b = false → t.pwr.lvl = 31) ∧
      (b = true → t.pwr.lvl = s.pwr.lvl)) ∧
    (∃ t, exec (.ccack src) s = .next t ∧ t.pwr.ccack = (s.pwr.ccack || s.pwr.ccpend) ∧ t.pwr.cls = s.pwr.cls)) ∧
  (∀ (s : State) (src : Source) (k : BitVec 4) (u : BitVec 8) (x : TestUnit), s.opens src 0 0x8A00 = true → s.superSrc src = true →
    unitOf k.toNat u.toNat = some x →
    ∃ t, exec (.stStart src k u) s = .next t ∧ t.testing x = true ∧ t.st.busy = true ∧ t.st.kind = k ∧ t.st.unit = u)

/-- 14 R449, 15 R469 to R472: LOCK sets LOCKED and leaves the rest of CK_SEC_CTL; a change of SSIZE starts a wipe; FREEZE holds the
counters for reads, CLEAR zeroes them, and they stay so but for those that work in progress advances; debug halt takes its contexts, and STEP
gives each one credit, but none to a secure context in PRODUCTION. The counters of timing that work has advanced take an open value when they
are frozen (log 16). -/
def Obligations.SecurityAndDebugRegisters : Prop :=
  (∀ (s : State) (src : Source), s.opens src 0 0x9000 = true → s.superSrc src = true → s.sec.locked = false → s.secureSize ≤ 32 →
    ∃ t, exec (.lock src) s = .next t ∧ t.sec = { s.sec with locked := true } ∧ t.ctxs = s.ctxs) ∧
  (∀ (s : State) (src : Source) (k : BitVec 6), s.opens src 0 0x9000 = true → k.toNat ≤ 32 → s.sec.lc ≠ 3 →
    (s.sec.locked = false ∧ s.superSrc src = true) ∨
      (s.sec.locked = true ∧ s.srcDomain src = s.sec.secdom ∧ s.allDisabled = true) →
    (k = s.sec.ssize → ∃ t, exec (.ssizeWrite src k) s = .next t ∧ t.sec = s.sec) ∧
    (k ≠ s.sec.ssize → ∃ t, exec (.ssizeWrite src k) s = .next t ∧ t.sec.ssize = k ∧ t.sec.wiping = true ∧ t.sec.closed = true ∧
      t.sec.secdom = s.sec.secdom)) ∧
  (∀ (s : State) (src : Source), s.opens src 0 0x0100 = true → s.superSrc src = true →
    (s.tel.freeze = false → ∃ t, exec (.freeze src true) s = .next t ∧ t.tel.freeze = true ∧
      t.regVal (.tel 15) = BitVec.ofNat 64 s.clock ∧
      ∀ i : Fin 15, i.val ∉ s.timesDue → t.regVal (.tel (Fin.ofNat 16 i.val)) = s.tel.counts[i]) ∧
    (∃ t, exec (.freeze src false) s = .next t ∧ t.tel.freeze = false ∧ t.tel.counts = s.tel.counts) ∧
    (∃ t, exec (.clear src) s = .next t ∧ t.tel.counts = Vector.replicate 15 0 ∧ t.tel.freeze = s.tel.freeze ∧
      ∀ i ∈ t.timesDue, i ∈ s.timesNow)) ∧
  (∀ (s : State) (src : Source) (m : BitVec 8), s.opens src 0 0x0200 = true → s.superSrc src = true →
    (∃ t, exec (.debugHalt src m) s = .next t ∧ t.dbg = { s.dbg with halt := m } ∧
      ∀ c, t.ctx c = if m.getLsbD c.val && !s.traceMask c then s.ctx c else { s.ctx c with credits := 0 }) ∧
    (∃ t, exec (.debugStep src m) s = .next t ∧ t.dbg = s.dbg ∧
      ∀ c, (t.ctx c).credits = if s.dbg.halt.getLsbD c.val && !s.traceMask c then (s.ctx c).credits + b2n (m.getLsbD c.val) else 0))

/-- 00 R10, R11, 10 R345, 14 R444, 16 R478, R481: a register write that is refused changes nothing but its response and the minority copies of
the table registers that it reads (12 R405); one that is carried out
has its register's effect, its record in record mode and its response; a read returns the register's value, and clears the
read-to-clear fields of the half it returns, and no others; a read from a domain that may not is answered with an error. A write gives the
fields of a register without a row of its own the written bits, and clears the flags that it writes 1 to; a counter of timing that work has
advanced reads an open value, and every other counter what it has counted (log 16). -/
def Obligations.RegisterAccess : Prop :=
  (∀ (s : State) (src : Source) (off : BitVec 24) (p : Part) (v : Quad) (g : Bool), s.takesWrite src 0 off.toNat p v = true →
    let b := s.readFor off.toNat ⟨some (s.srcDomain src), p, v, g⟩
    (∃ tab l d, b = { s with tab := tab, err := l, dbg := d } ∧ ∀ q : TabReg, b.tabVal q = s.tabVal q) ∧
    ((∀ n, regAt off.toNat ≠ .fmtLo n) → (∀ q, regAt off.toNat ≠ .curve q) → (∀ q, regAt off.toNat ≠ .spare q) → b = s) ∧
    (∀ u, b.writeReg (regAt off.toNat) ⟨some (s.srcDomain src), p, v, g⟩ = .ok u →
      exec (.registerWrite src off p v g) s = .next (s.written src 0 off.toNat p v u)) ∧
    (b.writeReg (regAt off.toNat) ⟨some (s.srcDomain src), p, v, g⟩ = .refused →
      exec (.registerWrite src off p v g) s = .next (b.answer src 0 true))) ∧
  (∀ (s : State) (src : Source) (off : BitVec 24) (p : Part) (v : Quad) (g : Bool), s.takesWrite src 0 off.toNat p v = true →
    let r := regAt off.toNat
    let w := Access.merge ⟨none, p, v, g⟩ (s.regVal r)
    let z := v &&& partMask p
    ∃ t, exec (.registerWrite src off p v g) s = .next t ∧
      (s.superSrc src = true →
        match r with
        | .feltCtl => w.bit 0 = s.felt.remap → t.felt = { s.felt with
            dmz := w.bit 1, starve := field 8 w 8, eddyQos := field 4 w 16, intQos := field 4 w 20 }
        | .park n => t.felt.park[n] = if n.val = 5 then w &&& 0x0000FFFFFFFFFFFF else w
        | .miss => t.felt.missValid = (s.felt.missValid && !z.bit 63)
        | .portStat => t.felt.issPar = (s.felt.issPar && !z.bit 48) ∧ ∀ k : Fin 12, (t.port k).stall = ((s.port k).stall && !z.bit k.val)
        | .sbStat => t.sb = { s.sb with
            tnoisy := s.sb.tnoisy && !(z.bit 1 && !s.sb.tamper), lcnoisy := s.sb.lcnoisy && !z.bit 2, lcbad := s.sb.lcbad && !z.bit 3
            ccnoisy := s.sb.ccnoisy && !z.bit 4, thnoisy := s.sb.thnoisy && !z.bit 5
            qpnoisy := if z.bit 6 then s.sb.qpnoisy &&& ~~~s.pwr.qpwrOk else s.sb.qpnoisy }
        | .dbgCtl => coversLow p = true → t.dbg = { s.dbg with
            halt := field 8 v 0, traceEn := v.bit 16, traceInstr := v.bit 17, traceCtx := field 8 v 24 }
        | .frontCfg => s.quiet s.owner = true → s.quiet (ctxOf (w.bits 3 1)) = true → t.front = { s.front with
            enable := w.bit 0, owner := field 3 w 1, recEn := w.bit 4, chipsM1 := field 12 w 8, limit := field 5 w 24 }
        | .frontDly => t.front = { s.front with delay := field 12 w 0 }
        | .frontStat => t.front = { s.front with
            stray := s.front.stray && !z.bit 1, noisy := s.front.noisy && !z.bit 2, held := s.front.held && !(z.bit 3 && g)
            parity := s.front.parity && !z.bit 4, recErr := s.front.recErr && !z.bit 5 }
        | .frontReca => s.quiet s.owner = true → w.bits 5 0 = 0 → t.front = { s.front with reca := w.setWidth 48 }
        | .frontForce => s.quiet s.owner = true → t.front = { s.front with word := field 16 w 0, arm := w.bit 16 }
        | .frontNum => s.quiet s.owner = true → t.front = { s.front with num := w.setWidth 32 }
        | .korniBase => s.allDisabled = true → t.korni.base = w.setWidth 48
        | .korniStat => t.korni.lost = (s.korni.lost && !z.bit 0) ∧ t.korni.diverged = (s.korni.diverged && !z.bit 1)
        | .pwrCtl => t.pwr.en = w.bit 0 ∧ t.pwr.minstep = field 5 w 8
        | .pwrStat => t.pwr = { s.pwr with
            overLim := s.pwr.overLim && !z.bit 14, hot := s.pwr.hot && !z.bit 15, crit := s.pwr.crit && !z.bit 16 }
        | .errCtl => t.err = { s.err with
            scrubEn := w.bit 0, scrubRate := field 4 w 4, thrashN := field 8 w 8, thrashW := field 5 w 16, evtEn := w.bit 24 }
        | .errTail => t.err = { s.err with
            tail := if w.toNat ≤ s.err.head.toNat ∧ s.err.head.toNat ≤ w.toNat + 64 then w else s.err.tail }
        | .spare .spareRet => s.allDisabled = true → s.glob.bu = 5 → t.tabVal .spareRet = w
        | .spare .host => s.allDisabled = true → s.tabVal .hosted = 0 → t.tabVal .host = w &&& 0x7F01
        | .spare (.colmap m) => s.allDisabled = true → s.elementTaken m.val w = false → t.tabVal (.colmap m) = w &&& 0x7FFFF
        | .secCtl => s.sec.locked = false → w.bits 5 0 = s.secureSize → s.secureSize ≤ 32 →
            t.sec.secdom = field 8 w 8 ∧ t.sec.twmask = field 8 w 16 ∧ t.sec.wiping = s.sec.wiping
        | .secStat => t.sec = { s.sec with wiped := s.sec.wiped && !z.bit 4 }
        | _ => True) ∧
      match r with
      | .gen c => s.ownerSrc c src = true →
          (t.ctx c).gen = if (s.ctx c).st = .disabled ∨ (s.ctx c).st = .stopped then w.setWidth 32 else (s.ctx c).gen
      | .ctx c k => s.ownerSrc c src = true →
          match k with
          | .pc => (t.ctx c).pc = if (s.ctx c).settled then w.setWidth 48 else (s.ctx c).pc
          | .seed n => (t.ctx c).seeds[n] = w
          | .step n => (t.ctx c).steps[n] = w.setWidth 32 ∧ (t.ctx c).autos.getLsbD n.val = w.bit 32
          | .lcnt n => (t.ctx c).lcnt[n] = if (s.ctx c).settled then w.setWidth 32 else (s.ctx c).lcnt[n]
          | _ => True
      | _ => True) ∧
  (∀ (s : State) (src : Source) (off : BitVec 24) (p : Part), s.up = true → off.toNat % 8 = 0 → s.idWaits src 0 = false →
    let r := regAt off.toNat
    let d := s.srcDomain src
    (s.mayRead r d = false → exec (.rscRead src off p) s = .next (s.answerRead src true off.toNat p [])) ∧
    (s.mayRead r d = true → (∀ n, r ≠ .tel n) ∨ s.tel.freeze = true →
      ∃ u, exec (.rscRead src off p) s = .next (u.answerRead src false off.toNat p (partBytes p (s.regVal r))) ∧
        match r with
        | .ctx c .stat => u = if coversHigh p then s.upCtx c fun x => { x with reject := 0 } else s
        | .dbgStat => u = { s with dbg := { s.dbg with drops := if coversLow p then 0 else s.dbg.drops } }
        | .portStat => u = { s with felt := { s.felt with retries := if coversHigh p then 0 else s.felt.retries } }
        | .sbStat => u = { s with sb := { s.sb with
            tglitch := if coversLow p then 0 else s.sb.tglitch, mglitch := if coversHigh p then 0 else s.sb.mglitch } }
        | .frontStat => u = { s with front := { s.front with
            strays := if coversLow p then 0 else s.front.strays, glitches := if coversHigh p then 0 else s.front.glitches } }
        | .pwrBlk => u = { s with pwr := { s.pwr with overs := if coversHigh p then 0 else s.pwr.overs } }
        | .errCnt => u = { s with err := { s.err with
            corr := if coversLow p then 0 else s.err.corr, uncorr := if coversLow p then 0 else s.err.uncorr
            dropped := if coversHigh p then 0 else s.err.dropped } }
        | .secStat => u = { s with sec := { s.sec with
            wipes := if coversLow p && (s.fromSuper d || d == s.sec.secdom) then 0 else s.sec.wipes } }
        | r => u = s.beforeRead r) ∧
    (∀ n, s.mayRead r d = true → r = .tel n → s.tel.freeze = false →
      ∃ u : State, exec (.rscRead src off p) s = .next (u.answerRead src false off.toNat p (partBytes p (u.regVal r))) ∧ u.tel.freeze = false ∧
        (n.val ∉ s.timesDue → u.regVal r = s.regVal r))) ∧
  (∀ (s : State) (d : BitVec 8), s.up = true → s.idWaits (.eddy d) 0 = false →
    ∃ t r, exec (.rscRead (.eddy d) 0x8018 .whole) s = .next t ∧ t.resp = s.resp ++ [r] ∧ r.id = 0 ∧ r.err = false ∧
      r.beats.map EddyBeat.data = [partBytes .whole (s.regVal .errCnt)] ∧ t.regVal .errCnt = 0)

/-- 00 R10, 11 R353, R357, R381, R382, 12 R391, R392, R405, R406, 14 R444, R453: the tests of an eddy command in order: a command with an ID
above 11 or across a 64-byte line, or to chip memory, is answered with an error and changes nothing else; a miss, in a hole of the map or of
sequencer space, is recorded, and answered with an error or, with DMZ, with zero bytes. A Vat access needs a context of the command's domain
that holds the region's lease; then it reads or writes the enabled bytes, in the tile store where a hosted tile lies in them. The boot ROM is
read and takes no write, working RAM is read from every domain and written from the supervisor's. A command in the control window waits behind
one of its identifier; it reads or writes a register or a half of one, and one of another size, alignment or pattern of byte enables is
refused. A port with 12 commands outstanding takes none. A Vat access reads the registers that describe its segment's columns: where each has
a majority it is as once the minority copies are rewritten, and where one has none it fails (log 44). A word whose error the protection
reports is counted, logged and tested, and one that cannot be corrected gives its read no data (log 59). A response waits behind those that
have not transferred; that of a read has the beats that the command spans, each byte in its lane and LAST on the final one; the lanes
outside are open (log 59). -/
def Obligations.EddyCommands : Prop :=
  (∀ (s : State) (write : Bool) (addr : BitVec 48) (len : BitVec 6) (id : BitVec 4) (dom : BitVec 8) (data : List Byte) (be : List Bool)
    (g : Bool) (d : Detect), s.up = true →
    let n := len.toNat + 1
    let o := addr.toNat - 0x40000000
    let k : EddyCmd := ⟨write, addr.toNat, n, id, dom, data, be, g, d⟩
    let go (s : State) := exec (.eddyCommand write addr len id dom data be ⟨g, d⟩) s
    let err (s : State) := if write then s.respondWrite id true else s.respondRead id true addr.toNat n []
    let quiet := ∀ w u loc, d = .corrected w u loc ∨ d = .uncorrectable w u loc → k.hits w loc = false
    let whole := be = List.replicate (eddyBeats addr len) true ∧ data.length = eddyBeats addr len
    (s.eddyFull = true → go s = .next s) ∧
    (s.eddyFull = false → 12 ≤ id.toNat ∨ 64 < addr.toNat % 64 + n ∨ 2 ^ 32 ≤ addr.toNat → go s = .next (err s)) ∧
    (s.eddyFull = false → id.toNat < 12 → addr.toNat % 64 + n ≤ 64 →
      (0x80000000 ≤ addr.toNat → addr.toNat < 0x81000000 → s.idWaits (.eddy dom) id = true → go s = .next s) ∧
      ((0x48000000 ≤ addr.toNat ∧ addr.toNat < 0x80000000) ∨ (0x81000000 ≤ addr.toNat ∧ addr.toNat < 2 ^ 32) ∨
          (addr.toNat < 0x40000000 ∧ s.seqPlace addr.toNat = .miss) →
        ∃ t, go s = .next t ∧ t.vat = s.vat ∧ t.ram = s.ram ∧ t.ctxs = s.ctxs ∧ t.felt.missValid = true ∧
          t.resp = (if s.felt.dmz then (if write then s.respondWrite id false else
            s.respondRead id false addr.toNat n (List.replicate n 0)) else err s).resp) ∧
      (0x40000000 ≤ addr.toNat → addr.toNat < 0x48000000 →
        (s.vatFrom dom o = false ∨ (write = true ∧ s.korni.mode = 2) → go s = .next (err s)) ∧
        (s.vatFrom dom o = true → s.segmentBusy (vatSegment o) = false → (write = true → s.korni.mode ≠ 2) →
          (s.vatMapBad (vatSegment o) = true →
            ∃ u, go s = .next (err u) ∧ u.vat = s.vat ∧ u.tileMem = s.tileMem ∧ u.ctxs = s.ctxs ∧ u.resp = s.resp) ∧
          ((∀ r ∈ TabReg.host :: segmentRegs (vatSegment o), ((r.get s.tab).vote).isSome = true) → go s = go (s.readColumns o)) ∧
          ((∀ r ∈ TabReg.host :: segmentRegs (vatSegment o), s.agrees r = true) →
            (write = false → quiet →
              (s.hostedAt o = none → go s = .next ((s.mark [5]).respondRead id false addr.toNat n (bytesAt s.vat o n))) ∧
              (∀ i, s.hostedAt o = some i →
                go s = .next ((s.mark [5]).respondRead id false addr.toNat n (bytesAt s.tileMem i n)))) ∧
            (∀ u loc, write = false → addr.toNat ≤ loc.toNat → loc.toNat < addr.toNat + n →
              (d = .corrected .vatOrLane u loc → ∃ t, go s = .next t ∧
                t.resp = (s.respondRead id false addr.toNat n (s.vatView o n)).resp ∧ t.err.corr = satAdd s.err.corr 1 ∧
                t.testing (.macroOf (Fin.ofNat 16 u.val) (Fin.ofNat 16 (vatSub (vatOffset loc.toNat) / 16))) = true ∧ t.vat = s.vat) ∧
              (d = .uncorrectable .vatOrLane u loc → ∃ t, go s = .next t ∧ t.resp = (err s).resp ∧
                t.err.uncorr = satAdd s.err.uncorr 1 ∧
                t.testing (.macroOf (Fin.ofNat 16 u.val) (Fin.ofNat 16 (vatSub (vatOffset loc.toNat) / 16))) = true ∧ t.vat = s.vat)) ∧
            (write = true → s.korni.mode = 0 → whole →
              (s.hostedAt o = none →
                go s = .next (({ s.mark [6] with vat := putBytes s.vat o ((data.drop (addr.toNat % 8)).take n) } : State).respondWrite id false)) ∧
              (∀ i, s.hostedAt o = some i → go s =
                .next (({ s.mark [6] with tileMem := putBytes s.tileMem i ((data.drop (addr.toNat % 8)).take n) } : State).respondWrite
                  id false))) ∧
            (write = true →
              (s.recordAll k.pieces = none → go s = .next s) ∧
              (∀ s1, s.recordAll k.pieces = some s1 → s.hostedAt o = none → ∃ t, go s = .next t ∧ t.korni = s1.korni ∧
                t.resp = (s.respondWrite id false).resp ∧ t.tileMem = s.tileMem ∧
                (∀ j, j < n → byteAt t.vat (o + j) =
                  if be.getD (addr.toNat % 8 + j) false then data.getD (addr.toNat % 8 + j) 0 else byteAt s.vat (o + j)) ∧
                ∀ x, x < o ∨ o + n ≤ x → byteAt t.vat x = byteAt s.vat x) ∧
              (∀ s1 i, s.recordAll k.pieces = some s1 → s.hostedAt o = some i → ∃ t, go s = .next t ∧ t.korni = s1.korni ∧
                t.resp = (s.respondWrite id false).resp ∧ t.vat = s.vat ∧
                (∀ j, j < n → byteAt t.tileMem (i + j) =
                  if be.getD (addr.toNat % 8 + j) false then data.getD (addr.toNat % 8 + j) 0 else byteAt s.tileMem (i + j)) ∧
                ∀ x, x < i ∨ i + n ≤ x → byteAt t.tileMem x = byteAt s.tileMem x))))) ∧
      (addr.toNat < 0x40000000 →
        (∀ i, s.seqPlace addr.toNat = .rom i → (write = true → go s = .next (err s)) ∧
          (write = false → quiet →
            go s = .next (s.respondRead id false addr.toNat n ((List.range n).map fun k => bootByte (i + k))))) ∧
        (∀ i, s.seqPlace addr.toNat = .ram i →
          (write = false → quiet → go s = .next (s.respondRead id false addr.toNat n (bytesAt s.ram i n))) ∧
          (write = true → s.fromSuper dom = false ∨ s.korni.mode = 2 → go s = .next (err s)) ∧
          (write = true → s.fromSuper dom = true → s.korni.mode = 0 → whole →
            go s = .next (({ s with ram := putBytes s.ram i ((data.drop (addr.toNat % 8)).take n) } : State).respondWrite id false)) ∧
          (write = true → s.fromSuper dom = true → s.korni.mode ≠ 2 →
            (s.recordAll k.pieces = none → go s = .next s) ∧
            (∀ s1, s.recordAll k.pieces = some s1 → ∃ t, go s = .next t ∧ t.korni = s1.korni ∧
              t.resp = (s.respondWrite id false).resp ∧
              (∀ j, j < n → byteAt t.ram (i + j) =
                if be.getD (addr.toNat % 8 + j) false then data.getD (addr.toNat % 8 + j) 0 else byteAt s.ram (i + j)) ∧
              ∀ x, x < i ∨ i + n ≤ x → byteAt t.ram x = byteAt s.ram x))) ∧
        (∀ u loc, s.seqPlace addr.toNat ≠ .miss → write = false → addr.toNat ≤ loc.toNat → loc.toNat < addr.toNat + n →
          d = .uncorrectable .sequencerSpace u loc →
          ∃ t, go s = .next t ∧ t.resp = (err s).resp ∧ t.err.uncorr = satAdd s.err.uncorr 1 ∧ t.ram = s.ram)))) ∧
  (∀ (s : State) (write : Bool) (addr : BitVec 48) (len : BitVec 6) (id : BitVec 4) (dom : BitVec 8) (data : List Byte) (be : List Bool)
    (g : Bool) (d : Detect), s.up = true → s.idWaits (.eddy dom) id = false → id.toNat < 12 → 0x80000000 ≤ addr.toNat →
    addr.toNat < 0x81000000 → addr.toNat % 64 + (len.toNat + 1) ≤ 64 →
    let n := len.toNat + 1
    let k : EddyCmd := ⟨write, addr.toNat, n, id, dom, data, be, g, d⟩
    let go := exec (.eddyCommand write addr len id dom data be ⟨g, d⟩) s
    (write = false → (n ≠ 8 ∨ addr.toNat % 8 ≠ 0) → (n ≠ 4 ∨ addr.toNat % 4 ≠ 0) → go = .next (s.respondRead id true addr.toNat n [])) ∧
    (∀ off p, write = false → off % 8 = 0 → addr.toNat = windowAddr off p → n = partSize p →
      (s.mayRead (regAt off) dom = false → go = .next (s.respondRead id true addr.toNat n [])) ∧
      (s.mayRead (regAt off) dom = true → ∃ u, go = .next (u.respondRead id false addr.toNat n
          (partBytes p ((s.beforeRead (regAt off)).regVal (regAt off)))) ∧ u = (s.beforeRead (regAt off)).clearOnRead (regAt off) p dom)) ∧
    (write = true → (∀ a bs, k.pieces = [(a, bs)] → (bs.length ≠ 8 ∨ a % 8 ≠ 0) ∧ (bs.length ≠ 4 ∨ a % 4 ≠ 0)) →
      go = .next (s.respondWrite id true)) ∧
    (∀ a bs off p, write = true → k.pieces = [(a, bs)] → off % 8 = 0 → a = windowAddr off p → bs.length = partSize p →
      s.takesWrite (.eddy dom) id off p (partValue p bs) = true →
      (∀ u, (s.readFor off ⟨some dom, p, partValue p bs, g⟩).writeReg (regAt off) ⟨some dom, p, partValue p bs, g⟩ = .ok u →
        go = .next (s.written (.eddy dom) id off p (partValue p bs) u)) ∧
      ((s.readFor off ⟨some dom, p, partValue p bs, g⟩).writeReg (regAt off) ⟨some dom, p, partValue p bs, g⟩ = .refused →
        go = .next ((s.readFor off ⟨some dom, p, partValue p bs, g⟩).answer (.eddy dom) id true))) ∧
    (n = 8 → addr.toNat % 8 = 0 → be = List.replicate 8 true → data.length = 8 → k.pieces = [(addr.toNat, data)])) ∧
  (∀ (s : State) (id : BitVec 4) (addr n : Nat) (bs : List Byte), bs.length = n → 0 < n →
    ∃ r, (s.respondRead id false addr n bs).resp = s.resp ++ [r] ∧ r.id = id ∧ r.err = false ∧ r.beats.length = (addr % 8 + n + 7) / 8 ∧
      (∀ i b, r.beats[i]? = some b → b.data.length = 8 ∧ (b.last = true ↔ i + 1 = r.beats.length)) ∧
      ∀ j, j < n → (r.beats[(addr % 8 + j) / 8]?).bind (fun b => b.data[(addr % 8 + j) % 8]?) = bs[j]?)

/-- 10 R343, R347: in replay mode a record that lies whole below HEAD is consumed: TAIL moves over it; a FRONT record adds its word to those
that fronts take, and until they have taken it ISSUE and WRITE records wait; a TRAIL record joins those kept for comparison, where it stays
until the replay has computed the digest of its instruction, and a digest that differs diverges; a RACE record joins those kept, and shows
whether the trace holds race data (log 67); an ISSUE record whose instruction is accepted enters the window; a WRITE record writes its bytes
of the Vat or of working RAM, or makes its register write of the control window, which no domain rule bars any more; one of the secure region
has no effect while CLOSED is set (14 R453), nor has one of a segment whose spare map registers have no majority (12 R406; log 44); and every
other record has no further effect. -/
def Obligations.ReplayConsumes : Prop :=
  ∀ (s : State) (r : KorniRec), s.up = true → s.mayConsume r = true →
    let tail := s.korni.tail + BitVec.ofNat 64 (16 * r.len.toNat)
    (r.typ = 5 → exec (.korniReplayRecord r) s =
      .next { s with korni := { s.korni with words := s.korni.words ++ [r.arg.setWidth 16], tail := tail } }) ∧
    (r.typ = 2 ∨ r.typ = 3 → s.korni.words ≠ [] → exec (.korniReplayRecord r) s = .next s) ∧
    (r.typ = 7 → exec (.korniReplayRecord r) s = .next { s with korni :=
      { ({ s.korni with trails := s.korni.trails ++ [(r.ctx.val, recSeq r, r.payload.getD 0 0)] } : Korni).compareTrail with tail := tail } }) ∧
    (r.typ = 4 → exec (.korniReplayRecord r) s = .next { s with korni := { ({ s.korni with
        races := s.korni.races ++ [(r.arg.toNat % 4, r.arg.getLsbD 2, (recBytes r 2).take (if r.arg.getLsbD 2 then 8 else recQuad r 1))]
        traceFull := some !(r.arg.getLsbD 2) } : Korni).compareRace with tail := tail } }) ∧
    (∀ (k : Korni) (x : Nat × Seq × Quad), x ∈ k.trails → (∀ g ∈ k.trailsGot, (g.1, g.2.1) ≠ (x.1, x.2.1)) → x ∈ k.compareTrail.trails) ∧
    (∀ (k : Korni), k.diverged = false → k.compareTrail.diverged = k.trailsGot.any fun g =>
      k.trails.any fun x => x.1 == g.1 && x.2.1 == g.2.1 && x.2.2 != g.2.2) ∧
    (r.typ = 2 → s.korni.words = [] → s.debugHeld r.ctx = false → (s.ctx r.ctx).st = .idle ∨ (s.ctx r.ctx).st = .run →
      s.replayAccepts r.ctx (recTag r) (recInsn r) = true → s.roomFor r.ctx (recInsn r) = true →
      ∃ t e, exec (.korniReplayRecord r) s = .next t ∧ t.korni.tail = tail ∧ (t.ctx r.ctx).window = (s.ctx r.ctx).window ++ [e] ∧
        e.insn = recInsn r ∧ e.seq = recSeq r) ∧
    (∀ a, r.typ = 3 → s.korni.words = [] → recQuad r 0 = 0x40000000 + a → a < 0x8000000 → s.segmentBusy (vatSegment a) = false →
      s.vatShut a = true → exec (.korniReplayRecord r) s = .next ((s.readColumns a).consume r)) ∧
    (∀ a, s.sec.closed = true → a / 0x100000 < s.secureSize → s.vatShut a = true) ∧
    (∀ a, r.typ = 3 → s.korni.words = [] → recQuad r 0 = 0x40000000 + a → a < 0x8000000 → s.segmentBusy (vatSegment a) = false →
      (∀ q ∈ TabReg.host :: segmentRegs (vatSegment a), ((q.get s.tab).vote).isSome = true) →
      exec (.korniReplayRecord r) s = exec (.korniReplayRecord r) (s.readColumns a)) ∧
    (∀ a, r.typ = 3 → s.korni.words = [] → recQuad r 0 = 0x40000000 + a → a < 0x8000000 → s.segmentBusy (vatSegment a) = false →
      (∀ q ∈ TabReg.host :: segmentRegs (vatSegment a), s.agrees q = true) → s.vatShut a = false →
      (s.hostedAt a = none → exec (.korniReplayRecord r) s = .next { s.mark [6] with
        vat := putBytes s.vat a ((recBytes r 1).take (recCount r)), korni := { s.korni with tail := tail } }) ∧
      (∀ i, s.hostedAt a = some i → exec (.korniReplayRecord r) s = .next { s.mark [6] with
        tileMem := putBytes s.tileMem i ((recBytes r 1).take (recCount r)), korni := { s.korni with tail := tail } })) ∧
    (∀ i, r.typ = 3 → s.korni.words = [] → recQuad r 0 < 0x40000000 → s.seqPlace (recQuad r 0) = .ram i →
      exec (.korniReplayRecord r) s = .next { s with
        ram := putBytes s.ram i ((recBytes r 1).take (recCount r)), korni := { s.korni with tail := tail } }) ∧
    (r.typ = 3 → s.korni.words = [] → (recQuad r 0 < 0x40000000 → ∀ i, s.seqPlace (recQuad r 0) ≠ .ram i) →
      (recQuad r 0 < 0x40000000 ∨ 0x48000000 ≤ recQuad r 0) → (recQuad r 0 < 0x80000000 ∨ 0x81000000 ≤ recQuad r 0) →
      exec (.korniReplayRecord r) s = .next { s with korni := { s.korni with tail := tail } }) ∧
    (∀ (off : Nat) (p : Part) (u : State) (bs : List Byte), r.typ = 3 → s.korni.words = [] → recQuad r 0 = windowAddr off p →
      bs = (recBytes r 1).take (recCount r) → bs.length = partSize p → off % 8 = 0 → off < 0x1000000 →
      u = { s with korni := { s.korni with tail := tail } } → s.phaseBars (regAt off) = false →
      let w := u.readFor off ⟨none, p, partValue p bs, true⟩
      (∀ t, w.writeReg (regAt off) ⟨none, p, partValue p bs, true⟩ = .ok t → exec (.korniReplayRecord r) s = .next t) ∧
      (w.writeReg (regAt off) ⟨none, p, partValue p bs, true⟩ = .refused → exec (.korniReplayRecord r) s = .next w) ∧
      (∀ k c q v, w.writeReg (regAt off) ⟨none, p, partValue p bs, true⟩ = .held k c q v →
        exec (.korniReplayRecord r) s = .next (u.grant c k (Access.merge ⟨none, q, v, true⟩ ((u.ctx c).leaseReg k))))) ∧
    (r.typ ∉ [2, 3, 4, 5, 7] → exec (.korniReplayRecord r) s = .next { s with korni := { s.korni with tail := tail } })

/-! The boundary. -/

/-- 11 R357, R358, R369, R373, R374, R380, 12 R412, R413: of a master's writes the oldest are outstanding, no more of them than it has identifiers
that its reads leave, and a read waits for an identifier of its master (log 75); an acknowledgement ends the oldest outstanding write of its
instruction, or of the Korni ring, and the identifier and the TAG that it frees let the next writes go that wait (log 11); a memory response
with good data fills its line, one that was corrected is counted and logged, and one with STAT 2 or 3 is met by the accesses that wait for
the line and by no other; a response that matches no request is ignored; a translation's answer reaches the access that asked, and lets a
piece of the Korni ring go to its port as a write request, or loses it where the translation fails (log 65); the event that the channel presents
transfers, and otherwise the next in turn leaves its queue. -/
def Obligations.BoundaryResponses : Prop :=
  (∀ (s : State) (m : Nat),
    (s.outWrites.filter fun u => u.master == some m).length ≤ identifiers m - s.readsBy m ∧
    ((s.unacked.filter fun u => u.master == some m).length + s.readsBy m ≤ identifiers m →
      (s.outWrites.filter fun u => u.master == some m) = s.unacked.filter fun u => u.master == some m) ∧
    (∃ l, (s.unacked.filter fun u => u.master == some m) = (s.outWrites.filter fun u => u.master == some m) ++ l) ∧
    ∀ c who line, s.masterOf c who = some m → identifiers m ≤ (s.unacked.filter fun u => u.master == some m).length + s.readsBy m →
      s.askLine c who line = s) ∧
  (∀ (s : State) (c : CtxId) (n : Seq) (u : Unacked), s.up = true → s.outWrites.find? (fun u => u.byTarget c n) = some u →
    exec (.writeAck c (.insn n)) s = .next ({ s with unacked := s.unacked.erase u } : State).sendAll) ∧
  (∀ (s : State) (c : CtxId) (w : MemWrite) (r : List MemWrite), s.up = true → s.korni.sent = w :: r →
    exec (.writeAck c .ring) s = .next (({ s with korni := { s.korni with sent := r } } : State).sendNext w.port)) ∧
  (∀ (s : State) (p : Fin 16),
    (s.freeTag p = none → s.sendNext p = s) ∧
    ((∀ u ∈ s.marked, u.1 = true → ∀ w, u.2.tgt = .memory w → w.port = p → w.tag ≠ none) → s.sendNext p = s) ∧
    (∀ t x y u w, s.freeTag p = some t → s.marked = x ++ (true, u) :: y → u.tgt = .memory w → w.port = p → w.tag = none →
      (∀ v ∈ x, v.1 = true → ∀ w, v.2.tgt = .memory w → w.port = p → w.tag ≠ none) →
      s.sendNext p = { s with
        unacked := x.map Prod.snd ++ { u with tgt := .memory { w with tag := some t } } :: y.map Prod.snd })) ∧
  (∀ (s : State) (p : Fin 16) (tag : BitVec 8) (data : List Byte) (st : BitVec 2), s.up = true →
    (∀ r, s.reads.find? (fun r => r.port == p && r.tag == tag) = some r →
      (st.toNat < 2 → r.stale = false → r.newer = [] → data.length = 512 →
        ∃ t, exec (.memoryReadResponse p tag data st) s = .next t ∧ t.reads = s.reads.erase r ∧ r.line ∈ t.lines ∧
          bytesAt t.cache (r.line * 256) 256 = data.take 256 ∧ t.bad = s.bad ∧
          (st = 0 → t.err = s.err) ∧ (st = 1 → t.err = (s.logCorrected 4 p.val (s.feltLine r.line)).err) ∧
          t.unacked = ({ s with reads := s.reads.erase r } : State).sendAll.unacked) ∧
      (2 ≤ st.toNat → r.stale = false →
        ∃ t, exec (.memoryReadResponse p tag data st) s = .next t ∧ t.reads = s.reads.erase r ∧ t.lines = s.lines ∧
          (∀ w ∈ r.wants, (∃ x ∈ s.xlats, x.ctx = w.1 ∧ x.who = w.2) → (w.1, w.2, r.line) ∈ t.bad) ∧
          (∀ b ∈ t.bad, b ∈ s.bad ∨ ((b.1, b.2.1) ∈ r.wants ∧ b.2.2 = r.line)) ∧
          t.err = (s.logUncorrectable 4 p.val (s.feltLine r.line)).err)) ∧
    (s.reads.find? (fun r => r.port == p && r.tag == tag) = none →
      ∃ t, exec (.memoryReadResponse p tag data st) s = .next t ∧ t.reads = s.reads ∧ t.lines = s.lines ∧ t.bad = s.bad ∧
        t.cache = s.cache ∧ t.xlats = s.xlats)) ∧
  (∀ (s : State) (p : Fin 16) (tt : BitVec 6) (pa : BitVec 36) (f w : Bool), s.up = true →
    (∃ x ∈ s.xlats, x.port = p ∧ x.ttag = tt ∧ x.ans = none) →
    ∃ t, exec (.translationResponse p tt pa f w) s = .next t ∧
      (∀ x ∈ s.xlats, x.who ≠ goneAccess → x.who ≠ korniAccess → x.port = p → x.ttag = tt → x.ans = none →
        { x with ans := some ⟨pa, f, w⟩ } ∈ t.xlats) ∧
      (∀ x ∈ s.xlats, x.who ≠ goneAccess → x.who ≠ korniAccess → x.ans ≠ none → x ∈ t.xlats) ∧
      (s.korni.out = [] → ∀ x ∈ t.xlats, x.port = p → x.ttag = tt → x.ans ≠ none) ∧
      ∀ x a bs r, s.korni.out = (a, bs) :: r → inChip (a : Int) = true → s.xlats.find? (fun x => x.who == korniAccess) = some x →
        x.port = p → x.ttag = tt → x.ans = none →
        (f = true ∨ w = false → t.korni = { s.korni with out := r, lost := true }) ∧
        (f = false → w = true →
          (∀ m, s.ownWrite (pa.toNat * 4096 + a % 4096) bs = some m → t.korni = { s.korni with out := r, sent := s.korni.sent ++ [m] }) ∧
          (s.ownWrite (pa.toNat * 4096 + a % 4096) bs = none → t.korni = s.korni))) ∧
  (∀ (s : State), s.up = true →
    (∀ k ev, s.evtHeld = some (k, ev) →
      exec .eventTransfer s = .next { s with evtHeld := none, evtOut := some ev, evtPtr := k + 1 }) ∧
    (∀ (k : Nat) (ev : BitVec 3 × BitVec 2 × BitVec 16), s.evtHeld = none → k < 9 →
      s.eventOf ((s.evtPtr.val + k) % 9) = some ev → (∀ j, j < k → s.eventOf ((s.evtPtr.val + j) % 9) = none) →
      ∃ t, exec .eventTransfer s = .next t ∧ t.evtOut = some ev ∧ t.evtPtr.val = (s.evtPtr.val + k + 1) % 9 ∧
        t = { s.popEvent ((s.evtPtr.val + k) % 9) with evtOut := some ev, evtPtr := t.evtPtr }))

/-- 11 R369 to R372, R376: a beat whose PAR bits are the even parity of its bytes enters the port's stream; another is refused, with NAK in
the b-cycle after the transfer and no longer, and counted, and the third refusal in succession fails the port; a beat to the partner
carries the next bytes of the stream with their parity and acknowledges their writes, as many of them as the port holds where it has raised
VALID, and no byte that waits in the stream for an identifier (R357; log 75); a refused beat is presented again, and its third refusal fails the port; a transfer not taken in time sets the port's stall bit; and
the beats of the eddy port's responses leave in their order. -/
def Obligations.PortBeats : Prop :=
  (∀ (s : State) (p : Fin 12), s.up = true → (s.port p).fail = false →
    (∀ (beat : Beat) (bs : List Byte) (par : List Bool), bs = beat.bytes → bs ≠ [] → bs.length ≤ beatMax p →
      (par.take beat.count = parBits bs → ∃ t, exec (.beatTransfer (.port p) true beat par) s = .next t ∧
        t.port p = { s.port p with inq := (s.port p).inq ++ bs, inRef := 0 } ∧ t.felt = s.felt ∧
        ∀ q, q ≠ p → t.port q = s.port q) ∧
      (par.take beat.count ≠ parBits bs → (s.port p).inRef < 2 → ∃ t, exec (.beatTransfer (.port p) true beat par) s = .next t ∧
        t.port p = { s.port p with nak := some s.clock, inRef := (s.port p).inRef + 1 } ∧ t.felt.retries = satAdd s.felt.retries 1 ∧
        ∀ k, ({ t with clock := k } : State).nakNow p = (k / 2 == s.clock / 2 + 1)) ∧
      (par.take beat.count ≠ parBits bs → 2 ≤ (s.port p).inRef → ∃ t, exec (.beatTransfer (.port p) true beat par) s = .next t ∧
        (t.port p).fail = true ∧ (t.port p).inq = (s.port p).inq ∧ t.felt.retries = satAdd s.felt.retries 1) ∧
      (∀ k, (s.port p).resend = false → (s.port p).shown = some k → bs.length ≠ k → exec (.beatTransfer (.port p) false beat par) s = .next s) ∧
      ((s.port p).resend = false → (s.port p).shown = none → s.atPort p < bs.length → exec (.beatTransfer (.port p) false beat par) s = .next s) ∧
      ((s.port p).resend = false → (∀ k, (s.port p).shown = some k → bs.length = k) → ((s.port p).shown = none → bs.length ≤ s.atPort p) →
        (s.port p).outq.take bs.length = bs → par.take beat.count = parBits bs →
        ∃ t, exec (.beatTransfer (.port p) false beat par) s = .next t ∧
          t.port p = { s.port p with outq := (s.port p).outq.drop bs.length, last := bs, shown := none,
                                     sentPos := (s.port p).sentPos + bs.length, outRef := 0 } ∧
          (∀ u ∈ t.unacked, u ∈ s.unacked) ∧
          ∀ u ∈ s.unacked, u ∉ t.unacked ↔ ∃ pos, u.tgt = .port p pos ∧ pos ≤ (s.port p).sentPos + bs.length) ∧
      ((s.port p).resend = true → bs = (s.port p).last → par.take beat.count = parBits bs →
        ∃ t, exec (.beatTransfer (.port p) false beat par) s = .next t ∧
          t.port p = { s.port p with resend := false } ∧ t.unacked = s.unacked) ∧
      (par.take beat.count ≠ parBits bs → exec (.beatTransfer (.port p) false beat par) s = .next s)) ∧
    ((s.port p).resend = false → (s.port p).last ≠ [] →
      ((s.port p).outRef < 2 → ∃ t, exec (.portNak p) s = .next t ∧
        t.port p = { s.port p with outRef := (s.port p).outRef + 1, resend := true } ∧ t.felt.retries = satAdd s.felt.retries 1) ∧
      (2 ≤ (s.port p).outRef → ∃ t, exec (.portNak p) s = .next t ∧ (t.port p).fail = true ∧ (t.port p).resend = false ∧
        t.felt.retries = satAdd s.felt.retries 1)) ∧
    ((s.port p).resend = true ∨ (s.port p).shown ≠ none ∨ 0 < s.atPort p → ∃ t, exec (.portStall p) s = .next t ∧
      t.port p = { (s.port p).raise (min (beatMax p) (s.atPort p)) with stall := true } ∧ ∀ q, q ≠ p → t.port q = s.port q) ∧
    ((∀ u ∈ s.marked, (∃ k, u.2.tgt = .port p k) → u.1 = true) → s.atPort p = (s.port p).outq.length)) ∧
  (∀ (x : Port) (m : Nat), 0 < m → x.fail = false → x.resend = false → x.outq ≠ [] →
    x.raise m = { x with shown := some (x.shown.getD (min m x.outq.length)) }) ∧
  (∀ (s : State) (beat : Beat) (par : List Bool) (x : EddyResp) (r : List EddyResp) (b : EddyBeat) (bs : List EddyBeat), s.up = true →
    s.resp = x :: r → x.beats = b :: bs →
    (beat.bytes = b.data → exec (.beatTransfer .eddy false beat par) s =
      .next { s with resp := if bs = [] then r else { x with beats := bs } :: r }) ∧
    (beat.bytes ≠ b.data → exec (.beatTransfer .eddy false beat par) s = .next s) ∧
    exec (.beatTransfer .eddy true beat par) s = .next s)

/-! Sideband, security, power. -/

/-- 11 R386, R387, 13 R421 to R423, 14 R451: glitches are counted, and the seventeenth of a window makes its input noisy, so that its last
value holds; a noisy TAMPER that read 0 starts a wipe, and a noisy QPWR_OK loses its quadrant (QLOST as `QuadrantLoss` says); the window's end starts the count anew; a
counted THROTTLE takes effect, and 15 holds LVL at 31; a counted COOL_CLASS with a larger envelope waits for its acknowledgement, and any
other is due at the next boundary, the ENVELOPEs as they stand at the count (the model's choice: log 72); where the copies of a class record
all differ the power manager halts, and the change is judged by the open value (12 R406; the model's reading: log 44). -/
def Obligations.SidebandInputs : Prop :=
  (∀ s : State, s.up = true →
    (∀ k, s.sb.win[4]? = some k → ∃ t, exec (.sidebandGlitch .throttle) s = .next t ∧ t.sb.win[4]? = some (k + 1) ∧
      t.sb.mglitch = satAdd s.sb.mglitch 1 ∧ t.sb.thnoisy = (s.sb.thnoisy || k == 16) ∧ t.pwr = s.pwr) ∧
    (∃ t, exec .glitchWindowEnd s = .next t ∧ t.sb = { s.sb with win := Vector.replicate 9 0 } ∧ t.clock % 65536 = 0 ∧ s.clock < t.clock) ∧
    (∀ i k, s.sb.win[sideIndex i]? = some k → k ≠ 16 → ∃ t, exec (.sidebandGlitch i) s = .next t ∧
      t.sb.win[sideIndex i]? = some (k + 1) ∧ t.sec = s.sec ∧ t.pwr = s.pwr ∧ t.tiles = s.tiles ∧ t.err = s.err) ∧
    (s.sb.win[0]? = some 16 → ∃ t, exec (.sidebandGlitch .frontGo) s = .next t ∧ t.front.noisy = true ∧
      t.front.glitches = satAdd s.front.glitches 1 ∧ t.sec = s.sec) ∧
    (s.sb.win[1]? = some 16 → ∃ t, exec (.sidebandGlitch .tamper) s = .next t ∧ t.sb.tnoisy = true ∧
      t.sb.tglitch = satAdd s.sb.tglitch 1 ∧
      (s.tamperOn = false → t.sec.wiping = true ∧ t.sec.closed = true ∧ t.sec.since = s.clock ∧
        (s.sec.wiping = false → t.sec.nextCause = 1)) ∧ (s.tamperOn = true → t.sec = s.sec)) ∧
    (s.sb.win[2]? = some 16 → ∃ t, exec (.sidebandGlitch .lcState) s = .next t ∧ t.sb.lcnoisy = true ∧
      t.sb.mglitch = satAdd s.sb.mglitch 1 ∧ t.sec = s.sec) ∧
    (s.sb.win[3]? = some 16 → ∃ t, exec (.sidebandGlitch .coolClass) s = .next t ∧ t.sb.ccnoisy = true ∧
      t.sb.mglitch = satAdd s.sb.mglitch 1 ∧ t.pwr = s.pwr) ∧
    (∀ q : Fin 4, s.sb.win[5 + q.val]? = some 16 → ∃ t, exec (.sidebandGlitch (.qpwrOk q)) s = .next t ∧
      t.sb.qpnoisy.getLsbD q.val = true ∧ t.sb.mglitch = satAdd s.sb.mglitch 1 ∧
      (s.pwr.qpwrEn.getLsbD q.val = true → s.qpwrGood q.val = true →
        (s.split engineRegs = false → t.qlost q.val = true) ∧ (s.split engineRegs = true → t.st.lossDue = s.st.lossDue ++ [q]) ∧
        t.pwr.qpwrEn.getLsbD q.val = false ∧ ∀ i, i < 128 → (t.tile (128 * q.val + i)).lost = true) ∧
      (s.pwr.qpwrEn.getLsbD q.val = false ∨ s.qpwrGood q.val = false → t.pwr = s.pwr ∧ t.tiles = s.tiles)) ∧
    (∀ v, s.sb.thnoisy = true → exec (.throttleChange v) s = .next s) ∧
    (∀ v, s.sb.ccnoisy = true → exec (.coolClassChange v) s = .next s) ∧
    (∀ v par, s.sb.lcnoisy = true → exec (.lifeCycleChange v par) s = .next s) ∧
    (∀ v, s.sb.thnoisy = false → ∃ t, exec (.throttleChange v) s = .next t ∧ t.pwr.thr = v ∧ t.pwr.emerg = (v == 15) ∧
      t.pwr.lvl = if v = 15 then 31 else s.pwr.lvl)) ∧
  (∀ (s : State) (v : BitVec 2), s.up = true → s.sb.ccnoisy = false → v ≠ s.pwr.ccount →
    ∃ t, exec (.coolClassChange v) s = .next t ∧ t.pwr.ccount = v ∧ t.pwr.cls = s.pwr.cls ∧
      ((s.tab.tcls[(Fin.ofNat 3 (coolOf v).toNat : Fin 3)]).vote = none ∨ (s.tab.tcls[(Fin.ofNat 3 s.pwr.cls.toNat : Fin 3)]).vote = none →
        t.pwr.tchalt = true) ∧ t.pwr.ccack = false ∧
      (if envelopeOf (s.classRecord s.pwr.cls.toNat) < envelopeOf (s.classRecord (coolOf v).toNat) then
        t.pwr.ccpend = true ∧ t.pwr.due = none
       else t.pwr.ccpend = false ∧ t.pwr.due = some (coolOf v)))

/-- 14 R448, R451 to R453, 11 R387: TAMPER starts a wipe, at whose start every instruction of a secure context stops with SECURE_VIOLATION at its
completed count, but a front that has been counted (or is cancelled by an earlier one's fault, if it has written nothing: 06 R197), its
context drains, and the other contexts go on; CLOSED stands until tamper is released and no wipe is in progress; the end of a
wipe leaves the secure region, the tiles of secure owners and the state of secure contexts cleared, counts it, and gives the life-cycle
state its new value; a counted change of the life-cycle state starts a wipe. -/
def Obligations.TamperAndWipe : Prop :=
  (∀ s : State, s.up = true → s.sb.tamper = false → s.sec.wiping = false →
    ∃ t, exec (.tamperAssert false) s = .next t ∧ t.sb = { s.sb with tamper := true } ∧ t.sec.wiping = true ∧ t.sec.closed = true ∧
      t.sec.since = s.clock ∧ t.sec.nextCause = 1 ∧ t.vat = s.vat ∧
      (∀ c, (s.ctx c).secure = false → t.ctx c = s.ctx c) ∧
      (∀ c n e, (s.ctx c).secure = true → (s.ctx c).entry n = some e → e.phase.ended = false → s.frontCounted c n = false →
        (∃ f, (t.ctx c).entry n = some f ∧
          ((f.phase = .faulted ∧ f.fault = some (e.countOf e.upTo, wipeFault)) ∨ (f.phase = .cancelled ∧ e.wrote = false))) ∧
        ((s.ctx c).st = .run → (t.ctx c).st = .draining)) ∧
      wipeFault = ⟨0x09, 0x40000000⟩ ∧
      ∀ i, (∀ c n e, (s.ctx c).entry n = some e → e.insn.op = some .sperm → i ∉ e.insn.spermReam) → t.tile i = s.tile i) ∧
  (∀ s : State, s.up = true → s.sb.tamper = true →
    ∃ t, exec .tamperRelease s = .next t ∧ t.sb = { s.sb with tamper := false } ∧
      t.sec.closed = (s.sec.closed && (s.sb.tnoisy || s.sec.wiping))) ∧
  (∀ (s : State) (k : Nat), s.up = true → s.sec.wiping = true → k ≤ 8000 →
    ∃ t, exec (.wipeEnd k) s = .next t ∧ t.sec.wiping = false ∧ t.sec.wiped = true ∧ t.sec.wipes = satAdd s.sec.wipes 1 ∧
      t.sec.last = BitVec.ofNat 16 k ∧ t.sec.cause = s.sec.nextCause ∧ t.sec.closed = s.tamperOn ∧ t.sec.lc = s.sec.nextLc.getD s.sec.lc ∧
      t.clock = max s.clock (s.sec.since + k) ∧ (∀ o, o < s.secureSize * 0x100000 → byteAt t.vat o = 0) ∧
      (∀ o, s.sec.wipeLo * 0x100000 ≤ o → o < s.sec.wipeTo * 0x100000 → byteAt t.vat o = 0) ∧
      (∀ i d, s.ownerOf (.tile 0) i = some d →
        if d.secure then t.tile i = { lost := (s.tile i).lost } ∧ t.tileBytes i 0 32768 = List.replicate 32768 0
        else t.tile i = s.tile i) ∧
      ∀ c, t.ctx c = if (s.ctx c).secure then (s.ctx c).clearState else s.ctx c) ∧
  (∀ (s : State) (v : BitVec 2) (par : Bool), s.up = true → s.sb.lcnoisy = false → s.sb.lcIn ≠ v ∨ s.sb.lcOk ≠ par →
    ∃ t, exec (.lifeCycleChange v par) s = .next t ∧
      t.sec.nextLc = some (nextLifeCycle (s.sec.nextLc.getD s.sec.lc) v par) ∧ t.sec.lc = s.sec.lc ∧ t.sec.wiping = true ∧
      t.sec.closed = true ∧ t.sb = { s.sb with lcIn := v, lcOk := par, lcbad := s.sb.lcbad || !par })

/-- 13 R416 to R436: at an interval boundary the sensors are read, the due class settles, the budget follows the envelope and THROTTLE, and
LVL follows R425; a reading at TCRIT makes a powered island critical and one below TLIMIT releases it; an island's clock changes to the step
it was given, a stopped clock at no boundary, and a stopped clock starts, but that of a spare engine with nothing to do; a temperature sample
at TCRIT makes a powered island critical (TCRIT as it stands at the sample: the model's choice, log 72). For a spare engine's island CK_SPARE_ENG is
read, and a minority copy rewritten (12 R405; log 44). Where copies of a throttle table all
differ, TCHALT is set and every powered island goes to step 31, and the loop keeps computing budget and LVL, from the open values of such
registers (12 R406; 13 R427; the model's reading: log 44). -/
def Obligations.PowerLoop : Prop :=
  (∀ (s : State) (rs : List (BitVec 16 × BitVec 8)), s.up = true →
    let p := s.pwr.settleClass
    let rec_ := s.classRecord p.cls.toNat
    let tcrit := degrees (BitVec.ofNat 8 ((s.tabVal .tcrit).bits 7 0))
    ∃ t, exec (.powerInterval rs) s = .next t ∧ t.clock % 40000 = 0 ∧ s.clock < t.clock ∧ t.pwr.cls = p.cls ∧
      t.pwr.tchalt = s.throttleBad ∧
      t.pwr.budget = BitVec.ofNat 16 (envelopeOf rec_ * (16 - s.pwr.thr.toNat) / 16) ∧
      (∀ n : Fin 121, (t.island n.val).power = (if s.islandPowered n.val then (rs.getD n.val (0, 0)).1 else 0) ∧
        (t.island n.val).crit = (if s.islandPowered n.val then
          (if tcrit ≤ degrees (rs.getD n.val (0, 0)).2 then true
           else if degrees (rs.getD n.val (0, 0)).2 < tlimitOf rec_ then false else (s.island n.val).crit)
          else (s.island n.val).crit)) ∧
      t.pwr.power.toNat = min 0xFFFF (((List.range 121).map fun n => (t.island n).power.toNat).sum / 16) ∧
      t.pwr.energy = s.pwr.energy + BitVec.ofNat 64 t.pwr.power.toNat ∧
      t.pwr.lvl = BitVec.ofNat 5 (if s.glob.bu ≠ 5 ∨ s.pwr.en = false ∨ s.pwr.emerg = true then 31
        else nextLevel rec_ t.pwr.power.toNat t.pwr.budget.toNat (degrees t.pwr.tmax) s.pwr.lvl.toNat) ∧
      (s.throttleBad = true → ∀ n, n < 91 → s.islandPowered n = true → (t.island n).goal = 31) ∧ t.ctxs = s.ctxs ∧ t.vat = s.vat) ∧
  (∀ (s : State) (n : Fin 91), s.up = true →
    let u := s.compareAll (islandRegs n.val)
    (s.clockStopped n.val = true → exec (.islandClockChange n) s = .next u) ∧
    (∀ v, s.clockStopped n.val = false → (s.island n.val).target = some v → ∃ t, exec (.islandClockChange n) s = .next t ∧ t.tab = u.tab ∧
      t.island n.val = { s.island n.val with step := v, target := none } ∧ ∀ k, k ≠ n.val → t.island k = s.island k) ∧
    (s.clockStopped n.val = false → (s.island n.val).target = none → ∃ t, exec (.islandClockChange n) s = .next t ∧
      t.island n.val = s.island n.val ∧ ∀ k, k ≠ n.val → t.island k = s.island k) ∧
    (s.spareIdle n.val = true → exec (.islandClockStart n) s = .next u) ∧
    (s.spareIdle n.val = false → ∃ t, exec (.islandClockStart n) s = .next t ∧ t.island n.val = { s.island n.val with stopped := false } ∧
      ∀ k, k ≠ n.val → t.island k = s.island k)) ∧
  (∀ (s : State) (ts : List (BitVec 8)), s.up = true →
    ∃ t, exec (.temperatureSample ts) s = .next t ∧ t.clock % 4000 = 0 ∧ s.clock < t.clock ∧
      (s.tab.tcrit.vote = none → t.pwr.tchalt = true) ∧
      (∀ n, n < 121 → (t.island n).crit = ((s.island n).crit || (s.islandPowered n && match ts[n]? with
        | some v => decide (degrees (BitVec.ofNat 8 ((s.tabVal .tcrit).bits 7 0)) ≤ degrees v)
        | none => false))) ∧
      (∀ n, n < 91 → s.islandPowered n = true → (t.island n).crit = true → s.sec.wiping = false → (t.island n).goal = 31) ∧ t.ctxs = s.ctxs)

/-- 12 R404, 03 R102, R105: an enabled quadrant whose power is lost is switched off and marked, every tile of its engines takes LOST, an
instruction at work on one of them, or on an engine of the quadrant that hosts its tiles, faults with TILE_LOST (or is cancelled by an
earlier one's fault, if it has written nothing: 06 R197), but a TREL, which has no slot on an engine, goes on (log 56), and each of its 16 engines is hosted or out
of service; its islands are off, and every island reports the power of the last interval until the next ends (13 R418, R436). Where the copies of a
register that describes the engines all differ, QLOST and the hosting wait for a write that ends it (12 R406, R407; the model's reading: log 44).
A quadrant that is not enabled, or whose input is noisy and so reads 0 already (11 R387), only reads 0. -/
def Obligations.QuadrantLoss : Prop :=
  (∀ (s t : State) (r : TabReg) (a : Access), r ∈ [TabReg.spareEng, .spareRet, .host] → s.writeSpare r a = .ok t →
    ∃ v, t = (s.putTab r v).repairDue) ∧
  (∀ (s : State) (q : Fin 4), (s.split engineRegs = true → s.repairDue = s) ∧
    (s.split engineRegs = false → s.st.lossDue = [q] → s.repairDue.qlost q.val = true ∧ s.repairDue.st.lossDue = [] ∧
      ∀ i, i < 16 → (s.repairDue.st.hosts.any fun h => h.1.val == 16 * q.val + i) = true ∨ s.repairDue.outE (16 * q.val + i) = true)) ∧
  ∀ (s : State) (q : Fin 4), s.up = true →
    (s.pwr.qpwrEn.getLsbD q.val = true → s.qpwrGood q.val = true →
      ∃ t, exec (.quadrantLost q) s = .next t ∧ t.pwr.qpwrEn.getLsbD q.val = false ∧ t.pwr.qpwrOk.getLsbD q.val = false ∧
        (∀ i, i < 128 → (t.tile (128 * q.val + i)).lost = true) ∧
        (∀ n, (t.island n).power = (s.island n).power ∧ (n < 68 → islandQuadrant n = q.val → (t.island n).off = true)) ∧
        (s.split engineRegs = true → t.st.lossDue = s.st.lossDue ++ [q]) ∧
        (s.split engineRegs = false → t.qlost q.val = true ∧ ∀ i, i < 16 → t.hostedE (16 * q.val + i) = true ∨ t.outE (16 * q.val + i) = true ∨
          (s.st.hosts.any fun h => h.1.val == 16 * q.val + i) = true ∨ s.outE (16 * q.val + i) = true) ∧
        (∀ c n e, (s.ctx c).entry n = some e → e.phase = .active → e.insn.isTrel = true →
          ∃ f, (t.ctx c).entry n = some f ∧ (f = e ∨ (f.phase = .cancelled ∧ e.wrote = false))) ∧
        (∀ c n e k, (s.ctx c).entry n = some e → e.phase = .active → e.insn.isTrel = false → s.tileIn e.insn q.val = some k →
          (∃ f, (t.ctx c).entry n = some f ∧ ((f.phase = .faulted ∧ f.fault.map (fun x => x.2.code) = some 0x0B) ∨
            (f.phase = .cancelled ∧ e.wrote = false))) ∧ ((s.ctx c).st = .run → (t.ctx c).st = .draining)) ∧ (s.st.hosts = [] → t.vat = s.vat)) ∧
    (s.pwr.qpwrEn.getLsbD q.val = false ∨ s.qpwrGood q.val = false → ∃ t, exec (.quadrantLost q) s = .next t ∧
      t.pwr.qpwrOk.getLsbD q.val = false ∧ t.pwr.qpwrEn = s.pwr.qpwrEn ∧ t.tiles = s.tiles ∧ t.tab = s.tab ∧ t.ctxs = s.ctxs)

/-! Tables, repair, trace. -/

/-- 12 R391 to R398, R402, R405, R412: the patrol, at the multiples of 2^20 reference e-cycles since release (the origin is the model's: log
3), rewrites every minority copy and changes no value; the scrub moves to the next row, and counts and tests what it finds in the tile
file and the Vat; a plane that passes its test is active again, an engine that fails one has its tiles copied to a free
spare, which then stands in for it; a Vat bit line is replaced and its segment rebuilt, which ends with its segment in service. Where the copies
of a register that describes the unit all differ, the end of its test and of a copy wait (12 R406; the model's reading: log 44). -/
def Obligations.TestsAndSpares : Prop :=
  (∀ s : State, s.up = true → ∃ t, exec .tablePatrol s = .next t ∧ t.clock % 2 ^ 20 = 0 ∧ s.clock < t.clock ∧
    (∀ r : TabReg, (r.get t.tab).minority = false ∧ t.tabVal r = s.tabVal r) ∧ t.ctxs = s.ctxs ∧ t.vat = s.vat) ∧
  (∀ s : State, s.up = true → s.err.scrubEn = true →
    (∃ t, exec (.scrubRow []) s = .next t ∧ t = { s.mark [5, 6] with st := { s.st with scrubRow := (s.st.scrubRow + 1) % 8192 } }) ∧
    (∀ found : List Detect, ∃ t, exec (.scrubRow found) s = .next t ∧ t.st.scrubRow = (s.st.scrubRow + 1) % 8192 ∧ t.tileMem = s.tileMem ∧
      t.vat = s.vat ∧ t.ctxs = s.ctxs) ∧
    (∀ (w : Where) (u : Fin 128) (loc : BitVec 48) (x : TestUnit), w ≠ .memory → s.testUnitOf w u loc = some x →
      (∃ t, exec (.scrubRow [.corrected w u loc]) s = .next t ∧ t.err.corr = satAdd s.err.corr 1 ∧ t.err.uncorr = s.err.uncorr ∧
        t.testing x = true) ∧
      (∃ t, exec (.scrubRow [.uncorrectable w u loc]) s = .next t ∧ t.err.uncorr = satAdd s.err.uncorr 1 ∧ t.err.corr = s.err.corr ∧
        t.testing x = true)) ∧
    (∀ (u : Fin 128) (loc : BitVec 48), s.testUnitOf .tileFile u loc = some (.engine (Fin.ofNat 68 (s.physical (u.val % 64)))))) ∧
  (∀ (s : State) (u : TestUnit) (o : TestOutcome), s.up = true → s.testing u = true → s.split (testRegs u) = true →
    exec (.selfTestEnd u o) s = .next s.readSpares) ∧
  (∀ (s : State) (g : Fin 64) (b f : Bool), s.up = true → s.st.copies.find? (fun k => k.1 == g) = some (g, b) → s.split engineRegs = true →
    exec (.spareCopyDone g f) s = .next s.readSpares) ∧
  (∀ (s : State) (p : Fin 5), s.up = true → s.testing (.plane p) = true → s.split [.sparePlane] = false → s.planeState p.val = 2 →
    p ∉ s.st.wasSpare → s.err.thrashN = 0 →
    ∃ t, exec (.selfTestEnd (.plane p) .pass) s = .next t ∧ t.testing (.plane p) = false ∧ t.planeActive p.val = true) ∧
  (∀ (s : State) (p : Fin 68) (g : Fin 64), s.up = true → s.testing (.engine p) = true → s.split engineRegs = false → p.val < 64 →
    s.logicalOf p.val = some g → s.spareFree (g.val / 16) = true →
    ∃ t, exec (.selfTestEnd (.engine p) .fail) s = .next t ∧ t.testing (.engine p) = false ∧ t.st.copies = s.st.copies ++ [(g, false)] ∧
      t.tiles = s.tiles ∧ t.tileMem = s.tileMem) ∧
  (∀ (s : State) (g : Fin 64), s.up = true → s.st.copies.find? (fun k => k.1 == g) = some (g, false) → s.split engineRegs = false →
    s.physical g.val < 64 → s.qlost (g.val / 16) = false →
    ∃ t, exec (.spareCopyDone g false) s = .next t ∧ t.physical g.val = 64 + g.val / 16 ∧ t.retired (s.physical g.val) = true ∧
      t.st.copies = s.st.copies.erase (g, false) ∧ t.tileMem = s.tileMem) ∧
  (∀ (s : State) (g m : Fin 16) (sub : Fin 256) (bit : Fin 32) (e k : Nat), s.up = true → s.testing (.macroOf g m) = true →
    s.split (testRegs (.macroOf g m)) = false → s.freeElement g.val false = some e → s.freeEntry g.val = some k →
    ∃ t, exec (.selfTestEnd (.macroOf g m) (.badLine sub bit)) s = .next t ∧ t.colmap k = colmapEntry false sub.val bit.val e ∧
      g ∈ t.st.rebuilds ∧ t.vat = s.vat) ∧
  (∀ (s : State) (g : Fin 16), s.up = true → ∃ t, exec (.vatRebuildDone g) s = .next t ∧
    t = { s.mark [5, 6] with st := { s.st with rebuilds := s.st.rebuilds.filter fun x => x != g } } ∧ g ∉ t.st.rebuilds)

/-- 15 R471, R473, R474: TRACE_SYNC moves to the next multiple of 2^20 b-cycles since release (the origin is the model's: log 3) and, with
tracing on, queues a SYNC record or counts it as dropped; a record that finds space after others were lost is preceded by a DROP record with
their number (modulo 2^16, the model's choice: log 25); with tracing on the trace port gives the oldest record, behind the DROP record that
precedes it; with tracing off it gives none. -/
def Obligations.TraceRecords : Prop :=
  (∀ s : State, s.up = true → ∃ t, exec .traceSync s = .next t ∧ t.clock % 2 ^ 21 = 0 ∧ s.clock < t.clock ∧
    (s.dbg.traceEn = false → t.dbg = s.dbg) ∧
    (s.dbg.traceEn = true → s.dbg.queue.length < 64 →
      t.dbg.queue = s.dbg.queue ++ [(if s.dbg.lostNow = 0 then none else some (BitVec.ofNat 64 (8 + s.dbg.lostNow % 2 ^ 16 * 2 ^ 8)),
        BitVec.ofNat 64 (7 + t.clock % 2 ^ 56 * 2 ^ 8))] ∧ t.dbg.drops = s.dbg.drops ∧ t.dbg.lostNow = 0) ∧
    (s.dbg.traceEn = true → 64 ≤ s.dbg.queue.length →
      t.dbg.queue = s.dbg.queue ∧ t.dbg.drops = satAdd s.dbg.drops 1 ∧ t.dbg.lostNow = s.dbg.lostNow + 1)) ∧
  (∀ s : State, s.up = true →
    (s.dbg.traceEn = false → exec .traceRecordOut s = .next s) ∧
    (s.dbg.traceEn = true →
      (∀ d q r, s.dbg.queue = (some d, q) :: r →
        exec .traceRecordOut s = .next { s with dbg := { s.dbg with out := some d, queue := (none, q) :: r } }) ∧
      (∀ q r, s.dbg.queue = (none, q) :: r → exec .traceRecordOut s = .next { s with dbg := { s.dbg with out := some q, queue := r } }) ∧
      (s.dbg.queue = [] → exec .traceRecordOut s = .next { s with dbg := { s.dbg with out := none } }))) ∧
  (∀ (s : State) (q : Quad),
    (s.dbg.queue.length < 64 → s.dbg.lostNow = 0 → (s.tracePush q).dbg.queue = s.dbg.queue ++ [(none, q)]) ∧
    (s.dbg.queue.length < 64 → 0 < s.dbg.lostNow → ∃ d, (s.tracePush q).dbg.queue = s.dbg.queue ++ [(some d, q)] ∧ d.bits 3 0 = 8 ∧
      d.bits 23 8 = s.dbg.lostNow % 65536 ∧ (s.tracePush q).dbg.lostNow = 0) ∧
    (64 ≤ s.dbg.queue.length → (s.tracePush q).dbg = { s.dbg with drops := satAdd s.dbg.drops 1, lostNow := s.dbg.lostNow + 1 }))
end

