-- ==== Sys2Proof/Laws/Sparse.lean ====
section
/-! SUPPORT. The laws of the sparse stores: every operation keeps the canonical form, a read after a write gives the value written,
and a write leaves every other place alone. -/

namespace Sys2Proof.Machine

variable {α : Type}

theorem spRises_mono {m : List (Nat × α)} {lo hi : Nat} (h : spRises hi m = true) (le : lo ≤ hi) : spRises lo m = true := by
  cases m with
  | nil => rfl
  | cons p r =>
    simp only [spRises, Bool.and_eq_true, decide_eq_true_eq] at h ⊢
    exact ⟨Nat.le_trans le h.1, h.2⟩

theorem spRises_le {m : List (Nat × α)} {lo : Nat} (h : spRises lo m = true) : ∀ p ∈ m, lo ≤ p.1 := by
  induction m generalizing lo with
  | nil => simp
  | cons q r ih =>
    simp only [spRises, Bool.and_eq_true, decide_eq_true_eq] at h
    intro p hp
    rcases List.mem_cons.1 hp with rfl | hp
    · exact h.1
    · exact Nat.le_trans (Nat.le_succ_of_le h.1) (ih h.2 p hp)

theorem spRises_append {x y : List (Nat × α)} {lo k : Nat} (hx : spRises lo x = true) (hk : ∀ p ∈ x, p.1 < k)
    (hy : spRises k y = true) (le : lo ≤ k) : spRises lo (x ++ y) = true := by
  induction x generalizing lo with
  | nil => exact spRises_mono hy le
  | cons q r ih =>
    simp only [spRises, Bool.and_eq_true, decide_eq_true_eq, List.cons_append] at hx ⊢
    exact ⟨hx.1, ih hx.2 (fun p hp => hk p (List.mem_cons_of_mem _ hp)) (hk q (List.mem_cons_self ..))⟩

theorem spBelow_rises {m : List (Nat × α)} {lo a : Nat} (h : spRises lo m = true) : spRises lo (spBelow m a) = true := by
  induction m generalizing lo with
  | nil => rfl
  | cons q r ih =>
    simp only [spRises, Bool.and_eq_true, decide_eq_true_eq] at h
    unfold spBelow
    split
    · simp only [spRises, Bool.and_eq_true, decide_eq_true_eq]
      exact ⟨h.1, ih h.2⟩
    · rfl

theorem spBelow_lt {m : List (Nat × α)} {a : Nat} : ∀ p ∈ spBelow m a, p.1 < a := by
  induction m with
  | nil => simp [spBelow]
  | cons q r ih =>
    unfold spBelow
    split
    · intro p hp
      rcases List.mem_cons.1 hp with rfl | hp
      · assumption
      · exact ih p hp
    · simp

theorem spBelow_mem {m : List (Nat × α)} {a : Nat} : ∀ p ∈ spBelow m a, p ∈ m := by
  induction m with
  | nil => simp [spBelow]
  | cons q r ih =>
    unfold spBelow
    split
    · intro p hp
      rcases List.mem_cons.1 hp with rfl | hp
      · exact List.mem_cons_self ..
      · exact List.mem_cons_of_mem _ (ih p hp)
    · simp

theorem spFrom_rises {m : List (Nat × α)} {lo a : Nat} (h : spRises lo m = true) : spRises (max lo a) (spFrom m a) = true := by
  induction m generalizing lo with
  | nil => rfl
  | cons q r ih =>
    simp only [spRises, Bool.and_eq_true, decide_eq_true_eq] at h
    unfold spFrom
    split
    · exact spRises_mono (ih h.2) (by omega)
    · simp only [spRises, Bool.and_eq_true, decide_eq_true_eq]
      exact ⟨by omega, h.2⟩

theorem spFrom_mem {m : List (Nat × α)} {a : Nat} : ∀ p ∈ spFrom m a, p ∈ m := by
  induction m with
  | nil => simp [spFrom]
  | cons q r ih =>
    unfold spFrom
    split
    · intro p hp
      exact List.mem_cons_of_mem _ (ih p hp)
    · simp

section Write
variable [DecidableEq α] {d : α}

theorem spRun_rises (a : Nat) (vs : List α) : spRises a (spRun d a vs) = true := by
  induction vs generalizing a with
  | nil => rfl
  | cons v r ih =>
    unfold spRun
    split
    · exact spRises_mono (ih (a + 1)) (Nat.le_succ a)
    · simp [spRises, ih]

theorem spRun_lt (a : Nat) (vs : List α) : ∀ p ∈ spRun d a vs, p.1 < a + vs.length := by
  induction vs generalizing a with
  | nil => simp [spRun]
  | cons v r ih =>
    unfold spRun
    split
    · intro p hp
      have := ih (a + 1) p hp
      simp only [List.length_cons]
      omega
    · intro p hp
      simp only [List.length_cons]
      rcases List.mem_cons.1 hp with rfl | hp
      · simp
      · have := ih (a + 1) p hp
        omega

theorem spRun_ne (a : Nat) (vs : List α) : ∀ p ∈ spRun d a vs, p.2 ≠ d := by
  induction vs generalizing a with
  | nil => simp [spRun]
  | cons v r ih =>
    unfold spRun
    split
    · exact ih (a + 1)
    · intro p hp
      rcases List.mem_cons.1 hp with rfl | hp
      · assumption
      · exact ih (a + 1) p hp

theorem spWf_iff {m : List (Nat × α)} : spWf d m = true ↔ spRises 0 m = true ∧ ∀ p ∈ m, p.2 ≠ d := by
  simp [spWf]

/-- Two canonical stores one below the other make a canonical store. -/
theorem spWf_append {x y : List (Nat × α)} {k : Nat} (hx : spWf d x = true) (hk : ∀ p ∈ x, p.1 < k) (hy : spRises k y = true)
    (hd : ∀ p ∈ y, p.2 ≠ d) : spWf d (x ++ y) = true := by
  rw [spWf_iff] at hx ⊢
  refine ⟨spRises_append hx.1 hk hy (Nat.zero_le k), ?_⟩
  intro p hp
  rcases List.mem_append.1 hp with hp | hp
  · exact hx.2 p hp
  · exact hd p hp

theorem spBelow_wf {m : List (Nat × α)} {a : Nat} (h : spWf d m = true) : spWf d (spBelow m a) = true := by
  rw [spWf_iff] at h ⊢
  exact ⟨spBelow_rises h.1, fun p hp => h.2 p (spBelow_mem p hp)⟩

/-- A write keeps the canonical form. -/
theorem spWrite_wf {m : List (Nat × α)} (h : spWf d m = true) (a : Nat) (vs : List α) : spWf d (spWrite d m a vs) = true := by
  have hm := spWf_iff.1 h
  refine spWf_append (spBelow_wf h) spBelow_lt ?_ ?_
  · refine spRises_append (spRun_rises a vs) (spRun_lt a vs) ?_ (Nat.le_add_right a _)
    exact spRises_mono (spFrom_rises hm.1) (by omega)
  · intro p hp
    rcases List.mem_append.1 hp with hp | hp
    · exact spRun_ne a vs p hp
    · exact hm.2 p (spFrom_mem p hp)

theorem spSet_wf {m : List (Nat × α)} (h : spWf d m = true) (a : Nat) (v : α) : spWf d (spSet d m a v) = true :=
  spWrite_wf h a [v]

end Write

@[simp] theorem bytesWf_nil : bytesWf [] = true := rfl

@[simp] theorem putBytes_wf {m : Bytes} (h : bytesWf m = true) (a : Nat) (bs : List Byte) : bytesWf (putBytes m a bs) = true :=
  spWrite_wf h a bs

@[simp] theorem putByte_wf {m : Bytes} (h : bytesWf m = true) (a : Nat) (b : Byte) : bytesWf (putByte m a b) = true :=
  spSet_wf h a b

@[simp] theorem zeroBytes_wf {m : Bytes} (h : bytesWf m = true) (a n : Nat) : bytesWf (zeroBytes m a n) = true := by
  have hm := spWf_iff.1 h
  exact spWf_append (spBelow_wf h) spBelow_lt (spRises_mono (spFrom_rises hm.1) (by omega))
    fun p hp => hm.2 p (spFrom_mem p hp)

/-! Reading. -/

theorem spGet_append {x y : List (Nat × α)} {d : α} {k : Nat} (hk : ∀ p ∈ x, p.1 < k) (hy : spRises k y = true) (b : Nat) :
    spGet d (x ++ y) b = if b < k then spGet d x b else spGet d y b := by
  induction x with
  | nil =>
    simp only [List.nil_append]
    split
    · cases y with
      | nil => rfl
      | cons q r =>
        have := spRises_le hy q (List.mem_cons_self ..)
        have hne : ¬ b = q.1 := by omega
        have hlt : b < q.1 := by omega
        show (if b = q.1 then q.2 else if b < q.1 then d else spGet d r b) = d
        rw [if_neg hne, if_pos hlt]
    · rfl
  | cons q r ih =>
    have hq := hk q (List.mem_cons_self ..)
    have ih := ih fun p hp => hk p (List.mem_cons_of_mem _ hp)
    show (if b = q.1 then q.2 else if b < q.1 then d else spGet d (r ++ y) b) =
      if b < k then (if b = q.1 then q.2 else if b < q.1 then d else spGet d r b) else spGet d y b
    rw [ih]
    by_cases h1 : b = q.1
    · rw [if_pos h1, if_pos (by omega), if_pos h1]
    · by_cases h2 : b < q.1
      · rw [if_neg h1, if_pos h2, if_pos (by omega), if_neg h1, if_pos h2]
      · rw [if_neg h1, if_neg h2]
        by_cases h3 : b < k
        · rw [if_pos h3, if_pos h3, if_neg h1, if_neg h2]
        · rw [if_neg h3, if_neg h3]

theorem spGet_above {m : List (Nat × α)} {d : α} {lo b : Nat} (h : spRises lo m = true) (lt : b < lo) : spGet d m b = d := by
  cases m with
  | nil => rfl
  | cons q r =>
    have := spRises_le h q (List.mem_cons_self ..)
    show (if b = q.1 then q.2 else if b < q.1 then d else spGet d r b) = d
    rw [if_neg (by omega), if_pos (by omega)]

theorem spGet_below {m : List (Nat × α)} {d : α} {lo a b : Nat} (h : spRises lo m = true) (lt : b < a) :
    spGet d (spBelow m a) b = spGet d m b := by
  induction m generalizing lo with
  | nil => rfl
  | cons q r ih =>
    simp only [spRises, Bool.and_eq_true, decide_eq_true_eq] at h
    unfold spBelow
    split
    · show (if b = q.1 then q.2 else if b < q.1 then d else spGet d (spBelow r a) b) =
        (if b = q.1 then q.2 else if b < q.1 then d else spGet d r b)
      rw [ih h.2]
    · exact (spGet_above (lo := q.1) (m := q :: r) (by simp [spRises, h.2]) (by omega)).symm

theorem spGet_from {m : List (Nat × α)} {d : α} {lo a b : Nat} (h : spRises lo m = true) (le : a ≤ b) :
    spGet d (spFrom m a) b = spGet d m b := by
  induction m generalizing lo with
  | nil => rfl
  | cons q r ih =>
    simp only [spRises, Bool.and_eq_true, decide_eq_true_eq] at h
    unfold spFrom
    split
    · show spGet d (spFrom r a) b = (if b = q.1 then q.2 else if b < q.1 then d else spGet d r b)
      rw [ih h.2, if_neg (by omega), if_neg (by omega)]
    · rfl

section Get
variable [DecidableEq α] {d : α}

theorem spGet_run (a : Nat) (vs : List α) (b : Nat) : spGet d (spRun d a vs) b = if a ≤ b then vs.getD (b - a) d else d := by
  induction vs generalizing a with
  | nil => simp [spRun, spGet]
  | cons v r ih =>
    unfold spRun
    split
    · rename_i hv
      rw [ih]
      by_cases h1 : a + 1 ≤ b
      · rw [if_pos h1, if_pos (by omega)]
        obtain ⟨k, hk⟩ : ∃ k, b - a = k + 1 := ⟨b - a - 1, by omega⟩
        rw [hk, show b - (a + 1) = k by omega]
        rfl
      · rw [if_neg h1]
        by_cases h2 : a ≤ b
        · rw [if_pos h2, show b - a = 0 by omega]
          exact hv.symm
        · rw [if_neg h2]
    · show (if b = a then v else if b < a then d else spGet d (spRun d (a + 1) r) b) = _
      rw [ih]
      by_cases h1 : b = a
      · subst h1
        simp
      · by_cases h2 : b < a
        · rw [if_neg h1, if_pos h2, if_neg (by omega)]
        · rw [if_neg h1, if_neg h2, if_pos (by omega), if_pos (by omega)]
          obtain ⟨k, hk⟩ : ∃ k, b - a = k + 1 := ⟨b - a - 1, by omega⟩
          rw [hk, show b - (a + 1) = k by omega]
          rfl

/-- A read after a write: the value written where the write reaches, and what was there before everywhere else. -/
theorem spGet_write {m : List (Nat × α)} (h : spWf d m = true) (a : Nat) (vs : List α) (b : Nat) :
    spGet d (spWrite d m a vs) b = if a ≤ b ∧ b < a + vs.length then vs.getD (b - a) d else spGet d m b := by
  have hm := (spWf_iff.1 h).1
  have hy : spRises a (spRun d a vs ++ spFrom m (a + vs.length)) = true :=
    spRises_append (spRun_rises a vs) (spRun_lt a vs) (spRises_mono (spFrom_rises hm) (by omega)) (Nat.le_add_right a _)
  have hz : spRises (a + vs.length) (spFrom m (a + vs.length)) = true := spRises_mono (spFrom_rises hm) (by omega)
  rw [spWrite, spGet_append spBelow_lt hy, spGet_append (spRun_lt a vs) hz, spGet_run]
  by_cases h1 : b < a
  · rw [if_pos h1, if_neg (by omega), spGet_below hm h1]
  · rw [if_neg h1]
    by_cases h2 : b < a + vs.length
    · rw [if_pos h2, if_pos (by omega), if_pos (by omega)]
    · rw [if_neg h2, if_neg (by omega), spGet_from hm (by omega)]

end Get

theorem byteAt_putBytes {m : Bytes} (h : bytesWf m = true) (a : Nat) (bs : List Byte) (b : Nat) :
    byteAt (putBytes m a bs) b = if a ≤ b ∧ b < a + bs.length then bs.getD (b - a) 0 else byteAt m b :=
  spGet_write h a bs b

theorem byteAt_zeroBytes {m : Bytes} (h : bytesWf m = true) (a n b : Nat) :
    byteAt (zeroBytes m a n) b = if a ≤ b ∧ b < a + n then 0 else byteAt m b := by
  have hm := (spWf_iff.1 h).1
  have hz : spRises (max a (a + n)) (spFrom m (a + n)) = true := spRises_mono (spFrom_rises hm) (by omega)
  show spGet 0 (spBelow m a ++ spFrom m (a + n)) b = _
  rw [spGet_append spBelow_lt (spRises_mono hz (by omega : a ≤ _))]
  by_cases h1 : b < a
  · rw [if_pos h1, if_neg (by omega), spGet_below hm h1]
    rfl
  · rw [if_neg h1]
    by_cases h2 : b < a + n
    · rw [if_pos (by omega), spGet_above hz (by omega)]
    · rw [if_neg (by omega), spGet_from hm (by omega)]
      rfl

end Sys2Proof.Machine
end

