-- ==== Sys2Proof/Laws/CanonBase.lean ====
section
/-! SUPPORT. What keeps the stores canonical: updates of the fields that hold no store, updates of a context that keep its pattern
registers, and the pieces from which the functions of the model are put together. -/

namespace Sys2Proof.Machine

variable {s : State}

@[simp] theorem State.Canon.getVat (h : s.Canon) : bytesWf s.vat = true := h.vat
@[simp] theorem State.Canon.getRam (h : s.Canon) : bytesWf s.ram = true := h.ram
@[simp] theorem State.Canon.getTiles (h : s.Canon) : bytesWf s.tileMem = true := h.tiles
@[simp] theorem State.Canon.getCache (h : s.Canon) : bytesWf s.cache = true := h.cache

/-- The pattern registers of every context of a vector are canonical. -/
def PatsOk (v : Vector Ctx 8) : Prop := ∀ c : CtxId, patsWf (v[c]).pats = true

@[simp] theorem State.Canon.getPats (h : s.Canon) : PatsOk s.ctxs := h.pats

/-- Canonical stores, field by field. -/
theorem State.canon_iff : s.Canon ↔ bytesWf s.vat = true ∧ bytesWf s.ram = true ∧ bytesWf s.tileMem = true ∧
    bytesWf s.cache = true ∧ PatsOk s.ctxs :=
  ⟨fun h => ⟨h.vat, h.ram, h.tiles, h.cache, h.pats⟩, fun h => ⟨h.1, h.2.1, h.2.2.1, h.2.2.2.1, h.2.2.2.2⟩⟩

/-- Canonical stores of a state written out, as an update of a state is. -/
@[simp] theorem canon_mk {pending powered inReset clock freeCtr ans resp leaseWaits fuses glob tel dbg felt ports sb pwr islands ctxs evtPtr evtHeld evtOut
    tiles tileMem tileOwner regionOwner vat ram lines cache bad reads xlats unacked laneFree tab front korni err st screen sec} :
    (State.mk pending powered inReset clock freeCtr ans resp leaseWaits fuses glob tel dbg felt ports sb pwr islands ctxs evtPtr evtHeld evtOut
      tiles tileMem tileOwner regionOwner vat ram lines cache bad reads xlats unacked laneFree tab front korni err st screen sec).Canon ↔
    bytesWf vat = true ∧ bytesWf ram = true ∧ bytesWf tileMem = true ∧ bytesWf cache = true ∧ PatsOk ctxs :=
  State.canon_iff

@[simp] theorem PatsOk.set {v : Vector Ctx 8} (h : PatsOk v) (c : CtxId) {x : Ctx} (hx : patsWf x.pats = true) :
    PatsOk (v.set c x) := by
  intro d
  have e : (v.set c x)[d] = if c.val = d.val then x else v[d] := by simp [Vector.getElem_set]
  rw [e]
  split
  · exact hx
  · exact h d

@[simp] theorem PatsOk.ofFn {f : Fin 8 → Ctx} (h : ∀ i, patsWf (f i).pats = true) : PatsOk (Vector.ofFn f) := by
  intro d
  have e : (Vector.ofFn f)[d] = f d := by simp
  rw [e]
  exact h d

@[simp] theorem PatsOk.map {v : Vector Ctx 8} (h : PatsOk v) {f : Ctx → Ctx} (hf : ∀ x, patsWf x.pats = true → patsWf (f x).pats = true) :
    PatsOk (v.map f) := by
  intro d
  have e : (v.map f)[d] = f v[d] := by simp
  rw [e]
  exact hf _ (h d)

@[simp] theorem setCtx_canon (h : s.Canon) (c : CtxId) {x : Ctx} (hx : patsWf x.pats = true) : (s.setCtx c x).Canon :=
  ⟨h.vat, h.ram, h.tiles, h.cache, h.getPats.set c hx⟩

@[simp] theorem upCtx_canon (h : s.Canon) (c : CtxId) {f : Ctx → Ctx} (hf : patsWf (f (s.ctx c)).pats = true) : (s.upCtx c f).Canon :=
  setCtx_canon h c hf

@[simp] theorem ctx_pats (h : s.Canon) (c : CtxId) : patsWf (s.ctx c).pats = true := h.pats c

@[simp] theorem foldl_canon {β : Type} {f : State → β → State} (hf : ∀ s b, s.Canon → (f s b).Canon) (l : List β) (h : s.Canon) :
    (l.foldl f s).Canon := by
  induction l generalizing s with
  | nil => exact h
  | cons b r ih => exact ih (hf s b h)

@[simp] theorem foldl_bytes {β : Type} {f : Bytes → β → Bytes} (hf : ∀ m b, bytesWf m = true → bytesWf (f m b) = true) (l : List β) {m : Bytes}
    (h : bytesWf m = true) : bytesWf (l.foldl f m) = true := by
  induction l generalizing m with
  | nil => exact h
  | cons b r ih => exact ih (hf m b h)

@[simp] theorem ite_canon {p : Prop} [Decidable p] {a b : State} (ha : a.Canon) (hb : b.Canon) : (if p then a else b).Canon := by
  split
  · exact ha
  · exact hb

@[simp] theorem ite_bytes {p : Prop} [Decidable p] {a b : Bytes} (ha : bytesWf a = true) (hb : bytesWf b = true) :
    bytesWf (if p then a else b) = true := by
  split
  · exact ha
  · exact hb

@[simp] theorem ite_ctx_pats {p : Prop} [Decidable p] {a b : Ctx} (ha : patsWf a.pats = true) (hb : patsWf b.pats = true) :
    patsWf (if p then a else b).pats = true := by
  split
  · exact ha
  · exact hb

/-! Contexts whose functions leave the pattern registers alone. -/

@[simp] theorem settle_pats (x : Ctx) : x.settle.pats = x.pats := by
  unfold Ctx.settle
  dsimp only
  repeat' split
  all_goals rfl

@[simp] theorem faultEvent_pats (x : Ctx) (k : BitVec 8) : (x.faultEvent k).pats = x.pats := rfl
@[simp] theorem record_pats (x : Ctx) (n : Seq) (k : Nat) (f : FaultRec) (o : Bool) (a : BitVec 48) : (x.record n k f o a).pats = x.pats := rfl
@[simp] theorem discard_pats (x : Ctx) (b : Bool) : (x.discard b).pats = x.pats := rfl
@[simp] theorem meetNonfinite_pats (x : Ctx) (b : Bool) : (x.meetNonfinite b).pats = x.pats := rfl
@[simp] theorem advanceStreams_pats (x : Ctx) : x.advanceStreams.pats = x.pats := rfl
@[simp] theorem frontChanges_pats (x : Ctx) (w : BitVec 16) (b : Bool) : (x.frontChanges w b).pats = x.pats := by
  unfold Ctx.frontChanges
  dsimp only
  repeat' split
  all_goals rfl
@[simp] theorem setLeaseReg_pats (x : Ctx) (k : LeaseKind) (v : Quad) : (x.setLeaseReg k v).pats = x.pats := by
  unfold Ctx.setLeaseReg
  split <;> rfl
@[simp] theorem foldQuads_pats (x : Ctx) (i : Insn) : (x.foldQuads i).pats = x.pats := rfl
@[simp] theorem restartDigest_pats (x : Ctx) (i : Insn) : (x.restartDigest i).pats = x.pats := by
  unfold Ctx.restartDigest
  split <;> rfl
@[simp] theorem moveOn_pats (x : Ctx) (i : Insn) : (x.moveOn i).pats = x.pats := by
  unfold Ctx.moveOn
  dsimp only
  repeat' split
  all_goals rfl

@[simp] theorem clearState_pats (x : Ctx) : patsWf x.clearState.pats = true := rfl
@[simp] theorem clearDomain_pats (x : Ctx) : patsWf x.clearDomain.pats = true := rfl

@[simp] theorem setPat_pats {x : Ctx} (h : patsWf x.pats = true) (n : Nat) (qs : List Quad) : patsWf (x.setPat n qs).pats = true :=
  spWrite_wf (d := (0 : Quad)) h _ _

/-! Results that carry a state. -/

/-- The state of a result is canonical. -/
def Res.Canon : Res → Prop
  | .ok s _ => s.Canon
  | .wait s => s.Canon
  | .fault _ s => s.Canon

def Reach.Canon : Reach → Prop
  | .ok s => s.Canon
  | .wait s => s.Canon
  | .fault _ s => s.Canon

def Ran.Canon : Ran → Prop
  | .done s _ => s.Canon
  | .wait s _ => s.Canon
  | .fault _ _ s _ => s.Canon

def PortGot.Canon : PortGot → Prop
  | .got _ s => s.Canon
  | .wait => True
  | .failed => True

def Got.Canon : Got → Prop
  | .ok _ s => s.Canon
  | .wait s => s.Canon
  | .fault _ s => s.Canon

def Fetched.Canon : Fetched → Prop
  | .insn _ s => s.Canon
  | .wait s => s.Canon
  | .fault _ s => s.Canon

def Wrote.Canon : Wrote → Prop
  | .ok s => s.Canon
  | .refused => True
  | .held _ _ _ _ => True

/-- The next state of a command, where it has one, is canonical. -/
def OutCanon : Out → Prop
  | .next s => s.Canon
  | _ => True

section Results
variable {t : State}
@[simp] theorem Res.canon_ok (e : Entry) : (Res.ok t e).Canon = t.Canon := rfl
@[simp] theorem Res.canon_wait : (Res.wait t).Canon = t.Canon := rfl
@[simp] theorem Res.canon_fault (f : FaultRec) : (Res.fault f t).Canon = t.Canon := rfl
@[simp] theorem Reach.canon_ok : (Reach.ok t).Canon = t.Canon := rfl
@[simp] theorem Reach.canon_wait : (Reach.wait t).Canon = t.Canon := rfl
@[simp] theorem Reach.canon_fault (f : FaultRec) : (Reach.fault f t).Canon = t.Canon := rfl
@[simp] theorem Ran.canon_done (e : Entry) : (Ran.done t e).Canon = t.Canon := rfl
@[simp] theorem Ran.canon_wait (e : Entry) : (Ran.wait t e).Canon = t.Canon := rfl
@[simp] theorem Ran.canon_fault (k : Nat) (f : FaultRec) (e : Entry) : (Ran.fault k f t e).Canon = t.Canon := rfl
@[simp] theorem PortGot.canon_got (bs : List Byte) : (PortGot.got bs t).Canon = t.Canon := rfl
@[simp] theorem PortGot.canon_wait : PortGot.wait.Canon = True := rfl
@[simp] theorem PortGot.canon_failed : PortGot.failed.Canon = True := rfl
@[simp] theorem Got.canon_ok (bs : List Byte) : (Got.ok bs t).Canon = t.Canon := rfl
@[simp] theorem Got.canon_wait : (Got.wait t).Canon = t.Canon := rfl
@[simp] theorem Got.canon_fault (f : FaultRec) : (Got.fault f t).Canon = t.Canon := rfl
@[simp] theorem Fetched.canon_insn (i : Insn) : (Fetched.insn i t).Canon = t.Canon := rfl
@[simp] theorem Fetched.canon_wait : (Fetched.wait t).Canon = t.Canon := rfl
@[simp] theorem Fetched.canon_fault (f : FaultRec) : (Fetched.fault f t).Canon = t.Canon := rfl
@[simp] theorem Wrote.canon_ok : (Wrote.ok t).Canon = t.Canon := rfl
@[simp] theorem Wrote.canon_refused : Wrote.refused.Canon = True := rfl
@[simp] theorem Wrote.canon_held (k : LeaseKind) (c : CtxId) (p : Part) (v : Quad) : (Wrote.held k c p v).Canon = True := rfl
@[simp] theorem outCanon_next : OutCanon (.next t) = t.Canon := rfl
@[simp] theorem outCanon_fault (f : Fault) : OutCanon (.fault f) = True := rfl
@[simp] theorem outCanon_refused (f : Refusal) : OutCanon (.refused f) = True := rfl
@[simp] theorem whenUp_canon (h : s.Canon) (ht : t.Canon) : OutCanon (whenUp s t) := by
  unfold whenUp
  split
  · exact ht
  · exact h
end Results

/-- The parts of an instruction keep the stores canonical. -/
structure Parts.Canon (P : Parts) : Prop where
  start : ∀ c s e, s.Canon → (P.start c s e).Canon
  unit : ∀ c s e k, s.Canon → (P.unit c s e k).Canon
  finish : ∀ c s e, s.Canon → (P.finish c s e).Canon

end Sys2Proof.Machine
end

