-- ==== Sys2Proof/Laws/CanonOps.lean ====
section
/-! SUPPORT. Canonical stores: the shared operations keep the stores canonical: those over the state, over memory,
    over a window and over the ports. -/

namespace Sys2Proof.Machine

@[simp] theorem setTile_canon {s : State} (n : Nat) (t : Tile) (h : s.Canon) : (State.setTile s n t).Canon := by
  unfold State.setTile
  try dsimp only
  repeat' split
  all_goals first
    | exact h
    | simp +contextual (maxDischargeDepth := 20) [*]

@[simp] theorem upTile_canon {s : State} (n : Nat) (f : Tile → Tile) (h : s.Canon) : (State.upTile s n f).Canon := by
  unfold State.upTile
  try dsimp only
  repeat' split
  all_goals first
    | exact h
    | simp +contextual (maxDischargeDepth := 20) [*]

@[simp] theorem putTile_canon {s : State} (n : Nat) (o : Nat) (bs : List Byte) (h : s.Canon) : (State.putTile s n o bs).Canon := by
  unfold State.putTile
  try dsimp only
  repeat' split
  all_goals first
    | exact h
    | simp +contextual (maxDischargeDepth := 20) [*]

@[simp] theorem upPort_canon {s : State} (p : Fin 12) (f : Port → Port) (h : s.Canon) : (State.upPort s p f).Canon := by
  unfold State.upPort
  try dsimp only
  repeat' split
  all_goals first
    | exact h
    | simp +contextual (maxDischargeDepth := 20) [*]

@[simp] theorem upIsland_canon {s : State} (n : Nat) (f : Island → Island) (h : s.Canon) : (State.upIsland s n f).Canon := by
  unfold State.upIsland
  try dsimp only
  repeat' split
  all_goals first
    | exact h
    | simp +contextual (maxDischargeDepth := 20) [*]

@[simp] theorem fresh_canon {s : State} (h : s.Canon) : (State.fresh s).Canon := by
  unfold State.fresh
  try dsimp only
  repeat' split
  all_goals first
    | exact h
    | simp +contextual (maxDischargeDepth := 20) [*]

@[simp] theorem tally_canon {s : State} (n : Nat) (k : Nat) (h : s.Canon) : (State.tally s n k).Canon := by
  unfold State.tally
  try dsimp only
  repeat' split
  all_goals first
    | exact h
    | simp +contextual (maxDischargeDepth := 20) [*]

@[simp] theorem tallyFree_canon {s : State} (n : Nat) (h : s.Canon) : (State.tallyFree s n).Canon := by
  unfold State.tallyFree
  try dsimp only
  repeat' split
  all_goals first
    | exact h
    | simp +contextual (maxDischargeDepth := 20) [*]

@[simp] theorem tracePush_canon {s : State} (q : Quad) (h : s.Canon) : (State.tracePush s q).Canon := by
  unfold State.tracePush
  try dsimp only
  repeat' split
  all_goals first
    | exact h
    | simp +contextual (maxDischargeDepth := 20) [*]

@[simp] theorem trace_canon {s : State} (typ : Nat) (c : Option CtxId) (fld : Nat) (mid : Nat)
    (h : s.Canon) : (State.trace s typ c fld mid).Canon := by
  unfold State.trace
  try dsimp only
  repeat' split
  all_goals first
    | exact h
    | simp +contextual (maxDischargeDepth := 20) [*]

@[simp] theorem traceInsn_canon {s : State} (typ : Nat) (c : CtxId) (n : Seq) (opcode : Nat)
    (h : s.Canon) : (State.traceInsn s typ c n opcode).Canon := by
  unfold State.traceInsn
  try dsimp only
  repeat' split
  all_goals first
    | exact h
    | simp +contextual (maxDischargeDepth := 20) [*]

@[simp] theorem logErr_canon {s : State} (e : ErrEvent) (h : s.Canon) : (State.logErr s e).Canon := by
  unfold State.logErr
  try dsimp only
  repeat' split
  all_goals first
    | exact h
    | simp +contextual (maxDischargeDepth := 20) [*]

@[simp] theorem logCorrected_canon {s : State} (kind : Nat) (unit : Nat) (loc : Nat) (h : s.Canon) : (State.logCorrected s kind unit loc).Canon := by
  unfold State.logCorrected
  try dsimp only
  repeat' split
  all_goals first
    | exact h
    | simp +contextual (maxDischargeDepth := 20) [*]

@[simp] theorem logUncorrectable_canon {s : State} (kind : Nat) (unit : Nat) (loc : Nat)
    (h : s.Canon) : (State.logUncorrectable s kind unit loc).Canon := by
  unfold State.logUncorrectable
  try dsimp only
  repeat' split
  all_goals first
    | exact h
    | simp +contextual (maxDischargeDepth := 20) [*]

@[simp] theorem logTable_canon {s : State} (code : Nat) (r : TabReg) (h : s.Canon) : (State.logTable s code r).Canon := logErr_canon _ h

@[simp] theorem putTab_canon {s : State} (r : TabReg) (q : Quad) (h : s.Canon) : (State.putTab s r q).Canon :=
  ⟨h.vat, h.ram, h.tiles, h.cache, h.pats⟩

@[simp] theorem compare_canon {s : State} (r : TabReg) (h : s.Canon) : (State.compare s r).Canon := by
  unfold State.compare
  dsimp only
  split
  · exact logTable_canon _ _ h
  · split
    · exact logTable_canon _ _ (putTab_canon r _ h)
    · exact h

@[simp] theorem compareAll_canon {s : State} (rs : List TabReg) (h : s.Canon) : (State.compareAll s rs).Canon :=
  foldl_canon (fun _ _ hs => compare_canon _ hs) _ h

/-- A self-test begins in the unit's own state alone. -/
@[simp] theorem startTest_canon {s : State} (u : TestUnit) (h : s.Canon) : (State.startTest s u).Canon := by
  have hr : ({ s with st := { s.st with running := s.st.running ++ [u] } } : State).Canon := ⟨h.vat, h.ram, h.tiles, h.cache, h.pats⟩
  unfold State.startTest
  dsimp only
  split
  · exact h
  · split
    · have hp := compare_canon .sparePlane hr
      split
      · exact hp
      · split
        · exact putTab_canon _ _ ⟨hp.vat, hp.ram, hp.tiles, hp.cache, hp.pats⟩
        · exact putTab_canon _ _ hp
    · have he := compare_canon .spareEng hr
      split
      · exact putTab_canon _ _ he
      · exact he
    · exact ⟨h.vat, h.ram, h.tiles, h.cache, h.pats⟩
    · exact hr

@[simp] theorem dropLine_canon {s : State} (c : CtxId) (who : Nat) (a : Nat) (h : s.Canon) : (State.dropLine s c who a).Canon := by
  unfold State.dropLine
  try dsimp only
  repeat' split
  all_goals first
    | exact h
    | simp +contextual (maxDischargeDepth := 20) [*]

@[simp] theorem korniPut_canon {s : State} (typ : Nat) (c : Nat) (arg : Nat) (payload : List Byte)
    (h : s.Canon) : (State.korniPut s typ c arg payload).Canon := by
  unfold State.korniPut
  try dsimp only
  repeat' split
  all_goals first
    | exact h
    | simp +contextual (maxDischargeDepth := 20) [*]

@[simp] theorem korniEvent_canon {s : State} (typ : Nat) (c : Nat) (arg : Nat) (payload : List Byte)
    (h : s.Canon) : (State.korniEvent s typ c arg payload).Canon := by
  unfold State.korniEvent
  try dsimp only
  repeat' split
  all_goals first
    | exact h
    | simp +contextual (maxDischargeDepth := 20) [*]

@[simp] theorem korniEventRec_canon {s : State} (code : Nat) (v : Nat) (h : s.Canon) : (State.korniEventRec s code v).Canon := by
  unfold State.korniEventRec
  try dsimp only
  repeat' split
  all_goals first
    | exact h
    | simp +contextual (maxDischargeDepth := 20) [*]

@[simp] theorem mark_canon {s : State} (ns : List Nat) (h : s.Canon) : (State.mark s ns).Canon := ⟨h.vat, h.ram, h.tiles, h.cache, h.pats⟩

@[simp] theorem respond_canon {s : State} (r : EddyResp) (h : s.Canon) : (State.respond s r).Canon := ⟨h.vat, h.ram, h.tiles, h.cache, h.pats⟩

@[simp] theorem respondRead_canon {s : State} (id : BitVec 4) (err : Bool) (addr : Nat) (n : Nat) (bs : List Byte)
    (h : s.Canon) : (State.respondRead s id err addr n bs).Canon := by
  unfold State.respondRead
  try dsimp only
  repeat' split
  all_goals first
    | exact h
    | simp +contextual (maxDischargeDepth := 20) [*]

@[simp] theorem respondWrite_canon {s : State} (id : BitVec 4) (err : Bool) (h : s.Canon) : (State.respondWrite s id err).Canon := respond_canon _ h

@[simp] theorem answer_canon {s : State} (src : Source) (id : BitVec 4) (err : Bool) (h : s.Canon) : (State.answer s src id err).Canon := by
  unfold State.answer
  try dsimp only
  repeat' split
  all_goals first
    | exact h
    | simp +contextual (maxDischargeDepth := 20) [*]

@[simp] theorem dropHit_canon {s : State} (c : CtxId) (n : Seq) (h : s.Canon) : (State.dropHit s c n).Canon := by
  unfold State.dropHit
  try dsimp only
  repeat' split
  all_goals first
    | exact h
    | simp +contextual (maxDischargeDepth := 20) [*]

@[simp] theorem putEntry_canon {s : State} (c : CtxId) (e : Entry) (h : s.Canon) : (State.putEntry s c e).Canon := by
  unfold State.putEntry
  try dsimp only
  repeat' split
  all_goals first
    | exact h
    | simp +contextual (maxDischargeDepth := 20) [*]

@[simp] theorem ungrant_canon {s : State} (c : CtxId) (n : Seq) (h : s.Canon) : (State.ungrant s c n).Canon := by
  unfold State.ungrant
  try dsimp only
  repeat' split
  all_goals first
    | exact h
    | simp +contextual (maxDischargeDepth := 20) [*]

@[simp] theorem dropWhere_canon {s : State} (gone : CtxId → Nat → Bool) (h : s.Canon) : (State.dropWhere s gone).Canon := by
  unfold State.dropWhere
  try dsimp only
  repeat' split
  all_goals first
    | exact h
    | simp +contextual (maxDischargeDepth := 20) [*]

@[simp] theorem dropXlats_canon {s : State} (c : CtxId) (who : Nat) (h : s.Canon) : (State.dropXlats s c who).Canon := by
  unfold State.dropXlats
  try dsimp only
  repeat' split
  all_goals first
    | exact h
    | simp +contextual (maxDischargeDepth := 20) [*]

@[simp] theorem tidy_canon {s : State} (c : CtxId) (h : s.Canon) : (State.tidy s c).Canon := by
  unfold State.tidy
  try dsimp only
  repeat' split
  all_goals first
    | exact h
    | simp +contextual (maxDischargeDepth := 20) [*]

@[simp] theorem faultEntry_canon {s : State} (c : CtxId) (e : Entry) (k : Nat) (f : FaultRec) (h : s.Canon) : (State.faultEntry s c e k f).Canon := by
  unfold State.faultEntry
  try dsimp only
  repeat' split
  all_goals first
    | exact h
    | simp +contextual (maxDischargeDepth := 20) [*]

@[simp] theorem faultFetch_canon {s : State} (c : CtxId) (f : FaultRec) (h : s.Canon) : (State.faultFetch s c f).Canon := by
  unfold State.faultFetch
  try dsimp only
  repeat' split
  all_goals first
    | exact h
    | simp +contextual (maxDischargeDepth := 20) [*]

@[simp] theorem askXlat_canon {s : State} (c : CtxId) (who : Nat) (w : Bool) (page : Nat) (h : s.Canon) : (State.askXlat s c who w page).Canon := by
  unfold State.askXlat
  try dsimp only
  repeat' split
  all_goals first
    | exact h
    | simp +contextual (maxDischargeDepth := 20) [*]

@[simp] theorem askLine_canon {s : State} (c : CtxId) (who : Nat) (line : Nat) (h : s.Canon) : (State.askLine s c who line).Canon := by
  unfold State.askLine
  try dsimp only
  repeat' split
  all_goals first
    | exact h
    | simp +contextual (maxDischargeDepth := 20) [*]

@[simp] theorem reach_canon {s : State} (c : CtxId) (who : Nat) (w : Bool) (rs : List Run) (h : s.Canon) : (State.reach s c who w rs).Canon := by
  unfold State.reach
  try dsimp only
  repeat' split
  all_goals first
    | exact h
    | simp +contextual (maxDischargeDepth := 20) [*]

@[simp] theorem demand_canon {s : State} (c : CtxId) (who : Nat) (rs : List Run) (h : s.Canon) : (State.demand s c who rs).Canon := by
  unfold State.demand
  try dsimp only
  repeat' split
  all_goals first
    | exact h
    | simp +contextual (maxDischargeDepth := 20) [*]

@[simp] theorem judge_canon {s : State} (c : CtxId) (who : Nat) (rs ws : List Run) (h : s.Canon) : (State.judge s c who rs ws).Canon := by
  have h1 := foldl_canon (f := fun s p => s.askXlat c who false p) (fun s p hs => askXlat_canon c who false p hs)
    (pagesOf (decisive (s.lowestFault c (rs ++ ws)) rs)) h
  have h2 := foldl_canon (f := fun s p => s.askXlat c who true p) (fun s p hs => askXlat_canon c who true p hs)
    (pagesOf (decisive (s.lowestFault c (rs ++ ws)) ws)) h1
  unfold State.judge
  dsimp only
  repeat' split
  all_goals exact h2

@[simp] theorem reachRead_canon {s : State} (c : CtxId) (who : Nat) (rs : List Run) (h : s.Canon) : (State.reachRead s c who rs).Canon := by
  have hr := reach_canon c who false rs h
  unfold State.reachRead
  split
  · rename_i s1 heq
    rw [heq, Reach.canon_ok] at hr
    dsimp only
    split
    · exact dropXlats_canon c who hr
    · have hf := foldl_canon (f := fun s l => s.askLine c who l.2) (fun s b hs => askLine_canon c who b.2 hs) (s1.linesOf c who false rs) hr
      split <;> exact hf
  · exact hr

@[simp] theorem putCells_canon {s : State} (cells : List (Nat × Byte)) (h : s.Canon) : (State.putCells s cells).Canon := by
  unfold State.putCells
  try dsimp only
  repeat' split
  all_goals first
    | exact h
    | simp +contextual (maxDischargeDepth := 20) [*]

@[simp] theorem storeRun_canon {s : State} (c : CtxId) (who : Nat) (p : Run × List Byte) (h : s.Canon) : (State.storeRun s c who p).Canon := by
  unfold State.storeRun
  try dsimp only
  repeat' split
  all_goals first
    | exact h
    | simp +contextual (maxDischargeDepth := 20) [*]

@[simp] theorem addWrite_canon {s : State} (m : Option Nat) (c : CtxId) (n : Seq) (cells : List (Nat × Byte)) (line : Nat)
    (h : s.Canon) : (State.addWrite s m c n cells line).Canon := by
  unfold State.addWrite
  try dsimp only
  repeat' split
  all_goals first
    | exact h
    | simp +contextual (maxDischargeDepth := 20) [*]

@[simp] theorem sendNext_canon {s : State} (p : Fin 16) (h : s.Canon) : (State.sendNext s p).Canon := by
  unfold State.sendNext
  try dsimp only
  repeat' split
  all_goals first
    | exact h
    | simp +contextual (maxDischargeDepth := 20) [*]

@[simp] theorem sendAll_canon {s : State} (h : s.Canon) : (State.sendAll s).Canon :=
  foldl_canon (fun _ p hs => sendNext_canon p hs) _ h

@[simp] theorem store_canon {s : State} (k : Carrier) (c : CtxId) (n : Seq) (ps : List (Run × List Byte)) (h : s.Canon) :
    (State.store s k c n ps).Canon := by
  unfold State.store
  try dsimp only
  repeat' split
  all_goals first
    | exact h
    | simp +contextual (maxDischargeDepth := 20) [*]

@[simp] theorem beginTile_canon {s : State} (n : Nat) (word : Quad) (h : s.Canon) : (State.beginTile s n word).Canon := by
  unfold State.beginTile
  try dsimp only
  repeat' split
  all_goals first
    | exact h
    | simp +contextual (maxDischargeDepth := 20) [*]

@[simp] theorem endTile_canon {s : State} (n : Nat) (word : Quad) (h : s.Canon) : (State.endTile s n word).Canon := by
  unfold State.endTile
  try dsimp only
  repeat' split
  all_goals first
    | exact h
    | simp +contextual (maxDischargeDepth := 20) [*]

@[simp] theorem lastUse_canon {s : State} (n : Nat) (h : s.Canon) : (State.lastUse s n).Canon := by
  unfold State.lastUse
  try dsimp only
  repeat' split
  all_goals first
    | exact h
    | simp +contextual (maxDischargeDepth := 20) [*]

@[simp] theorem commitTile_canon {s : State} (n : Nat) (word : Quad) (bs : List Byte) (h : s.Canon) : (State.commitTile s n word bs).Canon := by
  unfold State.commitTile
  try dsimp only
  repeat' split
  all_goals first
    | exact h
    | simp +contextual (maxDischargeDepth := 20) [*]

@[simp] theorem lastUses_canon {s : State} (dests : List Nat) (l : List (Nat × Bool)) (h : s.Canon) : (State.lastUses s dests l).Canon := by
  induction l generalizing s with
  | nil => exact h
  | cons p r ih =>
    unfold State.lastUses
    split
    · exact ih (lastUse_canon _ h)
    · exact ih h

@[simp] theorem forget_canon {s : State} (c : CtxId) (e : Entry) (h : s.Canon) : (State.forget s c e).Canon := by
  unfold State.forget
  try dsimp only
  repeat' split
  all_goals first
    | exact h
    | simp +contextual (maxDischargeDepth := 20) [*]

@[simp] theorem runUnits_canon {P : Parts} (hP : P.Canon) (c : CtxId) (l : List Nat) {s : State} (e : Entry) (h : s.Canon) :
    (runUnits P c l s e).Canon := by
  induction l generalizing s e with
  | nil => exact h
  | cons k r ih =>
    unfold runUnits
    have hu := hP.unit c s e k h
    split
    · exact ih e h
    · split
      · rename_i heq
        rw [heq] at hu
        exact ih _ (forget_canon c _ hu)
      · rename_i heq
        rw [heq] at hu
        exact hu
      · rename_i heq
        rw [heq] at hu
        exact hu

@[simp] theorem trail_canon {s : State} (c : CtxId) (n : Seq) (opcode : Nat) (parts : List (List Byte))
    (h : s.Canon) : (State.trail s c n opcode parts).Canon := by
  unfold State.trail
  try dsimp only
  repeat' split
  all_goals first
    | exact h
    | simp +contextual (maxDischargeDepth := 20) [*]

@[simp] theorem complete_canon {s : State} (c : CtxId) (e : Entry) (h : s.Canon) : (State.complete s c e).Canon := by
  unfold State.complete
  try dsimp only
  repeat' split
  all_goals first
    | exact h
    | simp +contextual (maxDischargeDepth := 20) [*]

@[simp] theorem finishEntry_canon {P : Parts} (hP : P.Canon) (c : CtxId) {s : State} (e : Entry) (h : s.Canon) :
    (State.finishEntry P c s e).Canon := by
  unfold State.finishEntry
  split
  · exact complete_canon c e (trail_canon c _ _ _ (hP.finish c s e h))
  · exact putEntry_canon c e h

@[simp] theorem startEntry_canon {P : Parts} (hP : P.Canon) (c : CtxId) {s : State} (e : Entry) (d : Detect) (h : s.Canon) :
    (State.startEntry P c s e d).Canon := by
  unfold State.startEntry
  dsimp only
  split
  · split
    · exact h
    · exact h
  · generalize (s.compareAll (fmtRegs (s.unnamedFmts e.insn))).readUnnamed e = f
    have hu := putEntry_canon c { f with hit := d } (compareAll_canon (fmtRegs (s.unnamedFmts e.insn)) h)
    have hs := hP.start c _ f hu
    split
    · exact hu
    · split
      · rename_i heq
        rw [heq] at hs
        exact forget_canon c _ hs
      · rename_i heq
        rw [heq] at hs
        exact dropHit_canon c _ hs
      · rename_i heq
        rw [heq] at hs
        exact hs

@[simp] theorem freeReam_canon {s : State} (ts : List Nat) (h : s.Canon) : (State.freeReam s ts).Canon := by
  unfold State.freeReam
  try dsimp only
  repeat' split
  all_goals first
    | exact h
    | simp +contextual (maxDischargeDepth := 20) [*]

@[simp] theorem leaveReam_canon {s : State} (e : Entry) (f : Option FaultRec) (h : s.Canon) : (State.leaveReam s e f).Canon := by
  unfold State.leaveReam
  try dsimp only
  repeat' split
  all_goals first
    | exact h
    | simp +contextual (maxDischargeDepth := 20) [*]

@[simp] theorem faultUnit_canon {s : State} (c : CtxId) (e : Entry) (k : Nat) (f : FaultRec) (h : s.Canon) : (State.faultUnit s c e k f).Canon := by
  unfold State.faultUnit
  try dsimp only
  repeat' split
  all_goals first
    | exact h
    | simp +contextual (maxDischargeDepth := 20) [*]

@[simp] theorem runFrom_canon {P : Parts} (hP : P.Canon) (c : CtxId) {s : State} (e : Entry) (h : s.Canon) :
    (State.runFrom P c s e).Canon := by
  have hr := fun l => runUnits_canon hP c l e h
  unfold State.runFrom
  dsimp only
  split
  · rename_i heq
    exact putEntry_canon c _ (heq ▸ hr _ : Ran.Canon (.wait _ _))
  · rename_i heq
    exact faultUnit_canon c _ _ _ (heq ▸ hr _ : Ran.Canon (.fault _ _ _ _))
  · rename_i heq
    have hd : Ran.Canon (.done _ _) := heq ▸ hr _
    split
    · exact faultUnit_canon c _ _ _ hd
    · exact finishEntry_canon hP c _ hd

@[simp] theorem runEntry_canon {P : Parts} (hP : P.Canon) (c : CtxId) {s : State} (e : Entry) (h : s.Canon) :
    (State.runEntry P c s e).Canon := by
  have hs := startEntry_canon hP c e .clean h
  unfold State.runEntry
  split
  · rename_i heq
    rw [heq] at hs
    exact hs
  · rename_i heq
    rw [heq] at hs
    exact faultUnit_canon c _ _ _ hs
  · rename_i heq
    rw [heq] at hs
    exact runFrom_canon hP c _ hs

/-- An instruction that goes on where the units that it needs serve. -/
theorem served_canon {s : State} (e : Entry) (go : State → State) (h : s.Canon) (hg : ∀ t : State, t.Canon → (go t).Canon) :
    (s.served e go).Canon := by
  unfold State.served
  dsimp only
  split
  · exact hg _ (compareAll_canon _ h)
  · exact compareAll_canon _ h

@[simp] theorem runInsn_canon {P : Parts} (hP : P.Canon) (kind : Insn → Bool) (c : CtxId) (n : Seq) {s : State} (h : s.Canon) :
    (State.runInsn P kind c n s).Canon := by
  unfold State.runInsn
  split
  · exact h
  · split
    · exact served_canon _ _ h fun t ht => runEntry_canon hP c _ ht
    · exact h

theorem checked_canon (f : Option FaultRec) {s : State} (r : Unit → Res) (h : s.Canon) (hr : (r ()).Canon) : (checked f s r).Canon := by
  unfold checked
  split
  · exact h
  · exact hr

theorem judging_canon (c : CtxId) {s : State} (e : Entry) (rs ws : List Run) (r : State → Res) (h : s.Canon)
    (hr : ∀ t, t.Canon → (r t).Canon) : (judging c s e rs ws r).Canon := by
  have hs := judge_canon c e.seq.toNat rs ws h
  unfold judging
  split
  · rename_i heq
    rw [heq] at hs
    exact hr _ hs
  · rename_i heq
    rw [heq] at hs
    exact hs
  · rename_i heq
    rw [heq] at hs
    exact hs

@[simp] theorem meetsError_canon {s : State} (b : Bool) (w : Where) (unit : Fin 128) (loc : BitVec 48) (h : s.Canon) :
    (State.meetsError s b w unit loc).Canon := by
  unfold State.meetsError
  split
  · exact startTest_canon _ (ite_canon (logCorrected_canon _ _ _ h) (logUncorrectable_canon _ _ _ h))
  · exact ite_canon (logCorrected_canon _ _ _ h) (logUncorrectable_canon _ _ _ h)

/-- A read that a reported word hits logs it and tests its unit. -/
@[simp] theorem readHit_canon (c : CtxId) {s : State} (e : Entry) (rs : List Run) (h : s.Canon) : (s.readHit c e rs).Canon := by
  have hm := fun b w unit loc => dropHit_canon c e.seq (meetsError_canon b w unit loc h)
  unfold State.readHit
  split
  · exact h
  · split
    · exact hm _ _ _ _
    · exact h
  · split
    · dsimp only
      split
      · exact dropLine_canon _ _ _ (hm _ _ _ _)
      · exact hm _ _ _ _
    · exact h

theorem reading_canon (c : CtxId) {s : State} (e : Entry) (rs : List Run) (r : State → List Byte → Res) (h : s.Canon)
    (hr : ∀ t bs, t.Canon → (r t bs).Canon) : (reading c s e rs r).Canon := by
  have hs := reachRead_canon c e.seq.toNat rs h
  unfold reading
  split
  · rename_i heq
    rw [heq] at hs
    have hh := readHit_canon c e rs hs
    split
    · rename_i hx
      rw [hx] at hh
      exact hr _ _ (demand_canon c _ rs hh)
    · rename_i hx
      rw [hx] at hh
      exact hh
    · rename_i hx
      rw [hx] at hh
      exact hh
  · rename_i heq
    rw [heq] at hs
    exact hs
  · rename_i heq
    rw [heq] at hs
    exact hs

theorem writing_canon (k : Carrier) (c : CtxId) {s : State} (e : Entry) (img : Option Nat) (ps : List (Run × List Byte))
    (r : State → Entry → Res) (h : s.Canon) (hr : ∀ t e, t.Canon → (r t e).Canon) : (writing k c s e img ps r).Canon := by
  have hs := reach_canon c e.seq.toNat true (ps.map Prod.fst) h
  unfold writing
  split
  · rename_i heq
    rw [heq] at hs
    exact hr _ _ (store_canon k c _ ps hs)
  · rename_i heq
    rw [heq] at hs
    exact hs
  · rename_i heq
    rw [heq] at hs
    exact hs

@[simp] theorem closeChunk_canon {s : State} (r : Nat) (h : s.Canon) : (State.closeChunk s r).Canon := by
  unfold State.closeChunk
  try dsimp only
  repeat' split
  all_goals first
    | exact h
    | simp +contextual (maxDischargeDepth := 20) [*]

@[simp] theorem addChunk_canon (fuel : Nat) {s : State} (r : Nat) (bs : List Byte) (h : s.Canon) : (State.addChunk fuel s r bs).Canon := by
  induction fuel generalizing s bs with
  | zero => exact h
  | succ f ih =>
    have h1 : ({ s with korni := { s.korni with chunk := s.korni.chunk.setIfInBounds r (s.korni.chunkOf r ++ bs.take (4096 - (s.korni.chunkOf r).length)) } } : State).Canon :=
      ⟨h.vat, h.ram, h.tiles, h.cache, h.pats⟩
    unfold State.addChunk
    dsimp only
    split
    · exact h1
    · exact ih _ (closeChunk_canon r h1)

@[simp] theorem portTake_canon {s : State} (p : Fin 12) (c : CtxId) (m : Seq) (n : Nat) (last : Bool)
    (h : s.Canon) : (State.portTake s p c m n last).Canon := by
  unfold State.portTake
  try dsimp only
  repeat' split
  all_goals first
    | exact h
    | simp +contextual (maxDischargeDepth := 20) [*]

@[simp] theorem portPut_canon {s : State} (m : Nat) (p : Fin 12) (c : CtxId) (n : Seq) (bs : List Byte) (last : Bool)
    (h : s.Canon) : (State.portPut s m p c n bs last).Canon := by
  unfold State.portPut
  try dsimp only
  repeat' split
  all_goals first
    | exact h
    | simp +contextual (maxDischargeDepth := 20) [*]

end Sys2Proof.Machine
end

