-- ==== Sys2Proof/Laws/CanonInsn.lean ====
section
/-! SUPPORT. Canonical stores: the instructions of a window keep the stores canonical. -/

namespace Sys2Proof.Machine

@[simp] theorem startLoad_canon (own : Entry → Option FaultRec) (dests : List (Nat × Nat)) {s : State} (e : Entry)
    (h : s.Canon) : (startLoad own dests s e).Canon := by
  unfold startLoad
  try dsimp only
  repeat' first
    | exact h
    | assumption
    | with_reducible refine checked_canon _ _ ?_ ?_
    | with_reducible refine reading_canon _ _ _ _ ?_ (fun t bs ht => ?_)
    | with_reducible refine writing_canon _ _ _ _ _ _ ?_ (fun t e ht => ?_)
    | with_reducible refine writingDense_canon _ _ _ _ _ _ ?_ (fun t e ht => ?_)
    | with_reducible refine readList_canon _ _ _ _ ?_ (fun t e ht => ?_)
    | with_reducible refine screenBegin_canon _ _ _ _ _ _ ?_ (fun t e ht => ?_)
    | split
    | simp +contextual (maxDischargeDepth := 20) [*]

@[simp] theorem tldUnit_canon {s : State} (c : CtxId) (e : Entry) (k : Nat) (h : s.Canon) : (tldUnit s c e k).Canon := by
  unfold tldUnit
  dsimp only
  split
  · exact reading_canon c e _ _ h fun t bs ht => putTile_canon _ _ _ ht
  · split
    · exact h
    · have hp := portTake_canon (portOf e.insn.port) c e.seq (slotImgBytes e.shape k).length (decide (k + 1 = e.shape.slots)) h
      split
      · rename_i heq
        rw [heq] at hp
        exact putTile_canon _ _ _ hp
      · exact h
      · exact h

@[simp] theorem tldParts_canon : tldParts.Canon := by
  constructor
  all_goals
    intros
    dsimp only [tldParts]
    first
      | (with_reducible refine checked_canon _ _ ?_ ?_) <;> assumption
      | with_reducible exact screenBegin_canon _ _ _ _ _ _ (by assumption) fun _ _ ht => by exact ht
      | simp +contextual (maxDischargeDepth := 20) [*]

theorem execTld_canon (c : CtxId) (n : Seq) {s : State} (h : s.Canon) : OutCanon (execTld c n s) := by
  unfold execTld
  try dsimp only
  repeat' first
    | exact h
    | assumption
    | with_reducible refine checked_canon _ _ ?_ ?_
    | with_reducible refine reading_canon _ _ _ _ ?_ (fun t bs ht => ?_)
    | with_reducible refine writing_canon _ _ _ _ _ _ ?_ (fun t e ht => ?_)
    | with_reducible refine writingDense_canon _ _ _ _ _ _ ?_ (fun t e ht => ?_)
    | with_reducible refine readList_canon _ _ _ _ ?_ (fun t e ht => ?_)
    | with_reducible refine screenBegin_canon _ _ _ _ _ _ ?_ (fun t e ht => ?_)
    | split
    | simp +contextual (maxDischargeDepth := 20) [*]

@[simp] theorem tldGUnit_canon {s : State} (c : CtxId) (e : Entry) (k : Nat) (h : s.Canon) : (tldGUnit s c e k).Canon := by
  unfold tldGUnit
  try dsimp only
  repeat' first
    | exact h
    | assumption
    | with_reducible refine checked_canon _ _ ?_ ?_
    | with_reducible refine reading_canon _ _ _ _ ?_ (fun t bs ht => ?_)
    | with_reducible refine writing_canon _ _ _ _ _ _ ?_ (fun t e ht => ?_)
    | with_reducible refine writingDense_canon _ _ _ _ _ _ ?_ (fun t e ht => ?_)
    | with_reducible refine readList_canon _ _ _ _ ?_ (fun t e ht => ?_)
    | with_reducible refine screenBegin_canon _ _ _ _ _ _ ?_ (fun t e ht => ?_)
    | split
    | simp +contextual (maxDischargeDepth := 20) [*]

@[simp] theorem putRchk_canon {s : State} (c : CtxId) (e : Entry) (h : s.Canon) : (State.putRchk s c e).Canon := by
  unfold State.putRchk
  try dsimp only
  repeat' first
    | exact h
    | assumption
    | with_reducible refine checked_canon _ _ ?_ ?_
    | with_reducible refine reading_canon _ _ _ _ ?_ (fun t bs ht => ?_)
    | with_reducible refine writing_canon _ _ _ _ _ _ ?_ (fun t e ht => ?_)
    | with_reducible refine writingDense_canon _ _ _ _ _ _ ?_ (fun t e ht => ?_)
    | with_reducible refine readList_canon _ _ _ _ ?_ (fun t e ht => ?_)
    | with_reducible refine screenBegin_canon _ _ _ _ _ _ ?_ (fun t e ht => ?_)
    | split
    | simp +contextual (maxDischargeDepth := 20) [*]

@[simp] theorem tldGParts_canon : tldGParts.Canon := by
  constructor
  all_goals
    intros
    dsimp only [tldGParts]
    first
      | (with_reducible refine checked_canon _ _ ?_ ?_) <;> assumption
      | with_reducible exact screenBegin_canon _ _ _ _ _ _ (by assumption) fun _ _ ht => by exact ht
      | simp +contextual (maxDischargeDepth := 20) [*]

theorem execTldG_canon (c : CtxId) (n : Seq) {s : State} (h : s.Canon) : OutCanon (execTldG c n s) := by
  unfold execTldG
  try dsimp only
  repeat' first
    | exact h
    | assumption
    | with_reducible refine checked_canon _ _ ?_ ?_
    | with_reducible refine reading_canon _ _ _ _ ?_ (fun t bs ht => ?_)
    | with_reducible refine writing_canon _ _ _ _ _ _ ?_ (fun t e ht => ?_)
    | with_reducible refine writingDense_canon _ _ _ _ _ _ ?_ (fun t e ht => ?_)
    | with_reducible refine readList_canon _ _ _ _ ?_ (fun t e ht => ?_)
    | with_reducible refine screenBegin_canon _ _ _ _ _ _ ?_ (fun t e ht => ?_)
    | split
    | simp +contextual (maxDischargeDepth := 20) [*]

@[simp] theorem tstUnit_canon {s : State} (c : CtxId) (e : Entry) (k : Nat) (h : s.Canon) : (tstUnit s c e k).Canon := by
  unfold tstUnit
  try dsimp only
  repeat' first
    | exact h
    | assumption
    | with_reducible refine checked_canon _ _ ?_ ?_
    | with_reducible refine reading_canon _ _ _ _ ?_ (fun t bs ht => ?_)
    | with_reducible refine writing_canon _ _ _ _ _ _ ?_ (fun t e ht => ?_)
    | with_reducible refine writingDense_canon _ _ _ _ _ _ ?_ (fun t e ht => ?_)
    | with_reducible refine readList_canon _ _ _ _ ?_ (fun t e ht => ?_)
    | with_reducible refine screenBegin_canon _ _ _ _ _ _ ?_ (fun t e ht => ?_)
    | split
    | simp +contextual (maxDischargeDepth := 20) [*]

@[simp] theorem tstParts_canon : tstParts.Canon := by
  constructor
  all_goals
    intros
    dsimp only [tstParts]
    first
      | (with_reducible refine checked_canon _ _ ?_ ?_) <;> assumption
      | with_reducible exact screenBegin_canon _ _ _ _ _ _ (by assumption) fun _ _ ht => by exact ht
      | simp +contextual (maxDischargeDepth := 20) [*]

theorem execTst_canon (c : CtxId) (n : Seq) {s : State} (h : s.Canon) : OutCanon (execTst c n s) := by
  unfold execTst
  try dsimp only
  repeat' first
    | exact h
    | assumption
    | with_reducible refine checked_canon _ _ ?_ ?_
    | with_reducible refine reading_canon _ _ _ _ ?_ (fun t bs ht => ?_)
    | with_reducible refine writing_canon _ _ _ _ _ _ ?_ (fun t e ht => ?_)
    | with_reducible refine writingDense_canon _ _ _ _ _ _ ?_ (fun t e ht => ?_)
    | with_reducible refine readList_canon _ _ _ _ ?_ (fun t e ht => ?_)
    | with_reducible refine screenBegin_canon _ _ _ _ _ _ ?_ (fun t e ht => ?_)
    | split
    | simp +contextual (maxDischargeDepth := 20) [*]

@[simp] theorem tmovStart_canon {s : State} (e : Entry) (h : s.Canon) : (tmovStart s e).Canon := by
  unfold tmovStart
  try dsimp only
  repeat' first
    | exact h
    | assumption
    | with_reducible refine checked_canon _ _ ?_ ?_
    | with_reducible refine reading_canon _ _ _ _ ?_ (fun t bs ht => ?_)
    | with_reducible refine writing_canon _ _ _ _ _ _ ?_ (fun t e ht => ?_)
    | with_reducible refine writingDense_canon _ _ _ _ _ _ ?_ (fun t e ht => ?_)
    | with_reducible refine readList_canon _ _ _ _ ?_ (fun t e ht => ?_)
    | with_reducible refine screenBegin_canon _ _ _ _ _ _ ?_ (fun t e ht => ?_)
    | split
    | simp +contextual (maxDischargeDepth := 20) [*]

@[simp] theorem tmovUnit_canon {s : State} (e : Entry) (k : Nat) (h : s.Canon) : (tmovUnit s e k).Canon := by
  unfold tmovUnit
  try dsimp only
  repeat' first
    | exact h
    | assumption
    | with_reducible refine checked_canon _ _ ?_ ?_
    | with_reducible refine reading_canon _ _ _ _ ?_ (fun t bs ht => ?_)
    | with_reducible refine writing_canon _ _ _ _ _ _ ?_ (fun t e ht => ?_)
    | with_reducible refine writingDense_canon _ _ _ _ _ _ ?_ (fun t e ht => ?_)
    | with_reducible refine readList_canon _ _ _ _ ?_ (fun t e ht => ?_)
    | with_reducible refine screenBegin_canon _ _ _ _ _ _ ?_ (fun t e ht => ?_)
    | split
    | simp +contextual (maxDischargeDepth := 20) [*]

@[simp] theorem tmovFinish_canon (c : CtxId) {s : State} (e : Entry) (h : s.Canon) : (tmovFinish c s e).Canon := by
  unfold tmovFinish
  try dsimp only
  repeat' first
    | exact h
    | assumption
    | with_reducible refine checked_canon _ _ ?_ ?_
    | with_reducible refine reading_canon _ _ _ _ ?_ (fun t bs ht => ?_)
    | with_reducible refine writing_canon _ _ _ _ _ _ ?_ (fun t e ht => ?_)
    | with_reducible refine writingDense_canon _ _ _ _ _ _ ?_ (fun t e ht => ?_)
    | with_reducible refine readList_canon _ _ _ _ ?_ (fun t e ht => ?_)
    | with_reducible refine screenBegin_canon _ _ _ _ _ _ ?_ (fun t e ht => ?_)
    | split
    | simp +contextual (maxDischargeDepth := 20) [*]

@[simp] theorem tmovParts_canon : tmovParts.Canon := by
  constructor
  all_goals
    intros
    dsimp only [tmovParts]
    first
      | (with_reducible refine checked_canon _ _ ?_ ?_) <;> assumption
      | with_reducible exact screenBegin_canon _ _ _ _ _ _ (by assumption) fun _ _ ht => by exact ht
      | simp +contextual (maxDischargeDepth := 20) [*]

theorem execTmov_canon (c : CtxId) (n : Seq) {s : State} (h : s.Canon) : OutCanon (execTmov c n s) := by
  unfold execTmov
  try dsimp only
  repeat' first
    | exact h
    | assumption
    | with_reducible refine checked_canon _ _ ?_ ?_
    | with_reducible refine reading_canon _ _ _ _ ?_ (fun t bs ht => ?_)
    | with_reducible refine writing_canon _ _ _ _ _ _ ?_ (fun t e ht => ?_)
    | with_reducible refine writingDense_canon _ _ _ _ _ _ ?_ (fun t e ht => ?_)
    | with_reducible refine readList_canon _ _ _ _ ?_ (fun t e ht => ?_)
    | with_reducible refine screenBegin_canon _ _ _ _ _ _ ?_ (fun t e ht => ?_)
    | split
    | simp +contextual (maxDischargeDepth := 20) [*]

@[simp] theorem trelParts_canon : trelParts.Canon := by
  constructor
  all_goals
    intros
    dsimp only [trelParts]
    first
      | (with_reducible refine checked_canon _ _ ?_ ?_) <;> assumption
      | with_reducible exact screenBegin_canon _ _ _ _ _ _ (by assumption) fun _ _ ht => by exact ht
      | simp +contextual (maxDischargeDepth := 20) [*]

theorem execTrel_canon (c : CtxId) (n : Seq) {s : State} (h : s.Canon) : OutCanon (execTrel c n s) := by
  unfold execTrel
  try dsimp only
  repeat' first
    | exact h
    | assumption
    | with_reducible refine checked_canon _ _ ?_ ?_
    | with_reducible refine reading_canon _ _ _ _ ?_ (fun t bs ht => ?_)
    | with_reducible refine writing_canon _ _ _ _ _ _ ?_ (fun t e ht => ?_)
    | with_reducible refine writingDense_canon _ _ _ _ _ _ ?_ (fun t e ht => ?_)
    | with_reducible refine readList_canon _ _ _ _ ?_ (fun t e ht => ?_)
    | with_reducible refine screenBegin_canon _ _ _ _ _ _ ?_ (fun t e ht => ?_)
    | split
    | simp +contextual (maxDischargeDepth := 20) [*]

@[simp] theorem tsaveUnit_canon {s : State} (c : CtxId) (e : Entry) (k : Nat) (h : s.Canon) : (tsaveUnit s c e k).Canon := by
  unfold tsaveUnit
  try dsimp only
  repeat' first
    | exact h
    | assumption
    | with_reducible refine checked_canon _ _ ?_ ?_
    | with_reducible refine reading_canon _ _ _ _ ?_ (fun t bs ht => ?_)
    | with_reducible refine writing_canon _ _ _ _ _ _ ?_ (fun t e ht => ?_)
    | with_reducible refine writingDense_canon _ _ _ _ _ _ ?_ (fun t e ht => ?_)
    | with_reducible refine readList_canon _ _ _ _ ?_ (fun t e ht => ?_)
    | with_reducible refine screenBegin_canon _ _ _ _ _ _ ?_ (fun t e ht => ?_)
    | split
    | simp +contextual (maxDischargeDepth := 20) [*]

@[simp] theorem tsaveStart_canon {s : State} (e : Entry) (h : s.Canon) : (tsaveStart s e).Canon := by
  have hc := compareAll_canon (fmtRegs (s.savedFmts e.insn)) h
  unfold tsaveStart
  dsimp only
  with_reducible refine checked_canon _ _ hc ?_
  exact hc

@[simp] theorem tsaveParts_canon : tsaveParts.Canon := by
  constructor
  all_goals
    intros
    dsimp only [tsaveParts]
    first
      | (with_reducible refine checked_canon _ _ ?_ ?_) <;> assumption
      | with_reducible exact screenBegin_canon _ _ _ _ _ _ (by assumption) fun _ _ ht => by exact ht
      | simp +contextual (maxDischargeDepth := 20) [*]

theorem execTsave_canon (c : CtxId) (n : Seq) {s : State} (h : s.Canon) : OutCanon (execTsave c n s) := by
  unfold execTsave
  try dsimp only
  repeat' first
    | exact h
    | assumption
    | with_reducible refine checked_canon _ _ ?_ ?_
    | with_reducible refine reading_canon _ _ _ _ ?_ (fun t bs ht => ?_)
    | with_reducible refine writing_canon _ _ _ _ _ _ ?_ (fun t e ht => ?_)
    | with_reducible refine writingDense_canon _ _ _ _ _ _ ?_ (fun t e ht => ?_)
    | with_reducible refine readList_canon _ _ _ _ ?_ (fun t e ht => ?_)
    | with_reducible refine screenBegin_canon _ _ _ _ _ _ ?_ (fun t e ht => ?_)
    | split
    | simp +contextual (maxDischargeDepth := 20) [*]

@[simp] theorem restoreState_canon {s : State} (i : Insn) (hs : List SaveEntry) (h : s.Canon) : (State.restoreState s i hs).Canon := by
  unfold State.restoreState
  try dsimp only
  repeat' first
    | exact h
    | assumption
    | with_reducible refine checked_canon _ _ ?_ ?_
    | with_reducible refine reading_canon _ _ _ _ ?_ (fun t bs ht => ?_)
    | with_reducible refine writing_canon _ _ _ _ _ _ ?_ (fun t e ht => ?_)
    | with_reducible refine writingDense_canon _ _ _ _ _ _ ?_ (fun t e ht => ?_)
    | with_reducible refine readList_canon _ _ _ _ ?_ (fun t e ht => ?_)
    | with_reducible refine screenBegin_canon _ _ _ _ _ _ ?_ (fun t e ht => ?_)
    | split
    | simp +contextual (maxDischargeDepth := 20) [*]

@[simp] theorem settleTile_canon (e : Entry) {s : State} (j : Nat) (h : s.Canon) : (State.settleTile e s j).Canon := by
  unfold State.settleTile
  try dsimp only
  repeat' first
    | exact h
    | assumption
    | with_reducible refine checked_canon _ _ ?_ ?_
    | with_reducible refine reading_canon _ _ _ _ ?_ (fun t bs ht => ?_)
    | with_reducible refine writing_canon _ _ _ _ _ _ ?_ (fun t e ht => ?_)
    | with_reducible refine writingDense_canon _ _ _ _ _ _ ?_ (fun t e ht => ?_)
    | with_reducible refine readList_canon _ _ _ _ ?_ (fun t e ht => ?_)
    | with_reducible refine screenBegin_canon _ _ _ _ _ _ ?_ (fun t e ht => ?_)
    | split
    | simp +contextual (maxDischargeDepth := 20) [*]

@[simp] theorem trestoreChecked_canon {s : State} (e : Entry) (h : s.Canon) : (trestoreChecked s e).Canon := by
  have hc := compareAll_canon (fmtRegs e.restoredFmts) h
  unfold trestoreChecked
  dsimp only
  with_reducible refine checked_canon _ _ hc ?_
  exact foldl_canon (fun _ _ hs => settleTile_canon _ _ hs) _ (restoreState_canon _ _ hc)

theorem headerStop_canon {s : State} (c : CtxId) (e : Entry) {ks : List Nat} {k : Nat} {r : Reach}
    (hr : State.headerStop c e s ks = some (k, r)) (h : s.Canon) : r.Canon := by
  induction ks generalizing s with
  | nil => cases hr
  | cons j l ih =>
    have hc := reachRead_canon c e.seq.toNat [areaRun e.insn j] h
    unfold State.headerStop at hr
    split at hr
    · rename_i heq
      rw [heq] at hc
      have hh := readHit_canon c e [areaRun e.insn j] hc
      split at hr
      · rename_i hx
        rw [hx] at hh
        exact ih hr hh
      · obtain ⟨-, rfl⟩ := Prod.mk.inj (Option.some.inj hr)
        exact hh
    · obtain ⟨-, rfl⟩ := Prod.mk.inj (Option.some.inj hr)
      exact hc

theorem trestoreStopped_canon (c : CtxId) {s : State} (e : Entry) {r : Res} (h : s.Canon) (hr : r.Canon) : (trestoreStopped c s e r).Canon := by
  unfold trestoreStopped
  split
  · rename_i hs
    exact headerStop_canon c e hs h
  · rename_i hs
    have hx := headerStop_canon c e hs h
    split <;> exact hx
  · exact hr

@[simp] theorem trestoreStart_canon (c : CtxId) {s : State} (e : Entry) (h : s.Canon) : (trestoreStart c s e).Canon := by
  have hr := reachRead_canon c e.seq.toNat (headerRuns e.insn) h
  unfold trestoreStart
  split
  · rename_i heq
    rw [heq] at hr
    exact hr
  · rename_i heq
    rw [heq] at hr
    have hh := readHit_canon c e (headerRuns e.insn) hr
    split
    · rename_i hx
      rw [hx] at hh
      exact trestoreChecked_canon _ (demand_canon c e.seq.toNat (headerRuns e.insn) hh)
    · rename_i hx
      rw [hx] at hh
      exact trestoreStopped_canon c e h hh
    · rename_i hx
      rw [hx] at hh
      exact trestoreStopped_canon c e h hh
  · rename_i heq
    rw [heq] at hr
    exact trestoreStopped_canon c e h hr

@[simp] theorem trestoreUnit_canon {s : State} (c : CtxId) (e : Entry) (k : Nat) (h : s.Canon) : (trestoreUnit s c e k).Canon := by
  unfold trestoreUnit
  try dsimp only
  repeat' first
    | exact h
    | assumption
    | with_reducible refine checked_canon _ _ ?_ ?_
    | with_reducible refine reading_canon _ _ _ _ ?_ (fun t bs ht => ?_)
    | with_reducible refine writing_canon _ _ _ _ _ _ ?_ (fun t e ht => ?_)
    | with_reducible refine writingDense_canon _ _ _ _ _ _ ?_ (fun t e ht => ?_)
    | with_reducible refine readList_canon _ _ _ _ ?_ (fun t e ht => ?_)
    | with_reducible refine screenBegin_canon _ _ _ _ _ _ ?_ (fun t e ht => ?_)
    | split
    | simp +contextual (maxDischargeDepth := 20) [*]

@[simp] theorem trestoreParts_canon : trestoreParts.Canon := by
  constructor
  all_goals
    intros
    dsimp only [trestoreParts]
    first
      | (with_reducible refine checked_canon _ _ ?_ ?_) <;> assumption
      | with_reducible exact screenBegin_canon _ _ _ _ _ _ (by assumption) fun _ _ ht => by exact ht
      | simp +contextual (maxDischargeDepth := 20) [*]

theorem execTrestore_canon (c : CtxId) (n : Seq) {s : State} (h : s.Canon) : OutCanon (execTrestore c n s) := by
  unfold execTrestore
  try dsimp only
  repeat' first
    | exact h
    | assumption
    | with_reducible refine checked_canon _ _ ?_ ?_
    | with_reducible refine reading_canon _ _ _ _ ?_ (fun t bs ht => ?_)
    | with_reducible refine writing_canon _ _ _ _ _ _ ?_ (fun t e ht => ?_)
    | with_reducible refine writingDense_canon _ _ _ _ _ _ ?_ (fun t e ht => ?_)
    | with_reducible refine readList_canon _ _ _ _ ?_ (fun t e ht => ?_)
    | with_reducible refine screenBegin_canon _ _ _ _ _ _ ?_ (fun t e ht => ?_)
    | split
    | simp +contextual (maxDischargeDepth := 20) [*]

theorem writingDense_canon (k : Carrier) (c : CtxId) {s : State} (e : Entry) (img : Option Nat) (pieces : List (Int × Nat × Nat × List Nat))
    (r : State → Entry → Res) (h : s.Canon) (hr : ∀ t e, t.Canon → (r t e).Canon) : (writingDense k c s e img pieces r).Canon := by
  unfold writingDense
  dsimp only
  exact judging_canon _ _ _ _ _ h fun t ht => reading_canon _ _ _ _ ht fun t bs ht => writing_canon _ _ _ _ _ _ ht hr

@[simp] theorem loadLanes_canon {s : State} (segs : List Nat) (h : s.Canon) : (State.loadLanes s segs).Canon :=
  ⟨h.vat, h.ram, h.tiles, h.cache, h.pats⟩

@[simp] theorem useLanes_canon {s : State} (segs : List Nat) (n : Nat) (h : s.Canon) : (State.useLanes s segs n).Canon := by
  unfold State.useLanes
  try dsimp only
  repeat' first
    | exact h
    | assumption
    | with_reducible refine checked_canon _ _ ?_ ?_
    | with_reducible refine reading_canon _ _ _ _ ?_ (fun t bs ht => ?_)
    | with_reducible refine writing_canon _ _ _ _ _ _ ?_ (fun t e ht => ?_)
    | with_reducible refine writingDense_canon _ _ _ _ _ _ ?_ (fun t e ht => ?_)
    | with_reducible refine readList_canon _ _ _ _ ?_ (fun t e ht => ?_)
    | with_reducible refine screenBegin_canon _ _ _ _ _ _ ?_ (fun t e ht => ?_)
    | split
    | simp +contextual (maxDischargeDepth := 20) [*]

@[simp] theorem commitReam_canon {s : State} (word : Quad) (own : Shape) (p : Permuted) (ts : List Nat)
    (h : s.Canon) : (State.commitReam s word own p ts).Canon := by
  unfold State.commitReam
  try dsimp only
  repeat' first
    | exact h
    | assumption
    | with_reducible refine checked_canon _ _ ?_ ?_
    | with_reducible refine reading_canon _ _ _ _ ?_ (fun t bs ht => ?_)
    | with_reducible refine writing_canon _ _ _ _ _ _ ?_ (fun t e ht => ?_)
    | with_reducible refine writingDense_canon _ _ _ _ _ _ ?_ (fun t e ht => ?_)
    | with_reducible refine readList_canon _ _ _ _ ?_ (fun t e ht => ?_)
    | with_reducible refine screenBegin_canon _ _ _ _ _ _ ?_ (fun t e ht => ?_)
    | split
    | simp +contextual (maxDischargeDepth := 20) [*]

@[simp] theorem permUnit_canon (c : CtxId) {s : State} (e : Entry) (os : List Operand) (ts : List Nat)
    (h : s.Canon) : (permUnit c s e os ts).Canon := by
  unfold permUnit
  try dsimp only
  repeat' first
    | exact h
    | assumption
    | with_reducible refine checked_canon _ _ ?_ ?_
    | with_reducible refine reading_canon _ _ _ _ ?_ (fun t bs ht => ?_)
    | with_reducible refine writing_canon _ _ _ _ _ _ ?_ (fun t e ht => ?_)
    | with_reducible refine writingDense_canon _ _ _ _ _ _ ?_ (fun t e ht => ?_)
    | with_reducible refine readList_canon _ _ _ _ ?_ (fun t e ht => ?_)
    | with_reducible refine screenBegin_canon _ _ _ _ _ _ ?_ (fun t e ht => ?_)
    | split
    | simp +contextual (maxDischargeDepth := 20) [*]

@[simp] theorem permParts_canon : permParts.Canon := by
  constructor
  all_goals
    intros
    dsimp only [permParts]
    first
      | (with_reducible refine checked_canon _ _ ?_ ?_) <;> assumption
      | with_reducible exact screenBegin_canon _ _ _ _ _ _ (by assumption) fun _ _ ht => by exact ht
      | simp +contextual (maxDischargeDepth := 20) [*]

theorem execPerm_canon (c : CtxId) (n : Seq) {s : State} (h : s.Canon) : OutCanon (execPerm c n s) := by
  unfold execPerm
  try dsimp only
  repeat' first
    | exact h
    | assumption
    | with_reducible refine checked_canon _ _ ?_ ?_
    | with_reducible refine reading_canon _ _ _ _ ?_ (fun t bs ht => ?_)
    | with_reducible refine writing_canon _ _ _ _ _ _ ?_ (fun t e ht => ?_)
    | with_reducible refine writingDense_canon _ _ _ _ _ _ ?_ (fun t e ht => ?_)
    | with_reducible refine readList_canon _ _ _ _ ?_ (fun t e ht => ?_)
    | with_reducible refine screenBegin_canon _ _ _ _ _ _ ?_ (fun t e ht => ?_)
    | split
    | simp +contextual (maxDischargeDepth := 20) [*]

@[simp] theorem permXParts_canon : permXParts.Canon := by
  constructor
  all_goals
    intros
    dsimp only [permXParts]
    first
      | (with_reducible refine checked_canon _ _ ?_ ?_) <;> assumption
      | with_reducible exact screenBegin_canon _ _ _ _ _ _ (by assumption) fun _ _ ht => by exact ht
      | simp +contextual (maxDischargeDepth := 20) [*]

theorem execPermX_canon (c : CtxId) (n : Seq) {s : State} (h : s.Canon) : OutCanon (execPermX c n s) := by
  unfold execPermX
  try dsimp only
  repeat' first
    | exact h
    | assumption
    | with_reducible refine checked_canon _ _ ?_ ?_
    | with_reducible refine reading_canon _ _ _ _ ?_ (fun t bs ht => ?_)
    | with_reducible refine writing_canon _ _ _ _ _ _ ?_ (fun t e ht => ?_)
    | with_reducible refine writingDense_canon _ _ _ _ _ _ ?_ (fun t e ht => ?_)
    | with_reducible refine readList_canon _ _ _ _ ?_ (fun t e ht => ?_)
    | with_reducible refine screenBegin_canon _ _ _ _ _ _ ?_ (fun t e ht => ?_)
    | split
    | simp +contextual (maxDischargeDepth := 20) [*]

theorem spermAccess_canon (c : CtxId) {s : State} (e : Entry) (list src : List Run) (known : List Piece)
    (reason : List Byte → Option FaultRec) (pieces : List Byte → List Piece) (r : State → Res) (h : s.Canon)
    (hr : ∀ t, t.Canon → (r t).Canon) : (spermAccess c s e list src known reason pieces r).Canon := by
  have hs := reachRead_canon c e.seq.toNat list h
  unfold spermAccess
  dsimp only
  split
  · rename_i heq
    rw [heq] at hs
    exact hs
  · rename_i heq
    rw [heq] at hs
    split
    · exact hs
    · exact judging_canon _ _ _ _ _ hs fun t ht => ht
  · rename_i heq
    rw [heq] at hs
    split
    · exact judging_canon _ _ _ _ _ hs fun t ht => ht
    · exact judging_canon _ _ _ _ _ hs hr

@[simp] theorem spermWhole_canon (c : CtxId) {s : State} (e : Entry) (h : s.Canon) : (spermWhole c s e).Canon := by
  unfold spermWhole
  dsimp only
  exact spermAccess_canon _ _ _ _ _ _ _ _ h fun t ht => reading_canon _ _ _ _ ht fun t bs ht =>
    writingDense_canon _ _ _ _ _ _ ht fun t e ht => fresh_canon ht

@[simp] theorem spermFirst_canon (c : CtxId) {s : State} (e : Entry) (i : Nat) (h : s.Canon) : (spermFirst c s e i).Canon := by
  unfold spermFirst
  dsimp only
  exact spermAccess_canon _ _ _ _ _ _ _ _ h fun t ht => reading_canon _ _ _ _ ht fun t bs ht =>
    writingDense_canon _ _ _ _ _ _ ht fun t e ht => ht

@[simp] theorem spermSecond_canon (c : CtxId) {s : State} (e : Entry) (b : Nat) (h : s.Canon) : (spermSecond c s e b).Canon := by
  unfold spermSecond
  split
  · exact h
  · dsimp only
    exact spermAccess_canon _ _ _ _ _ _ _ _ h fun t ht => reading_canon _ _ _ _ ht fun t bs ht =>
      writingDense_canon _ _ _ _ _ _ ht fun t e ht => fresh_canon ht

@[simp] theorem spermStart_canon {s : State} (e : Entry) (h : s.Canon) : (spermStart s e).Canon := by
  unfold spermStart
  try dsimp only
  repeat' first
    | exact h
    | assumption
    | with_reducible refine checked_canon _ _ ?_ ?_
    | with_reducible refine reading_canon _ _ _ _ ?_ (fun t bs ht => ?_)
    | with_reducible refine writing_canon _ _ _ _ _ _ ?_ (fun t e ht => ?_)
    | with_reducible refine writingDense_canon _ _ _ _ _ _ ?_ (fun t e ht => ?_)
    | with_reducible refine readList_canon _ _ _ _ ?_ (fun t e ht => ?_)
    | with_reducible refine screenBegin_canon _ _ _ _ _ _ ?_ (fun t e ht => ?_)
    | split
    | simp +contextual (maxDischargeDepth := 20) [*]

@[simp] theorem spermUnit_canon (c : CtxId) {s : State} (e : Entry) (k : Nat) (h : s.Canon) : (spermUnit c s e k).Canon := by
  unfold spermUnit
  try dsimp only
  repeat' first
    | exact h
    | assumption
    | with_reducible refine checked_canon _ _ ?_ ?_
    | with_reducible refine reading_canon _ _ _ _ ?_ (fun t bs ht => ?_)
    | with_reducible refine writing_canon _ _ _ _ _ _ ?_ (fun t e ht => ?_)
    | with_reducible refine writingDense_canon _ _ _ _ _ _ ?_ (fun t e ht => ?_)
    | with_reducible refine readList_canon _ _ _ _ ?_ (fun t e ht => ?_)
    | with_reducible refine screenBegin_canon _ _ _ _ _ _ ?_ (fun t e ht => ?_)
    | split
    | simp +contextual (maxDischargeDepth := 20) [*]

@[simp] theorem spermParts_canon : spermParts.Canon := by
  constructor
  all_goals
    intros
    dsimp only [spermParts]
    first
      | (with_reducible refine checked_canon _ _ ?_ ?_) <;> assumption
      | with_reducible exact screenBegin_canon _ _ _ _ _ _ (by assumption) fun _ _ ht => by exact ht
      | simp +contextual (maxDischargeDepth := 20) [*]

theorem execSperm_canon (c : CtxId) (n : Seq) {s : State} (h : s.Canon) : OutCanon (execSperm c n s) := by
  unfold execSperm
  try dsimp only
  repeat' first
    | exact h
    | assumption
    | with_reducible refine checked_canon _ _ ?_ ?_
    | with_reducible refine reading_canon _ _ _ _ ?_ (fun t bs ht => ?_)
    | with_reducible refine writing_canon _ _ _ _ _ _ ?_ (fun t e ht => ?_)
    | with_reducible refine writingDense_canon _ _ _ _ _ _ ?_ (fun t e ht => ?_)
    | with_reducible refine readList_canon _ _ _ _ ?_ (fun t e ht => ?_)
    | with_reducible refine screenBegin_canon _ _ _ _ _ _ ?_ (fun t e ht => ?_)
    | split
    | simp +contextual (maxDischargeDepth := 20) [*]

@[simp] theorem convUnit_canon (c : CtxId) {s : State} (e : Entry) (h : s.Canon) : (convUnit c s e).Canon := by
  unfold convUnit
  try dsimp only
  repeat' first
    | exact h
    | assumption
    | with_reducible refine checked_canon _ _ ?_ ?_
    | with_reducible refine reading_canon _ _ _ _ ?_ (fun t bs ht => ?_)
    | with_reducible refine writing_canon _ _ _ _ _ _ ?_ (fun t e ht => ?_)
    | with_reducible refine writingDense_canon _ _ _ _ _ _ ?_ (fun t e ht => ?_)
    | with_reducible refine readList_canon _ _ _ _ ?_ (fun t e ht => ?_)
    | with_reducible refine screenBegin_canon _ _ _ _ _ _ ?_ (fun t e ht => ?_)
    | split
    | simp +contextual (maxDischargeDepth := 20) [*]

@[simp] theorem convStart_canon (c : CtxId) {s : State} (e : Entry) (h : s.Canon) : (convStart c s e).Canon := by
  unfold convStart
  with_reducible refine checked_canon _ _ h ?_
  split
  rotate_left 0
  · exact h
  · unfold readScale
    with_reducible refine reading_canon _ _ _ _ h ?_
    intro t bs ht
    with_reducible refine checked_canon _ _ ht ?_
    exact ht

@[simp] theorem convParts_canon : convParts.Canon := by
  constructor
  all_goals
    intros
    dsimp only [convParts]
    first
      | (with_reducible refine checked_canon _ _ ?_ ?_) <;> assumption
      | with_reducible exact screenBegin_canon _ _ _ _ _ _ (by assumption) fun _ _ ht => by exact ht
      | simp +contextual (maxDischargeDepth := 20) [*]

theorem execConv_canon (c : CtxId) (n : Seq) {s : State} (h : s.Canon) : OutCanon (execConv c n s) := by
  unfold execConv
  try dsimp only
  repeat' first
    | exact h
    | assumption
    | with_reducible refine checked_canon _ _ ?_ ?_
    | with_reducible refine reading_canon _ _ _ _ ?_ (fun t bs ht => ?_)
    | with_reducible refine writing_canon _ _ _ _ _ _ ?_ (fun t e ht => ?_)
    | with_reducible refine writingDense_canon _ _ _ _ _ _ ?_ (fun t e ht => ?_)
    | with_reducible refine readList_canon _ _ _ _ ?_ (fun t e ht => ?_)
    | with_reducible refine screenBegin_canon _ _ _ _ _ _ ?_ (fun t e ht => ?_)
    | split
    | simp +contextual (maxDischargeDepth := 20) [*]

@[simp] theorem pressUnit_canon {s : State} (e : Entry) (h : s.Canon) : (pressUnit s e).Canon := by
  unfold pressUnit
  try dsimp only
  repeat' first
    | exact h
    | assumption
    | with_reducible refine checked_canon _ _ ?_ ?_
    | with_reducible refine reading_canon _ _ _ _ ?_ (fun t bs ht => ?_)
    | with_reducible refine writing_canon _ _ _ _ _ _ ?_ (fun t e ht => ?_)
    | with_reducible refine writingDense_canon _ _ _ _ _ _ ?_ (fun t e ht => ?_)
    | with_reducible refine readList_canon _ _ _ _ ?_ (fun t e ht => ?_)
    | with_reducible refine screenBegin_canon _ _ _ _ _ _ ?_ (fun t e ht => ?_)
    | split
    | simp +contextual (maxDischargeDepth := 20) [*]

@[simp] theorem pressParts_canon : pressParts.Canon := by
  constructor
  all_goals
    intros
    dsimp only [pressParts]
    first
      | (with_reducible refine checked_canon _ _ ?_ ?_) <;> assumption
      | with_reducible exact screenBegin_canon _ _ _ _ _ _ (by assumption) fun _ _ ht => by exact ht
      | simp +contextual (maxDischargeDepth := 20) [*]

theorem execMat8_canon (c : CtxId) (n : Seq) {s : State} (h : s.Canon) : OutCanon (execMat8 c n s) := by
  unfold execMat8
  try dsimp only
  repeat' first
    | exact h
    | assumption
    | with_reducible refine checked_canon _ _ ?_ ?_
    | with_reducible refine reading_canon _ _ _ _ ?_ (fun t bs ht => ?_)
    | with_reducible refine writing_canon _ _ _ _ _ _ ?_ (fun t e ht => ?_)
    | with_reducible refine writingDense_canon _ _ _ _ _ _ ?_ (fun t e ht => ?_)
    | with_reducible refine readList_canon _ _ _ _ ?_ (fun t e ht => ?_)
    | with_reducible refine screenBegin_canon _ _ _ _ _ _ ?_ (fun t e ht => ?_)
    | split
    | simp +contextual (maxDischargeDepth := 20) [*]

theorem execRot2_canon (c : CtxId) (n : Seq) {s : State} (h : s.Canon) : OutCanon (execRot2 c n s) := by
  unfold execRot2
  try dsimp only
  repeat' first
    | exact h
    | assumption
    | with_reducible refine checked_canon _ _ ?_ ?_
    | with_reducible refine reading_canon _ _ _ _ ?_ (fun t bs ht => ?_)
    | with_reducible refine writing_canon _ _ _ _ _ _ ?_ (fun t e ht => ?_)
    | with_reducible refine writingDense_canon _ _ _ _ _ _ ?_ (fun t e ht => ?_)
    | with_reducible refine readList_canon _ _ _ _ ?_ (fun t e ht => ?_)
    | with_reducible refine screenBegin_canon _ _ _ _ _ _ ?_ (fun t e ht => ?_)
    | split
    | simp +contextual (maxDischargeDepth := 20) [*]

theorem execTrans8_canon (c : CtxId) (n : Seq) {s : State} (h : s.Canon) : OutCanon (execTrans8 c n s) := by
  unfold execTrans8
  try dsimp only
  repeat' first
    | exact h
    | assumption
    | with_reducible refine checked_canon _ _ ?_ ?_
    | with_reducible refine reading_canon _ _ _ _ ?_ (fun t bs ht => ?_)
    | with_reducible refine writing_canon _ _ _ _ _ _ ?_ (fun t e ht => ?_)
    | with_reducible refine writingDense_canon _ _ _ _ _ _ ?_ (fun t e ht => ?_)
    | with_reducible refine readList_canon _ _ _ _ ?_ (fun t e ht => ?_)
    | with_reducible refine screenBegin_canon _ _ _ _ _ _ ?_ (fun t e ht => ?_)
    | split
    | simp +contextual (maxDischargeDepth := 20) [*]

theorem execMatmul_canon (c : CtxId) (n : Seq) {s : State} (h : s.Canon) : OutCanon (execMatmul c n s) := by
  unfold execMatmul
  try dsimp only
  repeat' first
    | exact h
    | assumption
    | with_reducible refine checked_canon _ _ ?_ ?_
    | with_reducible refine reading_canon _ _ _ _ ?_ (fun t bs ht => ?_)
    | with_reducible refine writing_canon _ _ _ _ _ _ ?_ (fun t e ht => ?_)
    | with_reducible refine writingDense_canon _ _ _ _ _ _ ?_ (fun t e ht => ?_)
    | with_reducible refine readList_canon _ _ _ _ ?_ (fun t e ht => ?_)
    | with_reducible refine screenBegin_canon _ _ _ _ _ _ ?_ (fun t e ht => ?_)
    | split
    | simp +contextual (maxDischargeDepth := 20) [*]

@[simp] theorem hrotUnit_canon {s : State} (e : Entry) (h : s.Canon) : (hrotUnit s e).Canon := by
  unfold hrotUnit
  try dsimp only
  repeat' first
    | exact h
    | assumption
    | with_reducible refine checked_canon _ _ ?_ ?_
    | with_reducible refine reading_canon _ _ _ _ ?_ (fun t bs ht => ?_)
    | with_reducible refine writing_canon _ _ _ _ _ _ ?_ (fun t e ht => ?_)
    | with_reducible refine writingDense_canon _ _ _ _ _ _ ?_ (fun t e ht => ?_)
    | with_reducible refine readList_canon _ _ _ _ ?_ (fun t e ht => ?_)
    | with_reducible refine screenBegin_canon _ _ _ _ _ _ ?_ (fun t e ht => ?_)
    | split
    | simp +contextual (maxDischargeDepth := 20) [*]

@[simp] theorem hrotParts_canon : hrotParts.Canon := by
  constructor
  all_goals
    intros
    dsimp only [hrotParts]
    first
      | (with_reducible refine checked_canon _ _ ?_ ?_) <;> assumption
      | with_reducible exact screenBegin_canon _ _ _ _ _ _ (by assumption) fun _ _ ht => by exact ht
      | simp +contextual (maxDischargeDepth := 20) [*]

theorem execHrot_canon (c : CtxId) (n : Seq) {s : State} (h : s.Canon) : OutCanon (execHrot c n s) := by
  unfold execHrot
  try dsimp only
  repeat' first
    | exact h
    | assumption
    | with_reducible refine checked_canon _ _ ?_ ?_
    | with_reducible refine reading_canon _ _ _ _ ?_ (fun t bs ht => ?_)
    | with_reducible refine writing_canon _ _ _ _ _ _ ?_ (fun t e ht => ?_)
    | with_reducible refine writingDense_canon _ _ _ _ _ _ ?_ (fun t e ht => ?_)
    | with_reducible refine readList_canon _ _ _ _ ?_ (fun t e ht => ?_)
    | with_reducible refine screenBegin_canon _ _ _ _ _ _ ?_ (fun t e ht => ?_)
    | split
    | simp +contextual (maxDischargeDepth := 20) [*]

@[simp] theorem vldUnit_canon {s : State} (c : CtxId) (e : Entry) (k : Nat) (h : s.Canon) : (vldUnit s c e k).Canon := by
  unfold vldUnit
  try dsimp only
  repeat' first
    | exact h
    | assumption
    | with_reducible refine checked_canon _ _ ?_ ?_
    | with_reducible refine reading_canon _ _ _ _ ?_ (fun t bs ht => ?_)
    | with_reducible refine writing_canon _ _ _ _ _ _ ?_ (fun t e ht => ?_)
    | with_reducible refine writingDense_canon _ _ _ _ _ _ ?_ (fun t e ht => ?_)
    | with_reducible refine readList_canon _ _ _ _ ?_ (fun t e ht => ?_)
    | with_reducible refine screenBegin_canon _ _ _ _ _ _ ?_ (fun t e ht => ?_)
    | split
    | simp +contextual (maxDischargeDepth := 20) [*]

@[simp] theorem vldParts_canon : vldParts.Canon := by
  constructor
  all_goals
    intros
    dsimp only [vldParts]
    first
      | (with_reducible refine checked_canon _ _ ?_ ?_) <;> assumption
      | with_reducible exact screenBegin_canon _ _ _ _ _ _ (by assumption) fun _ _ ht => by exact ht
      | simp +contextual (maxDischargeDepth := 20) [*]

theorem execVld_canon (c : CtxId) (n : Seq) {s : State} (h : s.Canon) : OutCanon (execVld c n s) := by
  unfold execVld
  try dsimp only
  repeat' first
    | exact h
    | assumption
    | with_reducible refine checked_canon _ _ ?_ ?_
    | with_reducible refine reading_canon _ _ _ _ ?_ (fun t bs ht => ?_)
    | with_reducible refine writing_canon _ _ _ _ _ _ ?_ (fun t e ht => ?_)
    | with_reducible refine writingDense_canon _ _ _ _ _ _ ?_ (fun t e ht => ?_)
    | with_reducible refine readList_canon _ _ _ _ ?_ (fun t e ht => ?_)
    | with_reducible refine screenBegin_canon _ _ _ _ _ _ ?_ (fun t e ht => ?_)
    | split
    | simp +contextual (maxDischargeDepth := 20) [*]

@[simp] theorem vstUnit_canon {s : State} (c : CtxId) (e : Entry) (k : Nat) (h : s.Canon) : (vstUnit s c e k).Canon := by
  unfold vstUnit
  try dsimp only
  repeat' first
    | exact h
    | assumption
    | with_reducible refine checked_canon _ _ ?_ ?_
    | with_reducible refine reading_canon _ _ _ _ ?_ (fun t bs ht => ?_)
    | with_reducible refine writing_canon _ _ _ _ _ _ ?_ (fun t e ht => ?_)
    | with_reducible refine writingDense_canon _ _ _ _ _ _ ?_ (fun t e ht => ?_)
    | with_reducible refine readList_canon _ _ _ _ ?_ (fun t e ht => ?_)
    | with_reducible refine screenBegin_canon _ _ _ _ _ _ ?_ (fun t e ht => ?_)
    | split
    | simp +contextual (maxDischargeDepth := 20) [*]

@[simp] theorem vstParts_canon : vstParts.Canon := by
  constructor
  all_goals
    intros
    dsimp only [vstParts]
    first
      | (with_reducible refine checked_canon _ _ ?_ ?_) <;> assumption
      | with_reducible exact screenBegin_canon _ _ _ _ _ _ (by assumption) fun _ _ ht => by exact ht
      | simp +contextual (maxDischargeDepth := 20) [*]

theorem execVst_canon (c : CtxId) (n : Seq) {s : State} (h : s.Canon) : OutCanon (execVst c n s) := by
  unfold execVst
  try dsimp only
  repeat' first
    | exact h
    | assumption
    | with_reducible refine checked_canon _ _ ?_ ?_
    | with_reducible refine reading_canon _ _ _ _ ?_ (fun t bs ht => ?_)
    | with_reducible refine writing_canon _ _ _ _ _ _ ?_ (fun t e ht => ?_)
    | with_reducible refine writingDense_canon _ _ _ _ _ _ ?_ (fun t e ht => ?_)
    | with_reducible refine readList_canon _ _ _ _ ?_ (fun t e ht => ?_)
    | with_reducible refine screenBegin_canon _ _ _ _ _ _ ?_ (fun t e ht => ?_)
    | split
    | simp +contextual (maxDischargeDepth := 20) [*]

@[simp] theorem vopUnit_canon (c : CtxId) {s : State} (e : Entry) (u : Nat) (h : s.Canon) : (vopUnit c s e u).Canon := by
  unfold vopUnit
  split
  · exact h
  · exact reading_canon _ _ _ _ h fun t bs ht => writingDense_canon _ _ _ _ _ _ ht fun t e ht => useLanes_canon _ _ ht

@[simp] theorem vopStart_canon (c : CtxId) {s : State} (e : Entry) (h : s.Canon) : (vopStart c s e).Canon := by
  unfold vopStart
  with_reducible refine checked_canon _ _ h ?_
  split
  rotate_left 1
  · exact h
  · unfold readScale
    with_reducible refine reading_canon _ _ _ _ h ?_
    intro t bs ht
    with_reducible refine checked_canon _ _ ht ?_
    exact ht

@[simp] theorem vopParts_canon : vopParts.Canon := by
  constructor
  all_goals
    intros
    dsimp only [vopParts]
    first
      | (with_reducible refine checked_canon _ _ ?_ ?_) <;> assumption
      | with_reducible exact screenBegin_canon _ _ _ _ _ _ (by assumption) fun _ _ ht => by exact ht
      | simp +contextual (maxDischargeDepth := 20) [*]

theorem execCopy_canon (c : CtxId) (n : Seq) {s : State} (h : s.Canon) : OutCanon (execCopy c n s) := by
  unfold execCopy
  try dsimp only
  repeat' first
    | exact h
    | assumption
    | with_reducible refine checked_canon _ _ ?_ ?_
    | with_reducible refine reading_canon _ _ _ _ ?_ (fun t bs ht => ?_)
    | with_reducible refine writing_canon _ _ _ _ _ _ ?_ (fun t e ht => ?_)
    | with_reducible refine writingDense_canon _ _ _ _ _ _ ?_ (fun t e ht => ?_)
    | with_reducible refine readList_canon _ _ _ _ ?_ (fun t e ht => ?_)
    | with_reducible refine screenBegin_canon _ _ _ _ _ _ ?_ (fun t e ht => ?_)
    | split
    | simp +contextual (maxDischargeDepth := 20) [*]

theorem execAdd_canon (c : CtxId) (n : Seq) {s : State} (h : s.Canon) : OutCanon (execAdd c n s) := by
  unfold execAdd
  try dsimp only
  repeat' first
    | exact h
    | assumption
    | with_reducible refine checked_canon _ _ ?_ ?_
    | with_reducible refine reading_canon _ _ _ _ ?_ (fun t bs ht => ?_)
    | with_reducible refine writing_canon _ _ _ _ _ _ ?_ (fun t e ht => ?_)
    | with_reducible refine writingDense_canon _ _ _ _ _ _ ?_ (fun t e ht => ?_)
    | with_reducible refine readList_canon _ _ _ _ ?_ (fun t e ht => ?_)
    | with_reducible refine screenBegin_canon _ _ _ _ _ _ ?_ (fun t e ht => ?_)
    | split
    | simp +contextual (maxDischargeDepth := 20) [*]

theorem execSub_canon (c : CtxId) (n : Seq) {s : State} (h : s.Canon) : OutCanon (execSub c n s) := by
  unfold execSub
  try dsimp only
  repeat' first
    | exact h
    | assumption
    | with_reducible refine checked_canon _ _ ?_ ?_
    | with_reducible refine reading_canon _ _ _ _ ?_ (fun t bs ht => ?_)
    | with_reducible refine writing_canon _ _ _ _ _ _ ?_ (fun t e ht => ?_)
    | with_reducible refine writingDense_canon _ _ _ _ _ _ ?_ (fun t e ht => ?_)
    | with_reducible refine readList_canon _ _ _ _ ?_ (fun t e ht => ?_)
    | with_reducible refine screenBegin_canon _ _ _ _ _ _ ?_ (fun t e ht => ?_)
    | split
    | simp +contextual (maxDischargeDepth := 20) [*]

theorem execMul_canon (c : CtxId) (n : Seq) {s : State} (h : s.Canon) : OutCanon (execMul c n s) := by
  unfold execMul
  try dsimp only
  repeat' first
    | exact h
    | assumption
    | with_reducible refine checked_canon _ _ ?_ ?_
    | with_reducible refine reading_canon _ _ _ _ ?_ (fun t bs ht => ?_)
    | with_reducible refine writing_canon _ _ _ _ _ _ ?_ (fun t e ht => ?_)
    | with_reducible refine writingDense_canon _ _ _ _ _ _ ?_ (fun t e ht => ?_)
    | with_reducible refine readList_canon _ _ _ _ ?_ (fun t e ht => ?_)
    | with_reducible refine screenBegin_canon _ _ _ _ _ _ ?_ (fun t e ht => ?_)
    | split
    | simp +contextual (maxDischargeDepth := 20) [*]

theorem execFma_canon (c : CtxId) (n : Seq) {s : State} (h : s.Canon) : OutCanon (execFma c n s) := by
  unfold execFma
  try dsimp only
  repeat' first
    | exact h
    | assumption
    | with_reducible refine checked_canon _ _ ?_ ?_
    | with_reducible refine reading_canon _ _ _ _ ?_ (fun t bs ht => ?_)
    | with_reducible refine writing_canon _ _ _ _ _ _ ?_ (fun t e ht => ?_)
    | with_reducible refine writingDense_canon _ _ _ _ _ _ ?_ (fun t e ht => ?_)
    | with_reducible refine readList_canon _ _ _ _ ?_ (fun t e ht => ?_)
    | with_reducible refine screenBegin_canon _ _ _ _ _ _ ?_ (fun t e ht => ?_)
    | split
    | simp +contextual (maxDischargeDepth := 20) [*]

theorem execMin_canon (c : CtxId) (n : Seq) {s : State} (h : s.Canon) : OutCanon (execMin c n s) := by
  unfold execMin
  try dsimp only
  repeat' first
    | exact h
    | assumption
    | with_reducible refine checked_canon _ _ ?_ ?_
    | with_reducible refine reading_canon _ _ _ _ ?_ (fun t bs ht => ?_)
    | with_reducible refine writing_canon _ _ _ _ _ _ ?_ (fun t e ht => ?_)
    | with_reducible refine writingDense_canon _ _ _ _ _ _ ?_ (fun t e ht => ?_)
    | with_reducible refine readList_canon _ _ _ _ ?_ (fun t e ht => ?_)
    | with_reducible refine screenBegin_canon _ _ _ _ _ _ ?_ (fun t e ht => ?_)
    | split
    | simp +contextual (maxDischargeDepth := 20) [*]

theorem execMax_canon (c : CtxId) (n : Seq) {s : State} (h : s.Canon) : OutCanon (execMax c n s) := by
  unfold execMax
  try dsimp only
  repeat' first
    | exact h
    | assumption
    | with_reducible refine checked_canon _ _ ?_ ?_
    | with_reducible refine reading_canon _ _ _ _ ?_ (fun t bs ht => ?_)
    | with_reducible refine writing_canon _ _ _ _ _ _ ?_ (fun t e ht => ?_)
    | with_reducible refine writingDense_canon _ _ _ _ _ _ ?_ (fun t e ht => ?_)
    | with_reducible refine readList_canon _ _ _ _ ?_ (fun t e ht => ?_)
    | with_reducible refine screenBegin_canon _ _ _ _ _ _ ?_ (fun t e ht => ?_)
    | split
    | simp +contextual (maxDischargeDepth := 20) [*]

theorem execScale_canon (c : CtxId) (n : Seq) {s : State} (h : s.Canon) : OutCanon (execScale c n s) := by
  unfold execScale
  try dsimp only
  repeat' first
    | exact h
    | assumption
    | with_reducible refine checked_canon _ _ ?_ ?_
    | with_reducible refine reading_canon _ _ _ _ ?_ (fun t bs ht => ?_)
    | with_reducible refine writing_canon _ _ _ _ _ _ ?_ (fun t e ht => ?_)
    | with_reducible refine writingDense_canon _ _ _ _ _ _ ?_ (fun t e ht => ?_)
    | with_reducible refine readList_canon _ _ _ _ ?_ (fun t e ht => ?_)
    | with_reducible refine screenBegin_canon _ _ _ _ _ _ ?_ (fun t e ht => ?_)
    | split
    | simp +contextual (maxDischargeDepth := 20) [*]

theorem execCmplt_canon (c : CtxId) (n : Seq) {s : State} (h : s.Canon) : OutCanon (execCmplt c n s) := by
  unfold execCmplt
  try dsimp only
  repeat' first
    | exact h
    | assumption
    | with_reducible refine checked_canon _ _ ?_ ?_
    | with_reducible refine reading_canon _ _ _ _ ?_ (fun t bs ht => ?_)
    | with_reducible refine writing_canon _ _ _ _ _ _ ?_ (fun t e ht => ?_)
    | with_reducible refine writingDense_canon _ _ _ _ _ _ ?_ (fun t e ht => ?_)
    | with_reducible refine readList_canon _ _ _ _ ?_ (fun t e ht => ?_)
    | with_reducible refine screenBegin_canon _ _ _ _ _ _ ?_ (fun t e ht => ?_)
    | split
    | simp +contextual (maxDischargeDepth := 20) [*]

theorem execCmpeq_canon (c : CtxId) (n : Seq) {s : State} (h : s.Canon) : OutCanon (execCmpeq c n s) := by
  unfold execCmpeq
  try dsimp only
  repeat' first
    | exact h
    | assumption
    | with_reducible refine checked_canon _ _ ?_ ?_
    | with_reducible refine reading_canon _ _ _ _ ?_ (fun t bs ht => ?_)
    | with_reducible refine writing_canon _ _ _ _ _ _ ?_ (fun t e ht => ?_)
    | with_reducible refine writingDense_canon _ _ _ _ _ _ ?_ (fun t e ht => ?_)
    | with_reducible refine readList_canon _ _ _ _ ?_ (fun t e ht => ?_)
    | with_reducible refine screenBegin_canon _ _ _ _ _ _ ?_ (fun t e ht => ?_)
    | split
    | simp +contextual (maxDischargeDepth := 20) [*]

theorem execRand_canon (c : CtxId) (n : Seq) {s : State} (h : s.Canon) : OutCanon (execRand c n s) := by
  unfold execRand
  try dsimp only
  repeat' first
    | exact h
    | assumption
    | with_reducible refine checked_canon _ _ ?_ ?_
    | with_reducible refine reading_canon _ _ _ _ ?_ (fun t bs ht => ?_)
    | with_reducible refine writing_canon _ _ _ _ _ _ ?_ (fun t e ht => ?_)
    | with_reducible refine writingDense_canon _ _ _ _ _ _ ?_ (fun t e ht => ?_)
    | with_reducible refine readList_canon _ _ _ _ ?_ (fun t e ht => ?_)
    | with_reducible refine screenBegin_canon _ _ _ _ _ _ ?_ (fun t e ht => ?_)
    | split
    | simp +contextual (maxDischargeDepth := 20) [*]

@[simp] theorem amaxStart_canon (c : CtxId) {s : State} (e : Entry) (h : s.Canon) : (amaxStart c s e).Canon := by
  unfold amaxStart
  with_reducible refine checked_canon _ _ h ?_
  with_reducible refine reading_canon _ _ _ _ h ?_
  intro t bs ht
  have h2 := compareAll_canon (amaxRegs e.insn.amaxFinal bs) ht
  dsimp only
  with_reducible refine checked_canon _ _ h2 ?_
  exact h2

@[simp] theorem amaxUnit_canon (c : CtxId) {s : State} (e : Entry) (h : s.Canon) : (amaxUnit c s e).Canon := by
  unfold amaxUnit
  with_reducible refine reading_canon _ _ _ _ h ?_
  intro t bs ht
  dsimp only
  with_reducible refine writing_canon _ _ _ _ _ _ ht ?_
  intro t e ht
  exact upCtx_canon (useLanes_canon _ _ ht) c (ctx_pats (useLanes_canon _ _ ht) c)

@[simp] theorem amaxParts_canon : amaxParts.Canon := by
  constructor
  all_goals
    intros
    dsimp only [amaxParts]
    first
      | (with_reducible refine checked_canon _ _ ?_ ?_) <;> assumption
      | with_reducible exact screenBegin_canon _ _ _ _ _ _ (by assumption) fun _ _ ht => by exact ht
      | simp +contextual (maxDischargeDepth := 20) [*]

theorem execAmax_canon (c : CtxId) (n : Seq) {s : State} (h : s.Canon) : OutCanon (execAmax c n s) := by
  unfold execAmax
  try dsimp only
  repeat' first
    | exact h
    | assumption
    | with_reducible refine checked_canon _ _ ?_ ?_
    | with_reducible refine reading_canon _ _ _ _ ?_ (fun t bs ht => ?_)
    | with_reducible refine writing_canon _ _ _ _ _ _ ?_ (fun t e ht => ?_)
    | with_reducible refine writingDense_canon _ _ _ _ _ _ ?_ (fun t e ht => ?_)
    | with_reducible refine readList_canon _ _ _ _ ?_ (fun t e ht => ?_)
    | with_reducible refine screenBegin_canon _ _ _ _ _ _ ?_ (fun t e ht => ?_)
    | split
    | simp +contextual (maxDischargeDepth := 20) [*]

@[simp] theorem updStart_canon (c : CtxId) {s0 : State} (e : Entry) (h : s0.Canon) : (updStart c s0 e).Canon := by
  unfold updStart
  try dsimp only
  repeat' first
    | exact h
    | assumption
    | with_reducible refine checked_canon _ _ ?_ ?_
    | with_reducible refine reading_canon _ _ _ _ ?_ (fun t bs ht => ?_)
    | with_reducible refine writing_canon _ _ _ _ _ _ ?_ (fun t e ht => ?_)
    | with_reducible refine writingDense_canon _ _ _ _ _ _ ?_ (fun t e ht => ?_)
    | with_reducible refine readList_canon _ _ _ _ ?_ (fun t e ht => ?_)
    | with_reducible refine screenBegin_canon _ _ _ _ _ _ ?_ (fun t e ht => ?_)
    | split
    | simp +contextual (maxDischargeDepth := 20) [*]

@[simp] theorem unseal_pats (x : Ctx) : x.unseal.pats = x.pats := rfl

@[simp] theorem updUnit_canon (c : CtxId) {s : State} (e : Entry) (u : Nat) (h : s.Canon) : (updUnit c s e u).Canon := by
  unfold updUnit
  try dsimp only
  repeat' first
    | exact h
    | assumption
    | with_reducible refine checked_canon _ _ ?_ ?_
    | with_reducible refine judging_canon _ _ _ _ _ ?_ (fun t ht => ?_)
    | with_reducible refine reading_canon _ _ _ _ ?_ (fun t bs ht => ?_)
    | with_reducible refine writing_canon _ _ _ _ _ _ ?_ (fun t e ht => ?_)
    | with_reducible refine writingDense_canon _ _ _ _ _ _ ?_ (fun t e ht => ?_)
    | with_reducible refine readList_canon _ _ _ _ ?_ (fun t e ht => ?_)
    | with_reducible refine screenBegin_canon _ _ _ _ _ _ ?_ (fun t e ht => ?_)
    | split
    | simp +contextual (maxDischargeDepth := 20) [*]

@[simp] theorem updParts_canon : updParts.Canon := by
  constructor
  all_goals
    intros
    dsimp only [updParts]
    first
      | (with_reducible refine checked_canon _ _ ?_ ?_) <;> assumption
      | with_reducible exact screenBegin_canon _ _ _ _ _ _ (by assumption) fun _ _ ht => by exact ht
      | simp +contextual (maxDischargeDepth := 20) [*]

theorem execUpd_canon (c : CtxId) (n : Seq) {s : State} (h : s.Canon) : OutCanon (execUpd c n s) := by
  unfold execUpd
  try dsimp only
  repeat' first
    | exact h
    | assumption
    | with_reducible refine checked_canon _ _ ?_ ?_
    | with_reducible refine reading_canon _ _ _ _ ?_ (fun t bs ht => ?_)
    | with_reducible refine writing_canon _ _ _ _ _ _ ?_ (fun t e ht => ?_)
    | with_reducible refine writingDense_canon _ _ _ _ _ _ ?_ (fun t e ht => ?_)
    | with_reducible refine readList_canon _ _ _ _ ?_ (fun t e ht => ?_)
    | with_reducible refine screenBegin_canon _ _ _ _ _ _ ?_ (fun t e ht => ?_)
    | split
    | simp +contextual (maxDischargeDepth := 20) [*]

@[simp] theorem commitParts_canon : commitParts.Canon := by
  constructor
  all_goals
    intros
    dsimp only [commitParts]
    first
      | (with_reducible refine checked_canon _ _ ?_ ?_) <;> assumption
      | with_reducible exact screenBegin_canon _ _ _ _ _ _ (by assumption) fun _ _ ht => by exact ht
      | simp +contextual (maxDischargeDepth := 20) [*]

theorem execCommit_canon (c : CtxId) (n : Seq) {s : State} (h : s.Canon) : OutCanon (execCommit c n s) := by
  unfold execCommit
  try dsimp only
  repeat' first
    | exact h
    | assumption
    | with_reducible refine checked_canon _ _ ?_ ?_
    | with_reducible refine reading_canon _ _ _ _ ?_ (fun t bs ht => ?_)
    | with_reducible refine writing_canon _ _ _ _ _ _ ?_ (fun t e ht => ?_)
    | with_reducible refine writingDense_canon _ _ _ _ _ _ ?_ (fun t e ht => ?_)
    | with_reducible refine readList_canon _ _ _ _ ?_ (fun t e ht => ?_)
    | with_reducible refine screenBegin_canon _ _ _ _ _ _ ?_ (fun t e ht => ?_)
    | split
    | simp +contextual (maxDischargeDepth := 20) [*]

theorem readList_canon (c : CtxId) {s : State} (e : Entry) (scat : Bool) (r : State → Entry → Res) (h : s.Canon)
    (hr : ∀ t e, t.Canon → (r t e).Canon) : (readList c s e scat r).Canon := by
  unfold readList
  exact reading_canon _ _ _ _ h fun t bs ht => checked_canon _ _ ht (hr _ _ ht)

@[simp] theorem gathStart_canon (c : CtxId) {s : State} (e : Entry) (h : s.Canon) : (gathStart c s e).Canon := by
  unfold gathStart
  try dsimp only
  repeat' first
    | exact h
    | assumption
    | with_reducible refine checked_canon _ _ ?_ ?_
    | with_reducible refine reading_canon _ _ _ _ ?_ (fun t bs ht => ?_)
    | with_reducible refine writing_canon _ _ _ _ _ _ ?_ (fun t e ht => ?_)
    | with_reducible refine writingDense_canon _ _ _ _ _ _ ?_ (fun t e ht => ?_)
    | with_reducible refine readList_canon _ _ _ _ ?_ (fun t e ht => ?_)
    | with_reducible refine screenBegin_canon _ _ _ _ _ _ ?_ (fun t e ht => ?_)
    | split
    | simp +contextual (maxDischargeDepth := 20) [*]

@[simp] theorem gathUnit_canon {s : State} (c : CtxId) (e : Entry) (k : Nat) (h : s.Canon) : (gathUnit s c e k).Canon := by
  unfold gathUnit
  try dsimp only
  repeat' first
    | exact h
    | assumption
    | with_reducible refine checked_canon _ _ ?_ ?_
    | with_reducible refine reading_canon _ _ _ _ ?_ (fun t bs ht => ?_)
    | with_reducible refine writing_canon _ _ _ _ _ _ ?_ (fun t e ht => ?_)
    | with_reducible refine writingDense_canon _ _ _ _ _ _ ?_ (fun t e ht => ?_)
    | with_reducible refine readList_canon _ _ _ _ ?_ (fun t e ht => ?_)
    | with_reducible refine screenBegin_canon _ _ _ _ _ _ ?_ (fun t e ht => ?_)
    | split
    | simp +contextual (maxDischargeDepth := 20) [*]

@[simp] theorem gathParts_canon : gathParts.Canon := by
  constructor
  all_goals
    intros
    dsimp only [gathParts]
    first
      | (with_reducible refine checked_canon _ _ ?_ ?_) <;> assumption
      | with_reducible exact screenBegin_canon _ _ _ _ _ _ (by assumption) fun _ _ ht => by exact ht
      | simp +contextual (maxDischargeDepth := 20) [*]

theorem execGath_canon (c : CtxId) (n : Seq) {s : State} (h : s.Canon) : OutCanon (execGath c n s) := by
  unfold execGath
  try dsimp only
  repeat' first
    | exact h
    | assumption
    | with_reducible refine checked_canon _ _ ?_ ?_
    | with_reducible refine reading_canon _ _ _ _ ?_ (fun t bs ht => ?_)
    | with_reducible refine writing_canon _ _ _ _ _ _ ?_ (fun t e ht => ?_)
    | with_reducible refine writingDense_canon _ _ _ _ _ _ ?_ (fun t e ht => ?_)
    | with_reducible refine readList_canon _ _ _ _ ?_ (fun t e ht => ?_)
    | with_reducible refine screenBegin_canon _ _ _ _ _ _ ?_ (fun t e ht => ?_)
    | split
    | simp +contextual (maxDischargeDepth := 20) [*]

@[simp] theorem scatStart_canon (c : CtxId) {s : State} (e : Entry) (h : s.Canon) : (scatStart c s e).Canon := by
  unfold scatStart
  try dsimp only
  repeat' first
    | exact h
    | assumption
    | with_reducible refine checked_canon _ _ ?_ ?_
    | with_reducible refine reading_canon _ _ _ _ ?_ (fun t bs ht => ?_)
    | with_reducible refine writing_canon _ _ _ _ _ _ ?_ (fun t e ht => ?_)
    | with_reducible refine writingDense_canon _ _ _ _ _ _ ?_ (fun t e ht => ?_)
    | with_reducible refine readList_canon _ _ _ _ ?_ (fun t e ht => ?_)
    | with_reducible refine screenBegin_canon _ _ _ _ _ _ ?_ (fun t e ht => ?_)
    | split
    | simp +contextual (maxDischargeDepth := 20) [*]

@[simp] theorem scatUnit_canon {s : State} (c : CtxId) (e : Entry) (k : Nat) (h : s.Canon) : (scatUnit s c e k).Canon := by
  unfold scatUnit
  try dsimp only
  repeat' first
    | exact h
    | assumption
    | with_reducible refine checked_canon _ _ ?_ ?_
    | with_reducible refine reading_canon _ _ _ _ ?_ (fun t bs ht => ?_)
    | with_reducible refine writing_canon _ _ _ _ _ _ ?_ (fun t e ht => ?_)
    | with_reducible refine writingDense_canon _ _ _ _ _ _ ?_ (fun t e ht => ?_)
    | with_reducible refine readList_canon _ _ _ _ ?_ (fun t e ht => ?_)
    | with_reducible refine screenBegin_canon _ _ _ _ _ _ ?_ (fun t e ht => ?_)
    | split
    | simp +contextual (maxDischargeDepth := 20) [*]

@[simp] theorem scatParts_canon : scatParts.Canon := by
  constructor
  all_goals
    intros
    dsimp only [scatParts]
    first
      | (with_reducible refine checked_canon _ _ ?_ ?_) <;> assumption
      | with_reducible exact screenBegin_canon _ _ _ _ _ _ (by assumption) fun _ _ ht => by exact ht
      | simp +contextual (maxDischargeDepth := 20) [*]

theorem execScat_canon (c : CtxId) (n : Seq) {s : State} (h : s.Canon) : OutCanon (execScat c n s) := by
  unfold execScat
  try dsimp only
  repeat' first
    | exact h
    | assumption
    | with_reducible refine checked_canon _ _ ?_ ?_
    | with_reducible refine reading_canon _ _ _ _ ?_ (fun t bs ht => ?_)
    | with_reducible refine writing_canon _ _ _ _ _ _ ?_ (fun t e ht => ?_)
    | with_reducible refine writingDense_canon _ _ _ _ _ _ ?_ (fun t e ht => ?_)
    | with_reducible refine readList_canon _ _ _ _ ?_ (fun t e ht => ?_)
    | with_reducible refine screenBegin_canon _ _ _ _ _ _ ?_ (fun t e ht => ?_)
    | split
    | simp +contextual (maxDischargeDepth := 20) [*]

theorem screenBegin_canon (c : CtxId) {s : State} (e : Entry) (descBad : Entry → Option Nat) (images : Entry → List Run) (records : Entry → Nat)
    (r : State → Entry → Res) (h : s.Canon) (hr : ∀ t e, t.Canon → (r t e).Canon) : (screenBegin c s e descBad images records r).Canon := by
  unfold screenBegin
  split
  · exact h
  · refine reading_canon _ _ _ _ h fun t bs ht => ?_
    dsimp only
    split
    · exact ht
    · split
      · exact ht
      · have hq := reach_canon c e.seq.toNat true (if records { e with rcd := some bs } =
          0 then [] else [({ e with rcd := some bs } : Entry).workRun (records { e with rcd := some bs })]) ht
        split
        · rename_i heq
          rw [heq] at hq
          exact hq
        · rename_i heq
          rw [heq] at hq
          exact hq
        · rename_i heq
          rw [heq, Reach.canon_ok] at hq
          split
          · exact hr _ _ hq
          · exact hr _ _ (fresh_canon ⟨putBytes_wf hq.vat _ _, hq.ram, hq.tiles, hq.cache, hq.pats⟩)

@[simp] theorem tallyPlaced_canon {s : State} (n : Nat) (h : s.Canon) : (State.tallyPlaced s n).Canon := by
  unfold State.tallyPlaced
  try dsimp only
  repeat' first
    | exact h
    | assumption
    | with_reducible refine checked_canon _ _ ?_ ?_
    | with_reducible refine reading_canon _ _ _ _ ?_ (fun t bs ht => ?_)
    | with_reducible refine writing_canon _ _ _ _ _ _ ?_ (fun t e ht => ?_)
    | with_reducible refine writingDense_canon _ _ _ _ _ _ ?_ (fun t e ht => ?_)
    | with_reducible refine readList_canon _ _ _ _ ?_ (fun t e ht => ?_)
    | with_reducible refine screenBegin_canon _ _ _ _ _ _ ?_ (fun t e ht => ?_)
    | split
    | simp +contextual (maxDischargeDepth := 20) [*]

@[simp] theorem writeOutputs_canon (c : CtxId) {s : State} (e : Entry) (free : Bool) (ps : List (Run × List Byte)) (image : Nat → Nat)
    (h : s.Canon) : (writeOutputs c s e free ps image).Canon := by
  unfold writeOutputs
  try dsimp only
  repeat' first
    | exact h
    | assumption
    | with_reducible refine checked_canon _ _ ?_ ?_
    | with_reducible refine reading_canon _ _ _ _ ?_ (fun t bs ht => ?_)
    | with_reducible refine writing_canon _ _ _ _ _ _ ?_ (fun t e ht => ?_)
    | with_reducible refine writingDense_canon _ _ _ _ _ _ ?_ (fun t e ht => ?_)
    | with_reducible refine readList_canon _ _ _ _ ?_ (fun t e ht => ?_)
    | with_reducible refine screenBegin_canon _ _ _ _ _ _ ?_ (fun t e ht => ?_)
    | split
    | simp +contextual (maxDischargeDepth := 20) [*]

@[simp] theorem sortStart_canon (c : CtxId) {s : State} (e : Entry) (h : s.Canon) : (sortStart c s e).Canon := by
  unfold sortStart
  try dsimp only
  repeat' first
    | exact h
    | assumption
    | with_reducible refine checked_canon _ _ ?_ ?_
    | with_reducible refine reading_canon _ _ _ _ ?_ (fun t bs ht => ?_)
    | with_reducible refine writing_canon _ _ _ _ _ _ ?_ (fun t e ht => ?_)
    | with_reducible refine writingDense_canon _ _ _ _ _ _ ?_ (fun t e ht => ?_)
    | with_reducible refine readList_canon _ _ _ _ ?_ (fun t e ht => ?_)
    | with_reducible refine screenBegin_canon _ _ _ _ _ _ ?_ (fun t e ht => ?_)
    | split
    | simp +contextual (maxDischargeDepth := 20) [*]

/-- Counting what a pass places keeps the form of what its outputs came to. -/
theorem placing_canon {r : Res} (n : Nat) (h : r.Canon) : (r.placing n).Canon := by
  unfold Res.placing
  split
  · exact tallyPlaced_canon n h
  · exact h
  · exact tallyPlaced_canon n h

@[simp] theorem sortUnit_canon (c : CtxId) {s : State} (e : Entry) (h : s.Canon) : (sortUnit c s e).Canon := by
  unfold sortUnit
  dsimp only
  exact reading_canon _ _ _ _ h fun t bs ht => placing_canon _ (writeOutputs_canon _ _ _ _ _ ht)

@[simp] theorem sortParts_canon : sortParts.Canon := by
  constructor
  all_goals
    intros
    dsimp only [sortParts]
    first
      | (with_reducible refine checked_canon _ _ ?_ ?_) <;> assumption
      | with_reducible exact screenBegin_canon _ _ _ _ _ _ (by assumption) fun _ _ ht => by exact ht
      | simp +contextual (maxDischargeDepth := 20) [*]

theorem execSort_canon (c : CtxId) (n : Seq) {s : State} (h : s.Canon) : OutCanon (execSort c n s) := by
  unfold execSort
  try dsimp only
  repeat' first
    | exact h
    | assumption
    | with_reducible refine checked_canon _ _ ?_ ?_
    | with_reducible refine reading_canon _ _ _ _ ?_ (fun t bs ht => ?_)
    | with_reducible refine writing_canon _ _ _ _ _ _ ?_ (fun t e ht => ?_)
    | with_reducible refine writingDense_canon _ _ _ _ _ _ ?_ (fun t e ht => ?_)
    | with_reducible refine readList_canon _ _ _ _ ?_ (fun t e ht => ?_)
    | with_reducible refine screenBegin_canon _ _ _ _ _ _ ?_ (fun t e ht => ?_)
    | split
    | simp +contextual (maxDischargeDepth := 20) [*]

@[simp] theorem dispStart_canon (c : CtxId) {s : State} (e : Entry) (h : s.Canon) : (dispStart c s e).Canon := by
  unfold dispStart
  try dsimp only
  repeat' first
    | exact h
    | assumption
    | with_reducible refine checked_canon _ _ ?_ ?_
    | with_reducible refine reading_canon _ _ _ _ ?_ (fun t bs ht => ?_)
    | with_reducible refine writing_canon _ _ _ _ _ _ ?_ (fun t e ht => ?_)
    | with_reducible refine writingDense_canon _ _ _ _ _ _ ?_ (fun t e ht => ?_)
    | with_reducible refine readList_canon _ _ _ _ ?_ (fun t e ht => ?_)
    | with_reducible refine screenBegin_canon _ _ _ _ _ _ ?_ (fun t e ht => ?_)
    | split
    | simp +contextual (maxDischargeDepth := 20) [*]

@[simp] theorem dispUnit_canon (c : CtxId) {s : State} (e : Entry) (h : s.Canon) : (dispUnit c s e).Canon := by
  unfold dispUnit
  exact reading_canon _ _ _ _ h fun t bs ht => placing_canon _ (writeOutputs_canon _ _ _ _ _ ht)

@[simp] theorem dispParts_canon : dispParts.Canon := by
  constructor
  all_goals
    intros
    dsimp only [dispParts]
    first
      | (with_reducible refine checked_canon _ _ ?_ ?_) <;> assumption
      | with_reducible exact screenBegin_canon _ _ _ _ _ _ (by assumption) fun _ _ ht => by exact ht
      | simp +contextual (maxDischargeDepth := 20) [*]

theorem execDisp_canon (c : CtxId) (n : Seq) {s : State} (h : s.Canon) : OutCanon (execDisp c n s) := by
  unfold execDisp
  try dsimp only
  repeat' first
    | exact h
    | assumption
    | with_reducible refine checked_canon _ _ ?_ ?_
    | with_reducible refine reading_canon _ _ _ _ ?_ (fun t bs ht => ?_)
    | with_reducible refine writing_canon _ _ _ _ _ _ ?_ (fun t e ht => ?_)
    | with_reducible refine writingDense_canon _ _ _ _ _ _ ?_ (fun t e ht => ?_)
    | with_reducible refine readList_canon _ _ _ _ ?_ (fun t e ht => ?_)
    | with_reducible refine screenBegin_canon _ _ _ _ _ _ ?_ (fun t e ht => ?_)
    | split
    | simp +contextual (maxDischargeDepth := 20) [*]

@[simp] theorem combStart_canon (c : CtxId) {s : State} (e : Entry) (h : s.Canon) : (combStart c s e).Canon := by
  unfold combStart
  try dsimp only
  repeat' first
    | exact h
    | assumption
    | with_reducible refine checked_canon _ _ ?_ ?_
    | with_reducible refine reading_canon _ _ _ _ ?_ (fun t bs ht => ?_)
    | with_reducible refine writing_canon _ _ _ _ _ _ ?_ (fun t e ht => ?_)
    | with_reducible refine writingDense_canon _ _ _ _ _ _ ?_ (fun t e ht => ?_)
    | with_reducible refine readList_canon _ _ _ _ ?_ (fun t e ht => ?_)
    | with_reducible refine screenBegin_canon _ _ _ _ _ _ ?_ (fun t e ht => ?_)
    | split
    | simp +contextual (maxDischargeDepth := 20) [*]

@[simp] theorem combUnit_canon (c : CtxId) {s : State} (e : Entry) (h : s.Canon) : (combUnit c s e).Canon := by
  unfold combUnit
  dsimp only
  exact reading_canon _ _ _ _ h fun t bs ht => reading_canon _ _ _ _ ht fun t bs ht => writeOutputs_canon _ _ _ _ _ ht

@[simp] theorem combParts_canon : combParts.Canon := by
  constructor
  all_goals
    intros
    dsimp only [combParts]
    first
      | (with_reducible refine checked_canon _ _ ?_ ?_) <;> assumption
      | with_reducible exact screenBegin_canon _ _ _ _ _ _ (by assumption) fun _ _ ht => by exact ht
      | simp +contextual (maxDischargeDepth := 20) [*]

theorem execComb_canon (c : CtxId) (n : Seq) {s : State} (h : s.Canon) : OutCanon (execComb c n s) := by
  unfold execComb
  try dsimp only
  repeat' first
    | exact h
    | assumption
    | with_reducible refine checked_canon _ _ ?_ ?_
    | with_reducible refine reading_canon _ _ _ _ ?_ (fun t bs ht => ?_)
    | with_reducible refine writing_canon _ _ _ _ _ _ ?_ (fun t e ht => ?_)
    | with_reducible refine writingDense_canon _ _ _ _ _ _ ?_ (fun t e ht => ?_)
    | with_reducible refine readList_canon _ _ _ _ ?_ (fun t e ht => ?_)
    | with_reducible refine screenBegin_canon _ _ _ _ _ _ ?_ (fun t e ht => ?_)
    | split
    | simp +contextual (maxDischargeDepth := 20) [*]

@[simp] theorem setpatUnit_canon (c : CtxId) {s : State} (e : Entry) (h : s.Canon) : (setpatUnit c s e).Canon := by
  unfold setpatUnit
  try dsimp only
  repeat' first
    | exact h
    | assumption
    | with_reducible refine checked_canon _ _ ?_ ?_
    | with_reducible refine reading_canon _ _ _ _ ?_ (fun t bs ht => ?_)
    | with_reducible refine writing_canon _ _ _ _ _ _ ?_ (fun t e ht => ?_)
    | with_reducible refine writingDense_canon _ _ _ _ _ _ ?_ (fun t e ht => ?_)
    | with_reducible refine readList_canon _ _ _ _ ?_ (fun t e ht => ?_)
    | with_reducible refine screenBegin_canon _ _ _ _ _ _ ?_ (fun t e ht => ?_)
    | split
    | simp +contextual (maxDischargeDepth := 20) [*]

@[simp] theorem setpatParts_canon : setpatParts.Canon := by
  constructor
  all_goals
    intros
    dsimp only [setpatParts]
    first
      | (with_reducible refine checked_canon _ _ ?_ ?_) <;> assumption
      | with_reducible exact screenBegin_canon _ _ _ _ _ _ (by assumption) fun _ _ ht => by exact ht
      | simp +contextual (maxDischargeDepth := 20) [*]

theorem execSetpat_canon (c : CtxId) (n : Seq) {s : State} (h : s.Canon) : OutCanon (execSetpat c n s) := by
  unfold execSetpat
  try dsimp only
  repeat' first
    | exact h
    | assumption
    | with_reducible refine checked_canon _ _ ?_ ?_
    | with_reducible refine reading_canon _ _ _ _ ?_ (fun t bs ht => ?_)
    | with_reducible refine writing_canon _ _ _ _ _ _ ?_ (fun t e ht => ?_)
    | with_reducible refine writingDense_canon _ _ _ _ _ _ ?_ (fun t e ht => ?_)
    | with_reducible refine readList_canon _ _ _ _ ?_ (fun t e ht => ?_)
    | with_reducible refine screenBegin_canon _ _ _ _ _ _ ?_ (fun t e ht => ?_)
    | split
    | simp +contextual (maxDischargeDepth := 20) [*]

@[simp] theorem setfmtUnit_canon (c : CtxId) {s : State} (e : Entry) (h : s.Canon) : (setfmtUnit c s e).Canon := by
  unfold setfmtUnit
  try dsimp only
  repeat' first
    | exact h
    | assumption
    | with_reducible refine checked_canon _ _ ?_ ?_
    | with_reducible refine reading_canon _ _ _ _ ?_ (fun t bs ht => ?_)
    | with_reducible refine writing_canon _ _ _ _ _ _ ?_ (fun t e ht => ?_)
    | with_reducible refine writingDense_canon _ _ _ _ _ _ ?_ (fun t e ht => ?_)
    | with_reducible refine readList_canon _ _ _ _ ?_ (fun t e ht => ?_)
    | with_reducible refine screenBegin_canon _ _ _ _ _ _ ?_ (fun t e ht => ?_)
    | split
    | simp +contextual (maxDischargeDepth := 20) [*]

@[simp] theorem putFmt_canon {s : State} (entry : Nat) (q : Quad) (h : s.Canon) : (State.putFmt s entry q).Canon := by
  unfold State.putFmt
  try dsimp only
  repeat' first
    | exact h
    | assumption
    | with_reducible refine checked_canon _ _ ?_ ?_
    | with_reducible refine reading_canon _ _ _ _ ?_ (fun t bs ht => ?_)
    | with_reducible refine writing_canon _ _ _ _ _ _ ?_ (fun t e ht => ?_)
    | with_reducible refine writingDense_canon _ _ _ _ _ _ ?_ (fun t e ht => ?_)
    | with_reducible refine readList_canon _ _ _ _ ?_ (fun t e ht => ?_)
    | with_reducible refine screenBegin_canon _ _ _ _ _ _ ?_ (fun t e ht => ?_)
    | split
    | simp +contextual (maxDischargeDepth := 20) [*]

@[simp] theorem setfmtParts_canon : setfmtParts.Canon := by
  constructor
  all_goals
    intros
    dsimp only [setfmtParts]
    first
      | (with_reducible refine checked_canon _ _ ?_ ?_) <;> assumption
      | with_reducible exact screenBegin_canon _ _ _ _ _ _ (by assumption) fun _ _ ht => by exact ht
      | simp +contextual (maxDischargeDepth := 20) [*]

theorem execSetfmt_canon (c : CtxId) (n : Seq) {s : State} (h : s.Canon) : OutCanon (execSetfmt c n s) := by
  unfold execSetfmt
  try dsimp only
  repeat' first
    | exact h
    | assumption
    | with_reducible refine checked_canon _ _ ?_ ?_
    | with_reducible refine reading_canon _ _ _ _ ?_ (fun t bs ht => ?_)
    | with_reducible refine writing_canon _ _ _ _ _ _ ?_ (fun t e ht => ?_)
    | with_reducible refine writingDense_canon _ _ _ _ _ _ ?_ (fun t e ht => ?_)
    | with_reducible refine readList_canon _ _ _ _ ?_ (fun t e ht => ?_)
    | with_reducible refine screenBegin_canon _ _ _ _ _ _ ?_ (fun t e ht => ?_)
    | split
    | simp +contextual (maxDischargeDepth := 20) [*]

@[simp] theorem fenceStart_canon (c : CtxId) {s : State} (e : Entry) (h : s.Canon) : (fenceStart c s e).Canon := by
  unfold fenceStart
  try dsimp only
  repeat' first
    | exact h
    | assumption
    | with_reducible refine checked_canon _ _ ?_ ?_
    | with_reducible refine reading_canon _ _ _ _ ?_ (fun t bs ht => ?_)
    | with_reducible refine writing_canon _ _ _ _ _ _ ?_ (fun t e ht => ?_)
    | with_reducible refine writingDense_canon _ _ _ _ _ _ ?_ (fun t e ht => ?_)
    | with_reducible refine readList_canon _ _ _ _ ?_ (fun t e ht => ?_)
    | with_reducible refine screenBegin_canon _ _ _ _ _ _ ?_ (fun t e ht => ?_)
    | split
    | simp +contextual (maxDischargeDepth := 20) [*]

@[simp] theorem invalidate_canon {s : State} (h : s.Canon) : (State.invalidate s).Canon := by
  unfold State.invalidate
  try dsimp only
  repeat' first
    | exact h
    | assumption
    | with_reducible refine checked_canon _ _ ?_ ?_
    | with_reducible refine reading_canon _ _ _ _ ?_ (fun t bs ht => ?_)
    | with_reducible refine writing_canon _ _ _ _ _ _ ?_ (fun t e ht => ?_)
    | with_reducible refine writingDense_canon _ _ _ _ _ _ ?_ (fun t e ht => ?_)
    | with_reducible refine readList_canon _ _ _ _ ?_ (fun t e ht => ?_)
    | with_reducible refine screenBegin_canon _ _ _ _ _ _ ?_ (fun t e ht => ?_)
    | split
    | simp +contextual (maxDischargeDepth := 20) [*]

@[simp] theorem fenceFinish_canon (c : CtxId) {s : State} (e : Entry) (h : s.Canon) : (fenceFinish c s e).Canon := by
  unfold fenceFinish
  try dsimp only
  repeat' first
    | exact h
    | assumption
    | with_reducible refine checked_canon _ _ ?_ ?_
    | with_reducible refine reading_canon _ _ _ _ ?_ (fun t bs ht => ?_)
    | with_reducible refine writing_canon _ _ _ _ _ _ ?_ (fun t e ht => ?_)
    | with_reducible refine writingDense_canon _ _ _ _ _ _ ?_ (fun t e ht => ?_)
    | with_reducible refine readList_canon _ _ _ _ ?_ (fun t e ht => ?_)
    | with_reducible refine screenBegin_canon _ _ _ _ _ _ ?_ (fun t e ht => ?_)
    | split
    | simp +contextual (maxDischargeDepth := 20) [*]

@[simp] theorem fenceParts_canon : fenceParts.Canon := by
  constructor
  all_goals
    intros
    dsimp only [fenceParts]
    first
      | (with_reducible refine checked_canon _ _ ?_ ?_) <;> assumption
      | with_reducible exact screenBegin_canon _ _ _ _ _ _ (by assumption) fun _ _ ht => by exact ht
      | simp +contextual (maxDischargeDepth := 20) [*]

theorem execFence_canon (c : CtxId) (n : Seq) {s : State} (h : s.Canon) : OutCanon (execFence c n s) := by
  unfold execFence
  try dsimp only
  repeat' first
    | exact h
    | assumption
    | with_reducible refine checked_canon _ _ ?_ ?_
    | with_reducible refine reading_canon _ _ _ _ ?_ (fun t bs ht => ?_)
    | with_reducible refine writing_canon _ _ _ _ _ _ ?_ (fun t e ht => ?_)
    | with_reducible refine writingDense_canon _ _ _ _ _ _ ?_ (fun t e ht => ?_)
    | with_reducible refine readList_canon _ _ _ _ ?_ (fun t e ht => ?_)
    | with_reducible refine screenBegin_canon _ _ _ _ _ _ ?_ (fun t e ht => ?_)
    | split
    | simp +contextual (maxDischargeDepth := 20) [*]

@[simp] theorem foldUnit_canon (c : CtxId) {s : State} (e : Entry) (h : s.Canon) : (foldUnit c s e).Canon := by
  unfold foldUnit
  try dsimp only
  repeat' first
    | exact h
    | assumption
    | with_reducible refine checked_canon _ _ ?_ ?_
    | with_reducible refine reading_canon _ _ _ _ ?_ (fun t bs ht => ?_)
    | with_reducible refine writing_canon _ _ _ _ _ _ ?_ (fun t e ht => ?_)
    | with_reducible refine writingDense_canon _ _ _ _ _ _ ?_ (fun t e ht => ?_)
    | with_reducible refine readList_canon _ _ _ _ ?_ (fun t e ht => ?_)
    | with_reducible refine screenBegin_canon _ _ _ _ _ _ ?_ (fun t e ht => ?_)
    | split
    | simp +contextual (maxDischargeDepth := 20) [*]

theorem foldParts_canon (f : CtxId → State → Entry → State) (hf : ∀ c s e, s.Canon → (f c s e).Canon) : (foldParts f).Canon := by
  constructor
  · intro c s e h
    dsimp only [foldParts]
    with_reducible refine checked_canon _ _ h ?_
    exact h
  · intro c s e k h
    exact foldUnit_canon c e h
  · exact hf

@[simp] theorem foldWeightParts_canon : foldWeightParts.Canon := foldParts_canon _ fun c _ _ h => upCtx_canon h c (ctx_pats h c)

theorem execFoldWeight_canon (c : CtxId) (n : Seq) {s : State} (h : s.Canon) : OutCanon (execFoldWeight c n s) := by
  unfold execFoldWeight
  try dsimp only
  repeat' first
    | exact h
    | assumption
    | with_reducible refine checked_canon _ _ ?_ ?_
    | with_reducible refine reading_canon _ _ _ _ ?_ (fun t bs ht => ?_)
    | with_reducible refine writing_canon _ _ _ _ _ _ ?_ (fun t e ht => ?_)
    | with_reducible refine writingDense_canon _ _ _ _ _ _ ?_ (fun t e ht => ?_)
    | with_reducible refine readList_canon _ _ _ _ ?_ (fun t e ht => ?_)
    | with_reducible refine screenBegin_canon _ _ _ _ _ _ ?_ (fun t e ht => ?_)
    | split
    | simp +contextual (maxDischargeDepth := 20) [*]

@[simp] theorem foldInputParts_canon : foldInputParts.Canon := foldParts_canon _ fun c _ _ h => upCtx_canon h c (ctx_pats h c)

theorem execFoldInput_canon (c : CtxId) (n : Seq) {s : State} (h : s.Canon) : OutCanon (execFoldInput c n s) := by
  unfold execFoldInput
  try dsimp only
  repeat' first
    | exact h
    | assumption
    | with_reducible refine checked_canon _ _ ?_ ?_
    | with_reducible refine reading_canon _ _ _ _ ?_ (fun t bs ht => ?_)
    | with_reducible refine writing_canon _ _ _ _ _ _ ?_ (fun t e ht => ?_)
    | with_reducible refine writingDense_canon _ _ _ _ _ _ ?_ (fun t e ht => ?_)
    | with_reducible refine readList_canon _ _ _ _ ?_ (fun t e ht => ?_)
    | with_reducible refine screenBegin_canon _ _ _ _ _ _ ?_ (fun t e ht => ?_)
    | split
    | simp +contextual (maxDischargeDepth := 20) [*]

@[simp] theorem watermarkUnit_canon (c : CtxId) {s : State} (e : Entry) (h : s.Canon) : (watermarkUnit c s e).Canon := by
  unfold watermarkUnit
  try dsimp only
  repeat' first
    | exact h
    | assumption
    | with_reducible refine checked_canon _ _ ?_ ?_
    | with_reducible refine reading_canon _ _ _ _ ?_ (fun t bs ht => ?_)
    | with_reducible refine writing_canon _ _ _ _ _ _ ?_ (fun t e ht => ?_)
    | with_reducible refine writingDense_canon _ _ _ _ _ _ ?_ (fun t e ht => ?_)
    | with_reducible refine readList_canon _ _ _ _ ?_ (fun t e ht => ?_)
    | with_reducible refine screenBegin_canon _ _ _ _ _ _ ?_ (fun t e ht => ?_)
    | split
    | simp +contextual (maxDischargeDepth := 20) [*]

@[simp] theorem clearFolds_canon {s : State} (c : CtxId) (h : s.Canon) : (State.clearFolds s c).Canon := by
  unfold State.clearFolds
  try dsimp only
  repeat' first
    | exact h
    | assumption
    | with_reducible refine checked_canon _ _ ?_ ?_
    | with_reducible refine reading_canon _ _ _ _ ?_ (fun t bs ht => ?_)
    | with_reducible refine writing_canon _ _ _ _ _ _ ?_ (fun t e ht => ?_)
    | with_reducible refine writingDense_canon _ _ _ _ _ _ ?_ (fun t e ht => ?_)
    | with_reducible refine readList_canon _ _ _ _ ?_ (fun t e ht => ?_)
    | with_reducible refine screenBegin_canon _ _ _ _ _ _ ?_ (fun t e ht => ?_)
    | split
    | simp +contextual (maxDischargeDepth := 20) [*]

@[simp] theorem watermarkParts_canon : watermarkParts.Canon := by
  constructor
  all_goals
    intros
    dsimp only [watermarkParts]
    first
      | (with_reducible refine checked_canon _ _ ?_ ?_) <;> assumption
      | with_reducible exact screenBegin_canon _ _ _ _ _ _ (by assumption) fun _ _ ht => by exact ht
      | simp +contextual (maxDischargeDepth := 20) [*]

theorem execWriteWatermark_canon (c : CtxId) (n : Seq) {s : State} (h : s.Canon) : OutCanon (execWriteWatermark c n s) := by
  unfold execWriteWatermark
  try dsimp only
  repeat' first
    | exact h
    | assumption
    | with_reducible refine checked_canon _ _ ?_ ?_
    | with_reducible refine reading_canon _ _ _ _ ?_ (fun t bs ht => ?_)
    | with_reducible refine writing_canon _ _ _ _ _ _ ?_ (fun t e ht => ?_)
    | with_reducible refine writingDense_canon _ _ _ _ _ _ ?_ (fun t e ht => ?_)
    | with_reducible refine readList_canon _ _ _ _ ?_ (fun t e ht => ?_)
    | with_reducible refine screenBegin_canon _ _ _ _ _ _ ?_ (fun t e ht => ?_)
    | split
    | simp +contextual (maxDischargeDepth := 20) [*]

@[simp] theorem clearParts_canon : clearParts.Canon := by
  constructor
  all_goals
    intros
    dsimp only [clearParts]
    first
      | (with_reducible refine checked_canon _ _ ?_ ?_) <;> assumption
      | with_reducible exact screenBegin_canon _ _ _ _ _ _ (by assumption) fun _ _ ht => by exact ht
      | simp +contextual (maxDischargeDepth := 20) [*]

theorem execClearDigests_canon (c : CtxId) (n : Seq) {s : State} (h : s.Canon) : OutCanon (execClearDigests c n s) := by
  unfold execClearDigests
  try dsimp only
  repeat' first
    | exact h
    | assumption
    | with_reducible refine checked_canon _ _ ?_ ?_
    | with_reducible refine reading_canon _ _ _ _ ?_ (fun t bs ht => ?_)
    | with_reducible refine writing_canon _ _ _ _ _ _ ?_ (fun t e ht => ?_)
    | with_reducible refine writingDense_canon _ _ _ _ _ _ ?_ (fun t e ht => ?_)
    | with_reducible refine readList_canon _ _ _ _ ?_ (fun t e ht => ?_)
    | with_reducible refine screenBegin_canon _ _ _ _ _ _ ?_ (fun t e ht => ?_)
    | split
    | simp +contextual (maxDischargeDepth := 20) [*]

end Sys2Proof.Machine
end

