-- ==== Sys2Proof/Laws/CanonBlock.lean ====
section
/-! SUPPORT. Canonical stores: the events of fronts, windows, ports, power, security, and repair keep the stores canonical. -/

namespace Sys2Proof.Machine

@[simp] theorem setClock_canon {s : State} (t : Nat) (h : s.Canon) : (State.setClock s t).Canon := by
  unfold State.setClock
  try dsimp only
  repeat' split
  all_goals first
    | exact h
    | simp +contextual (maxDischargeDepth := 20) [*]

@[simp] theorem moveTo_canon {s : State} (t : Nat) (h : s.Canon) : (State.moveTo s t).Canon := by
  unfold State.moveTo
  try dsimp only
  repeat' split
  all_goals first
    | exact h
    | simp +contextual (maxDischargeDepth := 20) [*]

@[simp] theorem popEvent_canon {s : State} (k : Nat) (h : s.Canon) : (State.popEvent s k).Canon := by
  unfold State.popEvent
  try dsimp only
  repeat' split
  all_goals first
    | exact h
    | simp +contextual (maxDischargeDepth := 20) [*]

@[simp] theorem present_canon {s : State} (h : s.Canon) : (State.present s).Canon := by
  unfold State.present
  try dsimp only
  repeat' split
  all_goals first
    | exact h
    | simp +contextual (maxDischargeDepth := 20) [*]

@[simp] theorem korniWrite_canon {s : State} (a : Nat) (bs : List Byte) (t : XlatAns) (h : s.Canon) : (State.korniWrite s a bs t).Canon := by
  unfold State.korniWrite
  try dsimp only
  repeat' split
  all_goals first
    | exact h
    | simp +contextual (maxDischargeDepth := 20) [*]

@[simp] theorem korniStep_canon {s : State} (h : s.Canon) : (State.korniStep s).Canon := by
  unfold State.korniStep
  try dsimp only
  repeat' split
  all_goals first
    | exact h
    | simp +contextual (maxDischargeDepth := 20) [*]

@[simp] theorem recordStep_canon {s : State} (h : s.Canon) : (State.recordStep s).Canon := by
  unfold State.recordStep
  try dsimp only
  repeat' split
  all_goals first
    | exact h
    | simp +contextual (maxDischargeDepth := 20) [*]

@[simp] theorem raisePorts_canon {s : State} (h : s.Canon) : (State.raisePorts s).Canon := ⟨h.vat, h.ram, h.tiles, h.cache, h.pats⟩

@[simp] theorem tick_canon {s : State} (h : s.Canon) : (State.tick s).Canon := by
  have h1 := setClock_canon (s.clock + 1) h
  unfold State.tick
  split
  · dsimp only
    split
    · exact raisePorts_canon (sendAll_canon (recordStep_canon (korniStep_canon (present_canon h1))))
    · exact h1
  · exact h

@[simp] theorem logFront_canon {s : State} (k : Nat) (h : s.Canon) : (State.logFront s k).Canon := by
  unfold State.logFront
  try dsimp only
  repeat' split
  all_goals first
    | exact h
    | simp +contextual (maxDischargeDepth := 20) [*]

@[simp] theorem lowerArrive_canon {s : State} (h : s.Canon) : (State.lowerArrive s).Canon := by
  unfold State.lowerArrive
  try dsimp only
  repeat' split
  all_goals first
    | exact h
    | simp +contextual (maxDischargeDepth := 20) [*]

@[simp] theorem frontFault_canon {s : State} (a : FrontAct) (f : FaultRec) (h : s.Canon) : (State.frontFault s a f).Canon := by
  unfold State.frontFault
  try dsimp only
  repeat' split
  all_goals first
    | exact h
    | simp +contextual (maxDischargeDepth := 20) [*]

@[simp] theorem frontComplete_canon {s : State} (a : FrontAct) (word : BitVec 16) (h : s.Canon) : (State.frontComplete s a word).Canon := by
  unfold State.frontComplete
  try dsimp only
  repeat' split
  all_goals first
    | exact h
    | simp +contextual (maxDischargeDepth := 20) [*]

@[simp] theorem frontEnter_canon {s : State} (a : FrontAct) (h : s.Canon) : (State.frontEnter s a).Canon := by
  unfold State.frontEnter
  try dsimp only
  repeat' split
  all_goals first
    | exact h
    | simp +contextual (maxDischargeDepth := 20) [*]

@[simp] theorem frontBegin_canon {s : State} (c : CtxId) (e : Entry) (h : s.Canon) : (State.frontBegin s c e).Canon := by
  unfold State.frontBegin
  try dsimp only
  repeat' split
  all_goals first
    | exact h
    | simp +contextual (maxDischargeDepth := 20) [*]

theorem execFront_canon (c : CtxId) (n : Seq) {s : State} (h : s.Canon) : OutCanon (execFront c n s) := by
  unfold execFront
  try dsimp only
  repeat' split
  all_goals first
    | exact h
    | simp +contextual (maxDischargeDepth := 20) [*]

@[simp] theorem recordEnds_canon {s : State} (c : CtxId) (ok : Bool) (h : s.Canon) : (State.recordEnds s c ok).Canon := by
  unfold State.recordEnds
  try dsimp only
  repeat' split
  all_goals first
    | exact h
    | simp +contextual (maxDischargeDepth := 20) [*]

theorem execFrontArrivedWritten_canon (ok : Bool) {s : State} (h : s.Canon) : OutCanon (execFrontArrivedWritten ok s) := by
  refine whenUp_canon h ?_
  split
  · exact h
  · rename_i a _
    split
    · have h1 := recordStep_canon (askXlat_canon a.ctx recordAccess true (recaPage s.front.reca) h)
      dsimp only
      split
      · exact h1
      · split
        · exact h1
        · split
          · exact frontEnter_canon _ (recordEnds_canon _ _ h1)
          · exact frontFault_canon _ _ (recordEnds_canon _ _ h1)
    · exact h

theorem execFrontDoneWritten_canon (ok : Bool) {s : State} (h : s.Canon) : OutCanon (execFrontDoneWritten ok s) := by
  refine whenUp_canon h ?_
  split
  · exact h
  · rename_i c at_ _ _
    have h1 := recordStep_canon (askXlat_canon c recordAccess true (recaPage at_) h)
    dsimp only
    split
    · exact h1
    · rename_i good _
      have h2 := recordEnds_canon c good h1
      split
      · exact ⟨h2.vat, h2.ram, h2.tiles, h2.cache, h2.pats⟩
      · exact logFront_canon _ ⟨h2.vat, h2.ram, h2.tiles, h2.cache, h2.pats⟩

theorem execFrontGoCount_canon (elapsed : Nat) (vin : BitVec 16) (vpar : Bool) {s : State}
    (h : s.Canon) : OutCanon (execFrontGoCount elapsed vin vpar s) := by
  unfold execFrontGoCount
  try dsimp only
  repeat' split
  all_goals first
    | exact h
    | simp +contextual (maxDischargeDepth := 20) [*]

theorem execFrontExit_canon {s : State} (h : s.Canon) : OutCanon (execFrontExit s) := by
  unfold execFrontExit
  try dsimp only
  repeat' split
  all_goals first
    | exact h
    | simp +contextual (maxDischargeDepth := 20) [*]

theorem execStrayFrontGo_canon {s : State} (h : s.Canon) : OutCanon (execStrayFrontGo s) := by
  unfold execStrayFrontGo
  try dsimp only
  repeat' split
  all_goals first
    | exact h
    | simp +contextual (maxDischargeDepth := 20) [*]

theorem execFrontGoHeld_canon {s : State} (h : s.Canon) : OutCanon (execFrontGoHeld s) := by
  unfold execFrontGoHeld
  try dsimp only
  repeat' split
  all_goals first
    | exact h
    | simp +contextual (maxDischargeDepth := 20) [*]

theorem execFrontWaitTimeout_canon {s : State} (h : s.Canon) : OutCanon (execFrontWaitTimeout s) := by
  unfold execFrontWaitTimeout
  try dsimp only
  repeat' split
  all_goals first
    | exact h
    | simp +contextual (maxDischargeDepth := 20) [*]

@[simp] theorem withdrawFront_canon {s : State} (c : CtxId) (h : s.Canon) : (State.withdrawFront s c).Canon := by
  unfold State.withdrawFront
  try dsimp only
  repeat' split
  all_goals first
    | exact h
    | simp +contextual (maxDischargeDepth := 20) [*]

@[simp] theorem startCal_canon {s : State} (h : s.Canon) : (State.startCal s).Canon := by
  unfold State.startCal
  try dsimp only
  repeat' split
  all_goals first
    | exact h
    | simp +contextual (maxDischargeDepth := 20) [*]

theorem execScoreboardBegin_canon (c : CtxId) (n : Seq) {s : State} (h : s.Canon) : OutCanon (execScoreboardBegin c n s) := by
  unfold execScoreboardBegin
  try dsimp only
  repeat' split
  all_goals first
    | exact h
    | simp +contextual (maxDischargeDepth := 20) [*]

theorem ite_parts {p : Prop} [Decidable p] {A B : Parts} (ha : A.Canon) (hb : B.Canon) : (if p then A else B).Canon := by
  split
  · exact ha
  · exact hb

theorem partsOf_canon {i : Insn} {P : Parts} (h : partsOf i = some P) : P.Canon := by
  unfold partsOf at h
  split at h
  · cases h
  · split at h
    case h_32 =>
      obtain rfl := Option.some.inj h
      exact ite_parts foldWeightParts_canon (ite_parts foldInputParts_canon (ite_parts watermarkParts_canon clearParts_canon))
    all_goals first
      | (obtain rfl := Option.some.inj h; with_reducible first | exact setpatParts_canon | exact setfmtParts_canon | exact fenceParts_canon | exact tldParts_canon | exact tldGParts_canon | exact tstParts_canon | exact tmovParts_canon | exact trelParts_canon | exact tsaveParts_canon | exact trestoreParts_canon | exact permParts_canon | exact permXParts_canon | exact spermParts_canon | exact gathParts_canon | exact scatParts_canon | exact convParts_canon | exact pressParts_canon | exact hrotParts_canon | exact sortParts_canon | exact dispParts_canon | exact combParts_canon | exact vldParts_canon | exact vstParts_canon | exact vopParts_canon | exact amaxParts_canon | exact updParts_canon | exact commitParts_canon)
      | exact absurd h.symm (Option.some_ne_none _)

@[simp] theorem afterUnit_canon {P : Parts} (hP : P.Canon) (c : CtxId) {s : State} (e : Entry) (h : s.Canon) :
    (State.afterUnit P c s e).Canon := by
  unfold State.afterUnit
  repeat' split
  · exact faultUnit_canon c _ _ _ h
  · exact putEntry_canon c _ h
  · exact finishEntry_canon hP c _ h
  · exact putEntry_canon c _ h

@[simp] theorem runUnit_canon {P : Parts} (hP : P.Canon) (c : CtxId) {s : State} (e : Entry) (k : Nat) (h : s.Canon) :
    (State.runUnit P c s e k).Canon := by
  have hu := hP.unit c s e k h
  unfold State.runUnit
  split
  · rename_i heq
    rw [heq] at hu
    exact afterUnit_canon hP c _ (forget_canon c _ hu)
  · rename_i heq
    rw [heq] at hu
    exact putEntry_canon c _ hu
  · rename_i heq
    rw [heq] at hu
    exact afterUnit_canon hP c _ hu

@[simp] theorem spanFails_canon {P : Parts} (hP : P.Canon) (c : CtxId) {s : State} (e : Entry) (span : Nat) (planes : List Nat) (h : s.Canon) :
    (State.spanFails P c s e span planes).Canon := by
  have h1 := foldl_canon (f := fun s p => (s.logErr ⟨0x03, 1, p, 0, 0⟩).startTest (.plane (Fin.ofNat 5 p)))
    (fun s p hs => startTest_canon _ (logErr_canon _ hs)) planes h
  unfold State.spanFails
  dsimp only
  split
  · exact putEntry_canon c _ h
  · split
    · exact afterUnit_canon hP c _ h1
    · exact putEntry_canon c _ h1

@[simp] theorem slotEvent_canon {P : Parts} (hP : P.Canon) (c : CtxId) {s : State} (e : Entry) (k : Nat) (d : Detect) (h : s.Canon) :
    (State.slotEvent P c s e k d).Canon := by
  unfold State.slotEvent
  repeat' split
  · exact runUnit_canon hP c e k h
  · exact h
  · exact startTest_canon _ (runUnit_canon hP c e k (logCorrected_canon _ _ _ h))
  · exact spanFails_canon hP c e _ _ h
  · exact putEntry_canon c e h
  · exact putEntry_canon c e h
  · exact startTest_canon _ (putEntry_canon c e (dropLine_canon _ _ _ (logUncorrectable_canon _ _ _ h)))
  · exact startTest_canon _ (afterUnit_canon hP c _ (logUncorrectable_canon _ _ _ h))

@[simp] theorem slotAt_canon {P : Parts} (hP : P.Canon) (c : CtxId) {s : State} (e : Entry) (k : Nat) (d : Detect) (h : s.Canon) :
    (State.slotAt P c s e k d).Canon := by
  unfold State.slotAt
  split
  · exact slotEvent_canon hP c e k d h
  · exact putEntry_canon c e h

theorem execSlotCommit_canon (c : CtxId) (n : Seq) (slot : Nat) (d : Detect) {s : State} (h : s.Canon) :
    OutCanon (execSlotCommit c n slot d s) := by
  refine whenUp_canon h ?_
  split
  · exact h
  · split
    · exact h
    · rename_i e _ _ P hP
      have hP := partsOf_canon hP
      split
      · refine served_canon _ _ h fun s0 h => ?_
        have hs := startEntry_canon hP c e d h
        split
        · rename_i heq
          rw [heq] at hs
          exact hs
        · rename_i heq
          rw [heq] at hs
          exact faultUnit_canon c _ _ _ hs
        · rename_i heq
          rw [heq] at hs
          split
          · exact slotAt_canon hP c _ _ _ hs
          · exact slotAt_canon hP c _ _ _ (dropHit_canon c n hs)
      · exact h

theorem execSpanCheck_canon (c : CtxId) (n : Seq) (span : Nat) (planes : BitVec 5) (received : List Quad) {s : State} (h : s.Canon) :
    OutCanon (execSpanCheck c n span planes received s) := by
  refine whenUp_canon h ?_
  split
  · exact h
  · split
    · rename_i e _ _ _ P o hP _
      have hP := partsOf_canon hP
      dsimp only
      split
      · refine served_canon _ _ h fun s0 h => ?_
        have hs := startEntry_canon hP c e .clean h
        split
        · rename_i heq
          rw [heq] at hs
          exact hs
        · rename_i heq
          rw [heq] at hs
          exact faultUnit_canon c _ _ _ hs
        · rename_i s1 e1 heq
          rw [heq] at hs
          have hu := hP.unit c s1 e1 span hs
          split
          · split
            · rename_i heq
              rw [heq] at hu
              split
              · split
                · exact afterUnit_canon hP c _ (forget_canon c _ hu)
                · exact spanFails_canon hP c _ _ _ hs
              · exact putEntry_canon c _ hs
            · rename_i heq
              rw [heq] at hu
              exact putEntry_canon c _ hu
            · rename_i heq
              rw [heq] at hu
              exact afterUnit_canon hP c _ hu
          · exact putEntry_canon c _ hs
      · exact h
    · exact h

theorem execScreenGrant_canon {s : State} (h : s.Canon) : OutCanon (execScreenGrant s) := by
  unfold execScreenGrant
  try dsimp only
  repeat' split
  all_goals first
    | exact h
    | simp +contextual (maxDischargeDepth := 20) [*]

theorem execAddressPathGrant_canon {s : State} (h : s.Canon) : OutCanon (execAddressPathGrant s) := by
  unfold execAddressPathGrant
  try dsimp only
  repeat' split
  all_goals first
    | exact h
    | simp +contextual (maxDischargeDepth := 20) [*]

theorem execScreenError_canon (c : CtxId) (n : Seq) {s : State} (h : s.Canon) : OutCanon (execScreenError c n s) := by
  refine whenUp_canon h ?_
  split
  · exact h
  · split
    · exact h
    · rename_i hP
      have hP := partsOf_canon hP
      have h1 := startTest_canon .screen (logErr_canon ⟨0x04, 3, 0, 0, 0⟩ h)
      split
      · dsimp only
        split
        · exact afterUnit_canon hP c _ h1
        · exact putEntry_canon c _ h1
      · exact h

@[simp] theorem testSegment_canon {s : State} (g : Nat) (h : s.Canon) : (State.testSegment s g).Canon :=
  foldl_canon (fun _ _ hs => startTest_canon _ hs) _ h

@[simp] theorem laneFails_canon {P : Parts} (hP : P.Canon) (c : CtxId) {s : State} (e : Entry) (g unit : Nat) (h : s.Canon) :
    (State.laneFails P c s e g unit).Canon := by
  have h1 := loadLanes_canon [g] (testSegment_canon g (logErr_canon ⟨0x04, 2, 16 * g, 0, 0⟩ h))
  unfold State.laneFails
  dsimp only
  split
  · exact afterUnit_canon hP c _ (fresh_canon h1)
  · exact putEntry_canon c _ h1

theorem execLaneParityError_canon (c : CtxId) (n : Seq) (unit : Nat) {s : State} (h : s.Canon) :
    OutCanon (execLaneParityError c n unit s) := by
  refine whenUp_canon h ?_
  split
  · exact h
  · split
    · rename_i e _ _ _ P g hP _
      have hP := partsOf_canon hP
      split
      · refine served_canon _ _ h fun s0 h => ?_
        have hs := startEntry_canon hP c e .clean h
        split
        · rename_i heq
          rw [heq] at hs
          exact hs
        · rename_i heq
          rw [heq] at hs
          exact faultUnit_canon c _ _ _ hs
        · rename_i heq
          rw [heq] at hs
          split
          · exact laneFails_canon hP c _ g unit hs
          · exact putEntry_canon c _ hs
      · exact h
    · exact h

@[simp] theorem endDrain_canon {s : State} (c : CtxId) (h : s.Canon) : (State.endDrain s c).Canon := by
  unfold State.endDrain
  try dsimp only
  repeat' split
  all_goals first
    | exact h
    | simp +contextual (maxDischargeDepth := 20) [*]

theorem execDrainEnd_canon (c : CtxId) {s : State} (h : s.Canon) : OutCanon (execDrainEnd c s) := by
  unfold execDrainEnd
  try dsimp only
  repeat' split
  all_goals first
    | exact h
    | simp +contextual (maxDischargeDepth := 20) [*]

@[simp] theorem ackWrite_canon {s : State} (u : Unacked) (h : s.Canon) : (State.ackWrite s u).Canon :=
  sendAll_canon (canon_mk.mpr (State.canon_iff.mp h))

@[simp] theorem ackRing_canon {s : State} (h : s.Canon) : (State.ackRing s).Canon := by
  unfold State.ackRing
  try dsimp only
  repeat' split
  all_goals first
    | exact h
    | simp +contextual (maxDischargeDepth := 20) [*]

theorem execWriteAck_canon (c : CtxId) (w : Writer) {s : State} (h : s.Canon) : OutCanon (execWriteAck c w s) := by
  refine whenUp_canon h ?_
  split
  · split
    · exact h
    · exact ackWrite_canon _ h
  · exact ackRing_canon h

@[simp] theorem logStray_canon {s : State} (port : Fin 16) (h : s.Canon) : (State.logStray s port).Canon := by
  unfold State.logStray
  try dsimp only
  repeat' split
  all_goals first
    | exact h
    | simp +contextual (maxDischargeDepth := 20) [*]

@[simp] theorem fillLine_canon {s : State} (r : MemRead) (data : List Byte) (h : s.Canon) : (State.fillLine s r data).Canon := by
  unfold State.fillLine
  try dsimp only
  repeat' split
  all_goals first
    | exact h
    | simp +contextual (maxDischargeDepth := 20) [*]

@[simp] theorem markBad_canon {s : State} (r : MemRead) (h : s.Canon) : (State.markBad s r).Canon := by
  unfold State.markBad
  try dsimp only
  repeat' split
  all_goals first
    | exact h
    | simp +contextual (maxDischargeDepth := 20) [*]

theorem execMemoryReadResponse_canon (port : Fin 16) (tag : BitVec 8) (data : List Byte) (stat : BitVec 2) {s : State}
    (h : s.Canon) : OutCanon (execMemoryReadResponse port tag data stat s) := by
  unfold execMemoryReadResponse
  try dsimp only
  repeat' split
  all_goals first
    | exact h
    | simp +contextual (maxDischargeDepth := 20) [*]

theorem execTranslationResponse_canon (port : Fin 16) (ttag : BitVec 6) (pa : BitVec 36) (fault : Bool) (wperm : Bool) {s : State}
    (h : s.Canon) : OutCanon (execTranslationResponse port ttag pa fault wperm s) := by
  unfold execTranslationResponse
  try dsimp only
  repeat' split
  all_goals first
    | exact h
    | simp +contextual (maxDischargeDepth := 20) [*]

@[simp] theorem tallyBeat_canon {s : State} (p : Fin 12) (n : Nat) (h : s.Canon) : (State.tallyBeat s p n).Canon := by
  unfold State.tallyBeat
  try dsimp only
  repeat' split
  all_goals first
    | exact h
    | simp +contextual (maxDischargeDepth := 20) [*]

@[simp] theorem countRetry_canon {s : State} (h : s.Canon) : (State.countRetry s).Canon := by
  unfold State.countRetry
  try dsimp only
  repeat' split
  all_goals first
    | exact h
    | simp +contextual (maxDischargeDepth := 20) [*]

@[simp] theorem failPort_canon {s : State} (p : Fin 12) (h : s.Canon) : (State.failPort s p).Canon := by
  unfold State.failPort
  try dsimp only
  repeat' split
  all_goals first
    | exact h
    | simp +contextual (maxDischargeDepth := 20) [*]

@[simp] theorem logParity_canon {s : State} (p : Fin 12) (h : s.Canon) : (State.logParity s p).Canon := by
  unfold State.logParity
  try dsimp only
  repeat' split
  all_goals first
    | exact h
    | simp +contextual (maxDischargeDepth := 20) [*]

@[simp] theorem beatIn_canon {s : State} (p : Fin 12) (data : List Byte) (par : List Bool) (h : s.Canon) : (State.beatIn s p data par).Canon := by
  unfold State.beatIn
  try dsimp only
  repeat' split
  all_goals first
    | exact h
    | simp +contextual (maxDischargeDepth := 20) [*]

@[simp] theorem beatOut_canon {s : State} (p : Fin 12) (data : List Byte) (par : List Bool) (h : s.Canon) : (State.beatOut s p data par).Canon := by
  unfold State.beatOut
  try dsimp only
  repeat' split
  all_goals first
    | exact h
    | simp +contextual (maxDischargeDepth := 20) [*]

@[simp] theorem portBeat_canon {s : State} (port : Fin 12) (inbound : Bool) (beat : Beat) (par : List Bool)
    (h : s.Canon) : (State.portBeat s port inbound beat par).Canon := by
  unfold State.portBeat
  try dsimp only
  repeat' split
  all_goals first
    | exact h
    | simp +contextual (maxDischargeDepth := 20) [*]

@[simp] theorem eddyBeat_canon {s : State} (data : List Byte) (h : s.Canon) : (State.eddyBeat s data).Canon := by
  unfold State.eddyBeat
  try dsimp only
  repeat' split
  all_goals first
    | exact h
    | simp +contextual (maxDischargeDepth := 20) [*]

theorem execBeatTransfer_canon (ch : Channel) (inbound : Bool) (beat : Beat) (par : List Bool) {s : State}
    (h : s.Canon) : OutCanon (execBeatTransfer ch inbound beat par s) := by
  refine whenUp_canon h ?_
  split
  · exact portBeat_canon _ _ _ _ h
  · split
    · exact h
    · exact eddyBeat_canon _ h

theorem execPortNak_canon (port : Fin 12) {s : State} (h : s.Canon) : OutCanon (execPortNak port s) := by
  unfold execPortNak
  try dsimp only
  repeat' split
  all_goals first
    | exact h
    | simp +contextual (maxDischargeDepth := 20) [*]

theorem execPortStall_canon (port : Fin 12) {s : State} (h : s.Canon) : OutCanon (execPortStall port s) := by
  unfold execPortStall
  try dsimp only
  repeat' split
  all_goals first
    | exact h
    | simp +contextual (maxDischargeDepth := 20) [*]

theorem execEventTransfer_canon {s : State} (h : s.Canon) : OutCanon (execEventTransfer s) := by
  unfold execEventTransfer
  try dsimp only
  repeat' split
  all_goals first
    | exact h
    | simp +contextual (maxDischargeDepth := 20) [*]

@[simp] theorem applyBoot_canon {s : State} (h : s.Canon) : (State.applyBoot s).Canon := by
  refine foldl_canon (fun t r ht => ?_) _ h
  split
  · exact putTab_canon _ _ ht
  · exact ht

@[simp] theorem recordMiss_canon {s : State} (a : BitVec 48) (write : Bool) (seq : Bool) (dom : BitVec 8)
    (h : s.Canon) : (State.recordMiss s a write seq dom).Canon := by
  unfold State.recordMiss
  try dsimp only
  repeat' split
  all_goals first
    | exact h
    | simp +contextual (maxDischargeDepth := 20) [*]

@[simp] theorem giveSteps_canon {s : State} (loop : Nat → Nat) (h : s.Canon) : (State.giveSteps s loop).Canon := by
  unfold State.giveSteps
  exact canon_mk.mpr (State.canon_iff.mp h)

@[simp] theorem holdSteps_canon {s : State} (h : s.Canon) : (State.holdSteps s).Canon := giveSteps_canon _ h

@[simp] theorem loopTo_canon {s : State} (f : Nat → Nat) (h : s.Canon) : (State.loopTo s f).Canon :=
  holdSteps_canon (canon_mk.mpr (State.canon_iff.mp h))

@[simp] theorem restSteps_canon {s : State} (h : s.Canon) : (State.restSteps s).Canon := by
  unfold State.restSteps
  split
  · exact holdSteps_canon h
  · exact loopTo_canon _ h

theorem execIslandClockChange_canon (n : Fin 91) {s : State} (h : s.Canon) : OutCanon (execIslandClockChange n s) := by
  unfold execIslandClockChange
  try dsimp only
  repeat' split
  all_goals first
    | exact h
    | simp +contextual (maxDischargeDepth := 20) [*]

theorem execIslandClockStart_canon (n : Fin 91) {s : State} (h : s.Canon) : OutCanon (execIslandClockStart n s) := by
  unfold execIslandClockStart
  try dsimp only
  repeat' split
  all_goals first
    | exact h
    | simp +contextual (maxDischargeDepth := 20) [*]

@[simp] theorem stopIdle_canon {s : State} (h : s.Canon) : (State.stopIdle s).Canon := by
  unfold State.stopIdle
  exact canon_mk.mpr (State.canon_iff.mp h)

@[simp] theorem setLevel_canon {s : State} (l : Nat) (h : s.Canon) : (State.setLevel s l).Canon := by
  unfold State.setLevel
  try dsimp only
  repeat' split
  all_goals first
    | exact h
    | simp +contextual (maxDischargeDepth := 20) [*]

@[simp] theorem readSensors_canon {s : State} (rs : List (BitVec 16 × BitVec 8)) (h : s.Canon) : (State.readSensors s rs).Canon := by
  unfold State.readSensors
  try dsimp only
  repeat' split
  all_goals first
    | exact h
    | simp +contextual (maxDischargeDepth := 20) [*]

@[simp] theorem runLoop_canon {s : State} (h : s.Canon) : (State.runLoop s).Canon := by
  unfold State.runLoop
  exact loopTo_canon _ (setLevel_canon _ (canon_mk.mpr (State.canon_iff.mp h)))

theorem execPowerInterval_canon (readings : List (BitVec 16 × BitVec 8)) {s : State} (h : s.Canon) : OutCanon (execPowerInterval readings s) := by
  unfold execPowerInterval
  try dsimp only
  repeat' split
  all_goals first
    | exact h
    | simp +contextual (maxDischargeDepth := 20) [*]

@[simp] theorem haltPower_canon {s : State} (h : s.Canon) : (State.haltPower s).Canon := holdSteps_canon ⟨h.vat, h.ram, h.tiles, h.cache, h.pats⟩

theorem execTemperatureSample_canon (temps : List (BitVec 8)) {s : State} (h : s.Canon) : OutCanon (execTemperatureSample temps s) := by
  have h1 := compare_canon .tcrit (moveTo_canon (s.nextAt 4000) h)
  refine whenUp_canon h ?_
  dsimp only
  split
  · exact haltPower_canon (canon_mk.mpr (State.canon_iff.mp h1))
  · exact holdSteps_canon (canon_mk.mpr (State.canon_iff.mp h1))

theorem execThrottleChange_canon (v : BitVec 4) {s : State} (h : s.Canon) : OutCanon (execThrottleChange v s) := by
  unfold execThrottleChange
  try dsimp only
  repeat' split
  all_goals first
    | exact h
    | simp +contextual (maxDischargeDepth := 20) [*]

theorem execCoolClassChange_canon (v : BitVec 2) {s : State} (h : s.Canon) : OutCanon (execCoolClassChange v s) := by
  refine whenUp_canon h ?_
  split
  · exact h
  · extract_lets rs s0 halts s1 up
    have h1 : s1.Canon := ite_canon (haltPower_canon (compareAll_canon rs h)) (compareAll_canon rs h)
    clear_value s1
    exact korniEventRec_canon _ _ (canon_mk.mpr (State.canon_iff.mp h1))

@[simp] theorem setPowerCtl_canon {s : State} (en : Bool) (minstep : BitVec 5) (h : s.Canon) : (State.setPowerCtl s en minstep).Canon := by
  unfold State.setPowerCtl
  try dsimp only
  repeat' split
  all_goals first
    | exact h
    | simp +contextual (maxDischargeDepth := 20) [*]

@[simp] theorem ackClass_canon {s : State} (h : s.Canon) : (State.ackClass s).Canon := by
  unfold State.ackClass
  try dsimp only
  repeat' split
  all_goals first
    | exact h
    | simp +contextual (maxDischargeDepth := 20) [*]

@[simp] theorem clearTile_canon {s : State} (n : Nat) (h : s.Canon) : (State.clearTile s n).Canon := by
  unfold State.clearTile
  try dsimp only
  repeat' split
  all_goals first
    | exact h
    | simp +contextual (maxDischargeDepth := 20) [*]

@[simp] theorem zeroRegions_canon {s : State} (r : Nat) (n : Nat) (h : s.Canon) : (State.zeroRegions s r n).Canon := by
  unfold State.zeroRegions
  try dsimp only
  repeat' split
  all_goals first
    | exact h
    | simp +contextual (maxDischargeDepth := 20) [*]

@[simp] theorem clearRegion_canon {s : State} (r : Nat) (h : s.Canon) : (State.clearRegion s r).Canon := by
  unfold State.clearRegion
  try dsimp only
  repeat' split
  all_goals first
    | exact h
    | simp +contextual (maxDischargeDepth := 20) [*]

@[simp] theorem clearTiles_canon {s : State} (which : Option SecDomain → Bool) (h : s.Canon) : (State.clearTiles s which).Canon := by
  refine foldl_canon (fun t n ht => ?_) _ h
  split
  · exact clearTile_canon n ht
  · exact ht

@[simp] theorem regrant_canon {s : State} (k : LeaseKind) (d : SecDomain) (i : Nat) (h : s.Canon) : (State.regrant s k d i).Canon := by
  unfold State.regrant
  try dsimp only
  repeat' split
  all_goals first
    | exact h
    | simp +contextual (maxDischargeDepth := 20) [*]

@[simp] theorem grant_canon {s : State} (c : CtxId) (k : LeaseKind) (v : Quad) (h : s.Canon) : (State.grant s c k v).Canon := by
  unfold State.grant
  try dsimp only
  repeat' split
  all_goals first
    | exact h
    | simp +contextual (maxDischargeDepth := 20) [*]

@[simp] theorem stopEntry_canon {s : State} (c : CtxId) (n : Seq) (h : s.Canon) : (State.stopEntry s c n).Canon := by
  unfold State.stopEntry
  try dsimp only
  repeat' split
  all_goals first
    | exact h
    | simp +contextual (maxDischargeDepth := 20) [*]

@[simp] theorem stopFront_canon {s : State} (c : CtxId) (h : s.Canon) : (State.stopFront s c).Canon := by
  unfold State.stopFront
  try dsimp only
  repeat' split
  all_goals first
    | exact h
    | simp +contextual (maxDischargeDepth := 20) [*]

@[simp] theorem stopSecure_canon {s : State} (c : CtxId) (h : s.Canon) : (State.stopSecure s c).Canon := by
  unfold State.stopSecure
  split
  · exact foldl_canon (fun _ n ht => stopEntry_canon c n ht) _ (stopFront_canon c h)
  · exact h

@[simp] theorem startWipe_canon {s : State} (cause lo hi : Nat) (h : s.Canon) : (State.startWipe s cause lo hi).Canon := by
  refine holdSteps_canon (foldl_canon (fun _ c ht => stopSecure_canon c ht) _ ?_)
  exact ⟨h.vat, h.ram, h.tiles, h.cache, h.pats⟩

@[simp] theorem wipeClears_canon {s : State} (h : s.Canon) : (State.wipeClears s).Canon := by
  unfold State.wipeClears
  extract_lets s1 s2
  have h2 : s2.Canon := clearTiles_canon _ (zeroRegions_canon _ _ (zeroRegions_canon _ _ h))
  clear_value s2
  refine canon_mk.mpr ⟨h2.vat, h2.ram, h2.tiles, h2.cache, h2.getPats.map fun x hx => ?_⟩
  split
  · exact clearState_pats x
  · exact hx

theorem execWipeEnd_canon (cycles : Nat) {s : State} (h : s.Canon) : OutCanon (execWipeEnd cycles s) := by
  unfold execWipeEnd
  refine whenUp_canon h ?_
  split
  · have h1 := mark_canon [3, 5, 6] (wipeClears_canon (moveTo_canon (s.sec.since + cycles) h))
    exact holdSteps_canon (canon_mk.mpr (State.canon_iff.mp h1))
  · exact h

@[simp] theorem reopen_canon {s : State} (h : s.Canon) : (State.reopen s).Canon := by
  unfold State.reopen
  try dsimp only
  repeat' split
  all_goals first
    | exact h
    | simp +contextual (maxDischargeDepth := 20) [*]

@[simp] theorem tamperWipe_canon {s : State} (h : s.Canon) : (State.tamperWipe s).Canon := startWipe_canon _ _ _ (korniEventRec_canon _ _ h)

@[simp] theorem logSideband_canon {s : State} (bit : Nat) (h : s.Canon) : (State.logSideband s bit).Canon := by
  unfold State.logSideband
  try dsimp only
  repeat' split
  all_goals first
    | exact h
    | simp +contextual (maxDischargeDepth := 20) [*]

@[simp] theorem tamperNoisy_canon {s : State} (h : s.Canon) : (State.tamperNoisy s).Canon := by
  have h1 : (({ s with sb := { s.sb with tnoisy := true } } : State).logSideband 1).Canon :=
    logSideband_canon 1 ⟨h.vat, h.ram, h.tiles, h.cache, h.pats⟩
  unfold State.tamperNoisy
  dsimp only
  split
  · exact h1
  · exact tamperWipe_canon h1

theorem execTamperAssert_canon (noisy : Bool) {s : State} (h : s.Canon) : OutCanon (execTamperAssert noisy s) := by
  refine whenUp_canon h ?_
  repeat' split
  · exact h
  · exact tamperNoisy_canon h
  · exact h
  · exact tamperWipe_canon ⟨h.vat, h.ram, h.tiles, h.cache, h.pats⟩

theorem execTamperRelease_canon {s : State} (h : s.Canon) : OutCanon (execTamperRelease s) := by
  unfold execTamperRelease
  try dsimp only
  repeat' split
  all_goals first
    | exact h
    | simp +contextual (maxDischargeDepth := 20) [*]

theorem execLifeCycleChange_canon (v : BitVec 2) (par : Bool) {s : State} (h : s.Canon) : OutCanon (execLifeCycleChange v par s) := by
  refine whenUp_canon h ?_
  split
  · exact h
  · exact startWipe_canon _ _ _ (korniEventRec_canon _ _ ⟨h.vat, h.ram, h.tiles, h.cache, h.pats⟩)

@[simp] theorem setSpare_canon {s : State} (q : Nat) (st : Nat) (for_ : Nat) (h : s.Canon) : (State.setSpare s q st for_).Canon := by
  unfold State.setSpare
  try dsimp only
  repeat' split
  all_goals first
    | exact h
    | simp +contextual (maxDischargeDepth := 20) [*]

@[simp] theorem retire_canon {s : State} (p : Nat) (h : s.Canon) : (State.retire s p).Canon := by
  unfold State.retire
  try dsimp only
  repeat' split
  all_goals first
    | exact h
    | simp +contextual (maxDischargeDepth := 20) [*]

@[simp] theorem setPlane_canon {s : State} (p : Nat) (st : Nat) (h : s.Canon) : (State.setPlane s p st).Canon := by
  unfold State.setPlane
  try dsimp only
  repeat' split
  all_goals first
    | exact h
    | simp +contextual (maxDischargeDepth := 20) [*]

@[simp] theorem loseTiles_canon {s : State} (g : Nat) (h : s.Canon) : (State.loseTiles s g).Canon :=
  foldl_canon (fun _ _ hs => upTile_canon _ _ hs) _ h

@[simp] theorem outNow_canon {s : State} (g : Nat) (h : s.Canon) : (State.outNow s g).Canon := loseTiles_canon g (putTab_canon _ _ h)

@[simp] theorem hostNow_canon {s : State} (g : Fin 64) (phys : Nat) (h : s.Canon) : (State.hostNow s g phys).Canon := by
  unfold State.hostNow
  split
  · exact logErr_canon _ (putTab_canon _ _ ⟨h.vat, h.ram, h.tiles, h.cache, h.pats⟩)
  · exact outNow_canon _ h

@[simp] theorem leaveSlot_canon {s : State} (k : Fin 64 × Fin 64 × Nat) (h : s.Canon) : (State.leaveSlot s k).Canon :=
  canon_mk.mpr ⟨putBytes_wf h.vat _ _, h.ram, h.tiles, h.cache, h.getPats⟩

@[simp] theorem rehost_canon {s : State} (h : s.Canon) : (State.rehost s).Canon := by
  refine foldl_canon (fun t x ht => ?_) _ h
  split
  · exact ht
  · dsimp only
    split
    · exact ⟨ht.vat, ht.ram, ht.tiles, ht.cache, ht.pats⟩
    · exact outNow_canon _ (putTab_canon _ _ (leaveSlot_canon _ ht))

@[simp] theorem retirePhysical_canon {s : State} (p : Nat) (h : s.Canon) : (State.retirePhysical s p).Canon := by
  unfold State.retirePhysical
  try dsimp only
  repeat' split
  all_goals first
    | exact h
    | simp +contextual (maxDischargeDepth := 20) [*]

@[simp] theorem standIn_canon {s : State} (g : Fin 64) (phys : Nat) (h : s.Canon) : (State.standIn s g phys).Canon := by
  unfold State.standIn
  try dsimp only
  repeat' split
  all_goals first
    | exact h
    | simp +contextual (maxDischargeDepth := 20) [*]

@[simp] theorem hostOrOut_canon {s : State} (g : Fin 64) (phys : Nat) (now : Bool) (h : s.Canon) : (State.hostOrOut s g phys now).Canon := by
  unfold State.hostOrOut
  try dsimp only
  repeat' split
  all_goals first
    | exact h
    | simp +contextual (maxDischargeDepth := 20) [*]

@[simp] theorem engineFails_canon {s : State} (p : Nat) (now : Bool) (h : s.Canon) : (State.engineFails s p now).Canon := by
  unfold State.engineFails
  try dsimp only
  repeat' split
  all_goals first
    | exact h
    | simp +contextual (maxDischargeDepth := 20) [*]

@[simp] theorem readSpares_canon {s : State} (h : s.Canon) : (State.readSpares s).Canon := compareAll_canon _ h

@[simp] theorem copyEnds_canon {s : State} (g : Fin 64) (hosts spareFails : Bool) (h : s.Canon) :
    (State.copyEnds s g hosts spareFails).Canon := by
  unfold State.copyEnds
  dsimp only
  split
  · exact rehost_canon (hostNow_canon _ _ (retirePhysical_canon _ h))
  · split
    · exact hostOrOut_canon _ _ _ (setSpare_canon _ _ _ h)
    · exact standIn_canon _ _ h

theorem execSpareCopyDone_canon (g : Fin 64) (spareFails : Bool) {s : State} (h : s.Canon) : OutCanon (execSpareCopyDone g spareFails s) := by
  refine whenUp_canon h ?_
  split
  · exact h
  · have hr := readSpares_canon h
    dsimp only
    split
    · exact hr
    · exact copyEnds_canon _ _ _ (mark_canon _ (canon_mk.mpr (State.canon_iff.mp hr)))

@[simp] theorem planeFails_canon {s : State} (p : Fin 5) (h : s.Canon) : (State.planeFails s p).Canon := by
  unfold State.planeFails
  try dsimp only
  repeat' split
  all_goals first
    | exact h
    | simp +contextual (maxDischargeDepth := 20) [*]

@[simp] theorem planePasses_canon {s : State} (p : Fin 5) (h : s.Canon) : (State.planePasses s p).Canon := by
  unfold State.planePasses
  try dsimp only
  repeat' split
  all_goals first
    | exact h
    | simp +contextual (maxDischargeDepth := 20) [*]

@[simp] theorem recountFree_canon {s : State} (seg : Nat) (h : s.Canon) : (State.recountFree s seg).Canon := putTab_canon _ _ h

@[simp] theorem repairColumn_canon {s : State} (seg : Nat) (mac : Nat) (lane : Bool) (sub : Nat) (bit : Nat) (now : Bool)
    (h : s.Canon) : (State.repairColumn s seg mac lane sub bit now).Canon := by
  unfold State.repairColumn
  try dsimp only
  repeat' split
  all_goals first
    | exact h
    | simp +contextual (maxDischargeDepth := 20) [*]

theorem execVatRebuildDone_canon (seg : Fin 16) {s : State} (h : s.Canon) : OutCanon (execVatRebuildDone seg s) := by
  unfold execVatRebuildDone
  try dsimp only
  repeat' split
  all_goals first
    | exact h
    | simp +contextual (maxDischargeDepth := 20) [*]

@[simp] theorem unitFails_canon {s : State} (u : TestUnit) (o : TestOutcome) (now : Bool) (h : s.Canon) : (State.unitFails s u o now).Canon := by
  unfold State.unitFails
  try dsimp only
  repeat' split
  all_goals first
    | exact h
    | simp +contextual (maxDischargeDepth := 20) [*]

@[simp] theorem unitPasses_canon {s : State} (u : TestUnit) (h : s.Canon) : (State.unitPasses s u).Canon := by
  unfold State.unitPasses
  try dsimp only
  repeat' split
  all_goals first
    | exact h
    | simp +contextual (maxDischargeDepth := 20) [*]

@[simp] theorem endTest_canon {s : State} (u : TestUnit) (failed : Bool) (h : s.Canon) : (State.endTest s u failed).Canon := by
  unfold State.endTest
  try dsimp only
  repeat' split
  all_goals first
    | exact h
    | simp +contextual (maxDischargeDepth := 20) [*]

@[simp] theorem dropSpareMark_canon {s : State} (u : TestUnit) (h : s.Canon) : (State.dropSpareMark s u).Canon := by
  unfold State.dropSpareMark
  try dsimp only
  repeat' split
  all_goals first
    | exact h
    | simp +contextual (maxDischargeDepth := 20) [*]

@[simp] theorem finishTest_canon {s : State} (u : TestUnit) (o : TestOutcome) (h : s.Canon) : (State.finishTest s u o).Canon := by
  have h1 := mark_canon (testTimes u) (endTest_canon u (o != TestOutcome.pass || s.thrashes u) h)
  exact dropSpareMark_canon u (ite_canon (unitPasses_canon u h1) (unitFails_canon u o false h1))

theorem execSelfTestEnd_canon (u : TestUnit) (o : TestOutcome) {s : State} (h : s.Canon) : OutCanon (execSelfTestEnd u o s) := by
  refine whenUp_canon h ?_
  split
  · exact ite_canon (readSpares_canon h) (finishTest_canon u o (readSpares_canon h))
  · exact h

@[simp] theorem loseEntry_canon {s : State} (q : Nat) (c : CtxId) (n : Seq) (h : s.Canon) : (State.loseEntry s q c n).Canon := by
  unfold State.loseEntry
  try dsimp only
  repeat' split
  all_goals first
    | exact h
    | simp +contextual (maxDischargeDepth := 20) [*]

@[simp] theorem stopTests_canon {s0 : State} (q : Nat) (h : s0.Canon) : (State.stopTests s0 q).Canon := by
  unfold State.stopTests
  try dsimp only
  repeat' split
  all_goals first
    | exact h
    | simp +contextual (maxDischargeDepth := 20) [*]

@[simp] theorem hostQuadrant_canon {s : State} (q : Nat) (h : s.Canon) : (State.hostQuadrant s q).Canon := by
  refine foldl_canon (fun t i ht => ?_) _ h
  dsimp only
  repeat' split
  · exact ht
  · exact hostNow_canon _ _ ht
  · exact outNow_canon _ ht

@[simp] theorem hostLost_canon {s : State} (q : Fin 4) (h : s.Canon) : (State.hostLost s q).Canon :=
  hostQuadrant_canon _ (rehost_canon (putTab_canon _ _ h))

@[simp] theorem repairLoss_canon {s : State} (q : Fin 4) (h : s.Canon) : (State.repairLoss s q).Canon :=
  ite_canon (canon_mk.mpr (State.canon_iff.mp h)) (hostLost_canon q h)

@[simp] theorem repairDue_canon {s : State} (h : s.Canon) : (State.repairDue s).Canon :=
  ite_canon h (foldl_canon (fun _ q ht => hostLost_canon q ht) _ (canon_mk.mpr (State.canon_iff.mp h)))

@[simp] theorem loseQuadrant_canon {s : State} (q : Fin 4) (h : s.Canon) : (State.loseQuadrant s q).Canon := by
  have hr := readSpares_canon h
  unfold State.loseQuadrant
  generalize s.readSpares = r at hr ⊢
  dsimp only
  refine korniEventRec_canon _ _ (logErr_canon _ (repairLoss_canon _ ?_))
  refine canon_mk.mpr (State.canon_iff.mp (stopTests_canon q.val ?_))
  refine foldl_canon (fun t i ht => loseTiles_canon _ ht) _ ?_
  exact foldl_canon (fun t c ht => foldl_canon (fun u n hu => loseEntry_canon _ _ _ hu) _ ht) _ hr

theorem execQuadrantLost_canon (q : Fin 4) {s : State} (h : s.Canon) : OutCanon (execQuadrantLost q s) := by
  unfold execQuadrantLost
  try dsimp only
  repeat' split
  all_goals first
    | exact h
    | simp +contextual (maxDischargeDepth := 20) [*]

@[simp] theorem nextQuadrant_canon {s : State} (n : Nat) (h : s.Canon) : (State.nextQuadrant s n).Canon :=
  canon_mk.mpr (State.canon_iff.mp h)

@[simp] theorem powerFails_canon {s : State} (q : Fin 4) (h : s.Canon) : (State.powerFails s q).Canon :=
  nextQuadrant_canon _ (loseQuadrant_canon q h)

@[simp] theorem powerLate_canon (n : Nat) {s : State} (h : s.Canon) : (State.powerLate n s).Canon := by
  induction n generalizing s with
  | zero => exact h
  | succ n ih => exact ite_canon (ih (powerFails_canon _ h)) h

theorem execQuadrantPowerGood_canon (q : Fin 4) {s : State} (h : s.Canon) : OutCanon (execQuadrantPowerGood q s) := by
  have h1 := powerLate_canon 4 h
  refine whenUp_canon h (holdSteps_canon (ite_canon (nextQuadrant_canon _ ?_) ?_))
  · exact canon_mk.mpr (State.canon_iff.mp h1)
  · exact canon_mk.mpr (State.canon_iff.mp h1)

theorem execQuadrantPowerTimeout_canon (q : Fin 4) {s : State} (h : s.Canon) : OutCanon (execQuadrantPowerTimeout q s) := by
  exact whenUp_canon h (ite_canon (powerFails_canon q (moveTo_canon _ h)) h)

@[simp] theorem scrubFinds_canon {s : State} (d : Detect) (h : s.Canon) : (State.scrubFinds s d).Canon := by
  unfold State.scrubFinds
  try dsimp only
  repeat' split
  all_goals first
    | exact h
    | simp +contextual (maxDischargeDepth := 20) [*]

theorem execScrubRow_canon (found : List Detect) {s : State} (h : s.Canon) : OutCanon (execScrubRow found s) := by
  unfold execScrubRow
  try dsimp only
  repeat' split
  all_goals first
    | exact h
    | simp +contextual (maxDischargeDepth := 20) [*]

theorem execTablePatrol_canon {s : State} (h : s.Canon) : OutCanon (execTablePatrol s) := by
  unfold execTablePatrol
  try dsimp only
  repeat' split
  all_goals first
    | exact h
    | simp +contextual (maxDischargeDepth := 20) [*]

@[simp] theorem countGlitch_canon {s : State} (i : SideInput) (h : s.Canon) : (State.countGlitch s i).Canon := by
  unfold State.countGlitch
  try dsimp only
  repeat' split
  all_goals first
    | exact h
    | simp +contextual (maxDischargeDepth := 20) [*]

@[simp] theorem becomeNoisy_canon {s : State} (i : SideInput) (h : s.Canon) : (State.becomeNoisy s i).Canon := by
  unfold State.becomeNoisy
  split
  · exact logFront_canon _ ⟨h.vat, h.ram, h.tiles, h.cache, h.pats⟩
  · exact tamperNoisy_canon h
  · exact logSideband_canon _ ⟨h.vat, h.ram, h.tiles, h.cache, h.pats⟩
  · exact logSideband_canon _ ⟨h.vat, h.ram, h.tiles, h.cache, h.pats⟩
  · exact logSideband_canon _ ⟨h.vat, h.ram, h.tiles, h.cache, h.pats⟩
  · rename_i q
    have h1 : (({ s with sb := { s.sb with qpnoisy := s.sb.qpnoisy ||| BitVec.ofNat 4 (2 ^ q.val) } } : State).logSideband 6).Canon :=
      logSideband_canon 6 ⟨h.vat, h.ram, h.tiles, h.cache, h.pats⟩
    dsimp only
    split
    · exact loseQuadrant_canon q h1
    · exact h1

theorem execSidebandGlitch_canon (i : SideInput) {s : State} (h : s.Canon) : OutCanon (execSidebandGlitch i s) := by
  unfold execSidebandGlitch
  try dsimp only
  repeat' split
  all_goals first
    | exact h
    | simp +contextual (maxDischargeDepth := 20) [*]

theorem execGlitchWindowEnd_canon {s : State} (h : s.Canon) : OutCanon (execGlitchWindowEnd s) := by
  unfold execGlitchWindowEnd
  try dsimp only
  repeat' split
  all_goals first
    | exact h
    | simp +contextual (maxDischargeDepth := 20) [*]

end Sys2Proof.Machine
end

