-- ==== Sys2Proof/Laws/CanonRegs.lean ====
section
/-! SUPPORT. Canonical stores: register accesses, bring-up, acceptance, the eddy port and replay keep the stores canonical. -/

namespace Sys2Proof.Machine

@[simp] theorem telRefresh_canon {s : State} (h : s.Canon) : (State.telRefresh s).Canon :=
  have h1 := foldl_canon (f := State.tallyFree) (fun _ n hs => tallyFree_canon n hs) s.timesDue h
  ⟨h1.vat, h1.ram, h1.tiles, h1.cache, h1.pats⟩

@[simp] theorem clearOnRead_canon {s : State} (r : Reg) (p : Part) (d : BitVec 8) (h : s.Canon) : (State.clearOnRead s r p d).Canon := by
  unfold State.clearOnRead
  try dsimp only
  repeat' split
  all_goals first
    | exact h
    | simp +contextual (maxDischargeDepth := 20) [*]

@[simp] theorem beforeRead_canon {s : State} (r : Reg) (h : s.Canon) : (State.beforeRead s r).Canon := by
  unfold State.beforeRead
  repeat' split
  · exact h
  · exact telRefresh_canon h
  · exact compare_canon _ h
  · exact h

@[simp] theorem answerRead_canon {s : State} (src : Source) (err : Bool) (off : Nat) (p : Part) (bs : List Byte)
    (h : s.Canon) : (State.answerRead s src err off p bs).Canon := by
  unfold State.answerRead
  try dsimp only
  repeat' split
  all_goals first
    | exact h
    | simp +contextual (maxDischargeDepth := 20) [*]

theorem readReg_canon {s : State} (d : BitVec 8) (off : Nat) (p : Part) (h : s.Canon) :
    ∀ r, State.readReg s d off p = some r → r.2.Canon := by
  intro r hr
  unfold State.readReg at hr
  dsimp only at hr
  repeat' split at hr
  · cases hr
  · cases hr
    exact clearOnRead_canon _ _ _ (beforeRead_canon _ h)
  · cases hr

theorem execRscRead_canon (src : Source) (off : BitVec 24) (p : Part) {s : State} (h : s.Canon) : OutCanon (execRscRead src off p s) := by
  have hr := readReg_canon (s.srcDomain src) off.toNat p h
  refine whenUp_canon h ?_
  split
  · exact h
  · split
    · exact answerRead_canon _ _ _ _ _ h
    · rename_i heq
      exact answerRead_canon _ _ _ _ _ (hr _ heq)

@[simp] theorem writeStart_canon {s : State} (h : s.Canon) : (State.writeStart s).Canon := by
  unfold State.writeStart
  try dsimp only
  repeat' split
  all_goals first
    | exact h
    | simp +contextual (maxDischargeDepth := 20) [*]

@[simp] theorem enterKorni_canon {s : State} (mode : BitVec 2) (h : s.Canon) : (State.enterKorni s mode).Canon := by
  unfold State.enterKorni
  try dsimp only
  repeat' split
  all_goals first
    | exact h
    | simp +contextual (maxDischargeDepth := 20) [*]

@[simp] theorem korniLoss_canon {s : State} (h : s.Canon) : (State.korniLoss s).Canon := by
  unfold State.korniLoss
  try dsimp only
  repeat' split
  all_goals first
    | exact h
    | simp +contextual (maxDischargeDepth := 20) [*]

@[simp] theorem enableCtx_canon {s : State} (c : CtxId) (h : s.Canon) : (State.enableCtx s c).Canon := by
  unfold State.enableCtx
  try dsimp only
  repeat' split
  all_goals first
    | exact h
    | simp +contextual (maxDischargeDepth := 20) [*]

@[simp] theorem disableCtx_canon {s : State} (c : CtxId) (h : s.Canon) : (State.disableCtx s c).Canon := by
  unfold State.disableCtx
  try dsimp only
  repeat' split
  all_goals first
    | exact h
    | simp +contextual (maxDischargeDepth := 20) [*]

@[simp] theorem startCtx_canon {s : State} (c : CtxId) (h : s.Canon) : (State.startCtx s c).Canon := by
  unfold State.startCtx
  try dsimp only
  repeat' split
  all_goals first
    | exact h
    | simp +contextual (maxDischargeDepth := 20) [*]

@[simp] theorem resumeCtx_canon {s : State} (c : CtxId) (h : s.Canon) : (State.resumeCtx s c).Canon := by
  unfold State.resumeCtx
  try dsimp only
  repeat' split
  all_goals first
    | exact h
    | simp +contextual (maxDischargeDepth := 20) [*]

@[simp] theorem abortCtx_canon {s : State} (c : CtxId) (h : s.Canon) : (State.abortCtx s c).Canon := by
  unfold State.abortCtx
  try dsimp only
  repeat' split
  all_goals first
    | exact h
    | simp +contextual (maxDischargeDepth := 20) [*]

@[simp] theorem writeCtl_canon {s : State} (c : CtxId) (w : CtlWrite) (h : s.Canon) : (State.writeCtl s c w).Canon := by
  unfold State.writeCtl
  extract_lets s1 s2 s3 s4
  have h1 : s1.Canon := by
    refine upCtx_canon h c ?_
    dsimp only
    split
    · exact ctx_pats h c
    · exact clearDomain_pats (s.ctx c)
  have h2 : s2.Canon := ite_canon h1 (ite_canon (enableCtx_canon c h1) (disableCtx_canon c h1))
  have h3 : s3.Canon := ite_canon (startCtx_canon c h2) h2
  have h4 : s4.Canon := ite_canon (resumeCtx_canon c h3) h3
  exact ite_canon (abortCtx_canon c h4) h4

@[simp] theorem allow_canon (c : Bool) {s : State} (h : s.Canon) : (allow c s).Canon := by
  unfold allow
  split
  · exact h
  · trivial

@[simp] theorem beginTest_canon {s : State} (h : s.Canon) : (State.beginTest s).Canon := by
  unfold State.beginTest
  try dsimp only
  repeat' split
  all_goals first
    | exact h
    | simp +contextual (maxDischargeDepth := 20) [*]

@[simp] theorem writeGctl_canon {s : State} (a : Access) (h : s.Canon) : (State.writeGctl s a).Canon := by
  unfold State.writeGctl
  try dsimp only
  repeat' split
  all_goals first
    | exact h
    | simp +contextual (maxDischargeDepth := 20) [*]

@[simp] theorem freezeTel_canon {s : State} (h : s.Canon) : (State.freezeTel s).Canon := by
  have h1 := telRefresh_canon h
  exact ⟨h1.vat, h1.ram, h1.tiles, h1.cache, h1.pats⟩

@[simp] theorem clearTel_canon {s : State} (h : s.Canon) : (State.clearTel s).Canon := ⟨h.vat, h.ram, h.tiles, h.cache, h.pats⟩

@[simp] theorem writeTelCtl_canon {s : State} (a : Access) (h : s.Canon) : (State.writeTelCtl s a).Canon := by
  unfold State.writeTelCtl
  split
  · extract_lets t s1
    have h1 : s1.Canon := ite_canon (ite_canon h (freezeTel_canon h)) (canon_mk.mpr (State.canon_iff.mp h))
    exact ite_canon (clearTel_canon h1) h1
  · exact h

@[simp] theorem writeDbgCtl_canon {s : State} (a : Access) (h : s.Canon) : (State.writeDbgCtl s a).Canon := by
  unfold State.writeDbgCtl
  split
  · refine ⟨h.vat, h.ram, h.tiles, h.cache, PatsOk.ofFn fun i => ?_⟩
    dsimp only
    repeat' split
    all_goals exact h.pats i
  · exact h

@[simp] theorem writeFeltCtl_canon {s : State} (a : Access) (h : s.Canon) : (State.writeFeltCtl s a).Canon := by
  unfold State.writeFeltCtl
  try dsimp only
  repeat' split
  all_goals first
    | exact h
    | simp +contextual (maxDischargeDepth := 20) [*]

@[simp] theorem writePark_canon {s : State} (n : Fin 6) (a : Access) (h : s.Canon) : (State.writePark s n a).Canon := by
  unfold State.writePark
  try dsimp only
  repeat' split
  all_goals first
    | exact h
    | simp +contextual (maxDischargeDepth := 20) [*]

@[simp] theorem writePortStat_canon {s : State} (a : Access) (h : s.Canon) : (State.writePortStat s a).Canon := by
  unfold State.writePortStat
  try dsimp only
  repeat' split
  all_goals first
    | exact h
    | simp +contextual (maxDischargeDepth := 20) [*]

@[simp] theorem powerOn_canon {s t : State} (ht : t.Canon) : (State.powerOn s t).Canon :=
  ite_canon (holdSteps_canon (ite_canon (powerLate_canon 4 ht) (nextQuadrant_canon _ ht))) ht

@[simp] theorem writeSbStat_canon {s : State} (a : Access) (h : s.Canon) : (State.writeSbStat s a).Canon := by
  unfold State.writeSbStat
  exact reopen_canon (powerOn_canon ⟨h.vat, h.ram, h.tiles, h.cache, h.pats⟩)

@[simp] theorem writeLease_canon {s : State} (c : CtxId) (k : LeaseKind) (a : Access) (h : s.Canon) : (State.writeLease s c k a).Canon := by
  unfold State.writeLease
  try dsimp only
  repeat' split
  all_goals first
    | exact h
    | simp +contextual (maxDischargeDepth := 20) [*]

@[simp] theorem writeCtxReg_canon {s : State} (c : CtxId) (r : CtxReg) (a : Access) (h : s.Canon) : (State.writeCtxReg s c r a).Canon := by
  unfold State.writeCtxReg
  try dsimp only
  repeat' split
  all_goals first
    | exact h
    | simp +contextual (maxDischargeDepth := 20) [*]

@[simp] theorem writeCtx_canon {s : State} (c : CtxId) (r : CtxReg) (a : Access) (h : s.Canon) : (State.writeCtx s c r a).Canon := by
  unfold State.writeCtx
  try dsimp only
  repeat' split
  all_goals first
    | exact h
    | simp +contextual (maxDischargeDepth := 20) [*]

@[simp] theorem writeGen_canon {s : State} (c : CtxId) (a : Access) (h : s.Canon) : (State.writeGen s c a).Canon := by
  unfold State.writeGen
  try dsimp only
  repeat' split
  all_goals first
    | exact h
    | simp +contextual (maxDischargeDepth := 20) [*]

@[simp] theorem unstage_canon {s : State} (t : TabReg) (h : s.Canon) : (State.unstage s t).Canon := by
  unfold State.unstage
  try dsimp only
  repeat' split
  all_goals first
    | exact h
    | simp +contextual (maxDischargeDepth := 20) [*]

@[simp] theorem writeStaged_canon {s : State} (t : TabReg) (a : Access) (fix : Quad → Quad) (h : s.Canon) : (State.writeStaged s t a fix).Canon := by
  unfold State.writeStaged
  try dsimp only
  repeat' split
  all_goals first
    | exact h
    | simp +contextual (maxDischargeDepth := 20) [*]

@[simp] theorem writeFmt_canon {s : State} (t : TabReg) (a : Access) (h : s.Canon) : (State.writeFmt s t a).Canon := by
  unfold State.writeFmt
  try dsimp only
  repeat' split
  all_goals first
    | exact h
    | simp +contextual (maxDischargeDepth := 20) [*]

@[simp] theorem writeScurve_canon {s : State} (t : TabReg) (a : Access) (h : s.Canon) : (State.writeScurve s t a).Canon := by
  unfold State.writeScurve
  try dsimp only
  repeat' split
  all_goals first
    | exact h
    | simp +contextual (maxDischargeDepth := 20) [*]

@[simp] theorem writeThrottle_canon {s : State} (t : TabReg) (a : Access) (h : s.Canon) : (State.writeThrottle s t a).Canon := by
  unfold State.writeThrottle
  try dsimp only
  repeat' split
  all_goals first
    | exact h
    | simp +contextual (maxDischargeDepth := 20) [*]

@[simp] theorem writeCurve_canon {s : State} (t : TabReg) (a : Access) (h : s.Canon) : (State.writeCurve s t a).Canon := by
  unfold State.writeCurve
  try dsimp only
  repeat' split
  all_goals first
    | exact h
    | simp +contextual (maxDischargeDepth := 20) [*]

@[simp] theorem writeFrontCfg_canon {s : State} (a : Access) (h : s.Canon) : (State.writeFrontCfg s a).Canon := by
  unfold State.writeFrontCfg
  try dsimp only
  repeat' split
  all_goals first
    | exact h
    | simp +contextual (maxDischargeDepth := 20) [*]

@[simp] theorem writeReca_canon {s : State} (a : Access) (h : s.Canon) : (State.writeReca s a).Canon := by
  unfold State.writeReca
  try dsimp only
  repeat' split
  all_goals first
    | exact h
    | simp +contextual (maxDischargeDepth := 20) [*]

@[simp] theorem writeForce_canon {s : State} (a : Access) (h : s.Canon) : (State.writeForce s a).Canon := by
  unfold State.writeForce
  try dsimp only
  repeat' split
  all_goals first
    | exact h
    | simp +contextual (maxDischargeDepth := 20) [*]

@[simp] theorem writeNum_canon {s : State} (a : Access) (h : s.Canon) : (State.writeNum s a).Canon := by
  unfold State.writeNum
  try dsimp only
  repeat' split
  all_goals first
    | exact h
    | simp +contextual (maxDischargeDepth := 20) [*]

@[simp] theorem writeFrontStat_canon {s : State} (a : Access) (h : s.Canon) : (State.writeFrontStat s a).Canon := by
  unfold State.writeFrontStat
  try dsimp only
  repeat' split
  all_goals first
    | exact h
    | simp +contextual (maxDischargeDepth := 20) [*]

@[simp] theorem writeKorniCtl_canon {s : State} (a : Access) (h : s.Canon) : (State.writeKorniCtl s a).Canon := by
  unfold State.writeKorniCtl
  try dsimp only
  repeat' split
  all_goals first
    | exact h
    | simp +contextual (maxDischargeDepth := 20) [*]

@[simp] theorem writeKorniBase_canon {s : State} (a : Access) (h : s.Canon) : (State.writeKorniBase s a).Canon := by
  unfold State.writeKorniBase
  try dsimp only
  repeat' split
  all_goals first
    | exact h
    | simp +contextual (maxDischargeDepth := 20) [*]

@[simp] theorem writeKorniHead_canon {s : State} (a : Access) (h : s.Canon) : (State.writeKorniHead s a).Canon := by
  unfold State.writeKorniHead
  try dsimp only
  repeat' split
  all_goals first
    | exact h
    | simp +contextual (maxDischargeDepth := 20) [*]

@[simp] theorem writeKorniTail_canon {s : State} (a : Access) (h : s.Canon) : (State.writeKorniTail s a).Canon := by
  unfold State.writeKorniTail
  try dsimp only
  repeat' split
  all_goals first
    | exact h
    | simp +contextual (maxDischargeDepth := 20) [*]

@[simp] theorem writeKorniStat_canon {s : State} (a : Access) (h : s.Canon) : (State.writeKorniStat s a).Canon := by
  unfold State.writeKorniStat
  try dsimp only
  repeat' split
  all_goals first
    | exact h
    | simp +contextual (maxDischargeDepth := 20) [*]

@[simp] theorem writePwrCtl_canon {s : State} (a : Access) (h : s.Canon) : (State.writePwrCtl s a).Canon := by
  unfold State.writePwrCtl
  try dsimp only
  repeat' split
  all_goals first
    | exact h
    | simp +contextual (maxDischargeDepth := 20) [*]

@[simp] theorem writePwrStat_canon {s : State} (a : Access) (h : s.Canon) : (State.writePwrStat s a).Canon := by
  unfold State.writePwrStat
  try dsimp only
  repeat' split
  all_goals first
    | exact h
    | simp +contextual (maxDischargeDepth := 20) [*]

@[simp] theorem writeErrCtl_canon {s : State} (a : Access) (h : s.Canon) : (State.writeErrCtl s a).Canon := by
  unfold State.writeErrCtl
  try dsimp only
  repeat' split
  all_goals first
    | exact h
    | simp +contextual (maxDischargeDepth := 20) [*]

@[simp] theorem writeErrTail_canon {s : State} (a : Access) (h : s.Canon) : (State.writeErrTail s a).Canon := by
  unfold State.writeErrTail
  try dsimp only
  repeat' split
  all_goals first
    | exact h
    | simp +contextual (maxDischargeDepth := 20) [*]

@[simp] theorem startSelfTest_canon {s : State} (u : TestUnit) (h : s.Canon) : (State.startSelfTest s u).Canon := by
  unfold State.startSelfTest
  try dsimp only
  repeat' split
  all_goals first
    | exact h
    | simp +contextual (maxDischargeDepth := 20) [*]

@[simp] theorem writeStCtl_canon {s : State} (a : Access) (h : s.Canon) : (State.writeStCtl s a).Canon := by
  unfold State.writeStCtl
  try dsimp only
  repeat' split
  all_goals first
    | exact h
    | simp +contextual (maxDischargeDepth := 20) [*]

@[simp] theorem writeSpare_canon {s : State} (t : TabReg) (a : Access) (h : s.Canon) : (State.writeSpare s t a).Canon := by
  unfold State.writeSpare
  try dsimp only
  repeat' split
  all_goals first
    | exact h
    | simp +contextual (maxDischargeDepth := 20) [*]

@[simp] theorem writeSecCtl_canon {s : State} (a : Access) (h : s.Canon) : (State.writeSecCtl s a).Canon := by
  unfold State.writeSecCtl
  try dsimp only
  repeat' split
  all_goals first
    | exact h
    | simp +contextual (maxDischargeDepth := 20) [*]

@[simp] theorem writeSecStat_canon {s : State} (a : Access) (h : s.Canon) : (State.writeSecStat s a).Canon := by
  unfold State.writeSecStat
  try dsimp only
  repeat' split
  all_goals first
    | exact h
    | simp +contextual (maxDischargeDepth := 20) [*]

@[simp] theorem superWrite_canon {s : State} (a : Access) {t : State} (h : t.Canon) : (State.superWrite s a t).Canon := allow_canon _ h

@[simp] theorem writePat_pats {x : Ctx} (h : patsWf x.pats = true) (n q : Nat) (a : Access) : patsWf (x.writePat n q a).pats = true := by
  unfold Ctx.writePat
  dsimp only
  split
  · exact setPat_pats h n _
  · exact spWrite_wf (d := (0 : Quad)) h _ _

@[simp] theorem writeReg_canon {s : State} (r : Reg) (a : Access) (h : s.Canon) : (State.writeReg s r a).Canon := by
  unfold State.writeReg
  try dsimp only
  repeat' split
  all_goals first
    | exact h
    | simp +contextual (maxDischargeDepth := 20) [*]

@[simp] theorem readFor_canon {s : State} (off : Nat) (a : Access) (h : s.Canon) : (State.readFor s off a).Canon := compareAll_canon _ h

@[simp] theorem tryWrite_canon {s : State} (off : Nat) (a : Access) (h : s.Canon) : (State.tryWrite s off a).Canon := by
  unfold State.tryWrite
  try dsimp only
  repeat' split
  all_goals first
    | exact h
    | simp +contextual (maxDischargeDepth := 20) [*]

@[simp] theorem putWrite_canon {s : State} (due : Bool) (off : Nat) (p : Part) (v : Quad) (h : s.Canon) : (State.putWrite s due off p v).Canon := by
  unfold State.putWrite
  try dsimp only
  repeat' split
  all_goals first
    | exact h
    | simp +contextual (maxDischargeDepth := 20) [*]

@[simp] theorem regWrite_canon {s : State} (src : Source) (id : BitVec 4) (off : Nat) (p : Part) (v : Quad) (goLow : Bool) (h : s.Canon) :
    (State.regWrite s src id off p v goLow).Canon := by
  have hw := tryWrite_canon off ⟨some (s.srcDomain src), p, v, goLow⟩ h
  unfold State.regWrite
  dsimp only
  split
  · exact h
  · split
    · exact answer_canon _ _ _ (readFor_canon _ _ h)
    · rename_i heq
      rw [heq] at hw
      exact answer_canon _ _ _ (putWrite_canon _ _ _ _ hw)
    · exact canon_mk.mpr (State.canon_iff.mp (putWrite_canon (s.recordsWrite src) off p v h))

theorem execLeaseClearDone_canon {s : State} (h : s.Canon) : OutCanon (execLeaseClearDone s) := by
  unfold execLeaseClearDone
  try dsimp only
  repeat' split
  all_goals first
    | exact h
    | simp +contextual (maxDischargeDepth := 20) [*]

@[simp] theorem restarted_canon (s : State) : (State.restarted s).Canon :=
  ⟨rfl, rfl, rfl, rfl, fun c => by simp [State.ctx, State.restarted, State.reset, patsWf, spWf, spRises]⟩

theorem execReset_canon (cycles : Nat) {s : State} (h : s.Canon) : OutCanon (execReset cycles s) := by
  unfold execReset
  try dsimp only
  repeat' split
  all_goals first
    | exact h
    | simp +contextual (maxDischargeDepth := 20) [*]

theorem execPowerLoss_canon {s : State} (_ : s.Canon) : OutCanon (execPowerLoss s) := by
  unfold execPowerLoss
  simp

theorem execResetRelease_canon (lc : BitVec 2) (cool : BitVec 2) {s : State} (h : s.Canon) : OutCanon (execResetRelease lc cool s) := by
  unfold execResetRelease
  try dsimp only
  repeat' split
  all_goals first
    | exact h
    | simp +contextual (maxDischargeDepth := 20) [*]

@[simp] theorem bringUpFails_canon {s : State} (h : s.Canon) : (State.bringUpFails s).Canon := by
  unfold State.bringUpFails
  try dsimp only
  repeat' split
  all_goals first
    | exact h
    | simp +contextual (maxDischargeDepth := 20) [*]

theorem execFuseDone_canon (bad : Bool) {s : State} (h : s.Canon) : OutCanon (execFuseDone bad s) := by
  unfold execFuseDone
  try dsimp only
  repeat' split
  all_goals first
    | exact h
    | simp +contextual (maxDischargeDepth := 20) [*]

theorem execTableDone_canon (bad : Bool) {s : State} (h : s.Canon) : OutCanon (execTableDone bad s) := by
  unfold execTableDone
  try dsimp only
  repeat' split
  all_goals first
    | exact h
    | simp +contextual (maxDischargeDepth := 20) [*]

@[simp] theorem startupFails_canon {s : State} (f : TestUnit × TestOutcome) (h : s.Canon) : (State.startupFails s f).Canon := by
  unfold State.startupFails
  try dsimp only
  repeat' split
  all_goals first
    | exact h
    | simp +contextual (maxDischargeDepth := 20) [*]

@[simp] theorem replaceRetired_canon {s : State} (p : Nat) (h : s.Canon) : (State.replaceRetired s p).Canon := by
  unfold State.replaceRetired
  try dsimp only
  repeat' split
  all_goals first
    | exact h
    | simp +contextual (maxDischargeDepth := 20) [*]

theorem execTestDone_canon (failed : List (TestUnit × TestOutcome)) {s : State} (h : s.Canon) : OutCanon (execTestDone failed s) := by
  refine whenUp_canon h ?_
  split
  · have h1 := mark_canon [3, 4, 5, 6] (foldl_canon (f := State.startupFails) (fun _ _ hs => startupFails_canon _ hs) failed
      (foldl_canon (f := State.replaceRetired) (fun _ _ hs => replaceRetired_canon _ hs) (List.range 64) (readSpares_canon h)))
    generalize hx : ((failed.foldl State.startupFails ((List.range 64).foldl State.replaceRetired s.readSpares)).mark [3, 4, 5, 6]) = x at h1
    dsimp only
    rw [hx]
    split
    · exact readSpares_canon h
    · exact canon_mk.mpr (State.canon_iff.mp h1)
  · exact h

@[simp] theorem clearStores_canon {s : State} (h : s.Canon) : (State.clearStores s).Canon := by
  unfold State.clearStores
  try dsimp only
  repeat' split
  all_goals first
    | exact h
    | simp +contextual (maxDischargeDepth := 20) [*]

theorem execClearDone_canon (elapsed : Nat) {s : State} (h : s.Canon) : OutCanon (execClearDone elapsed s) := by
  unfold execClearDone
  try dsimp only
  repeat' split
  all_goals first
    | exact h
    | simp +contextual (maxDischargeDepth := 20) [*]

theorem execTraceSync_canon {s : State} (h : s.Canon) : OutCanon (execTraceSync s) := by
  unfold execTraceSync
  try dsimp only
  repeat' split
  all_goals first
    | exact h
    | simp +contextual (maxDischargeDepth := 20) [*]

theorem execTraceRecordOut_canon {s : State} (h : s.Canon) : OutCanon (execTraceRecordOut s) := by
  unfold execTraceRecordOut
  try dsimp only
  repeat' split
  all_goals first
    | exact h
    | simp +contextual (maxDischargeDepth := 20) [*]

@[simp] theorem wholeWrite_canon {s : State} (src : Source) (off : Nat) (v : Quad) (h : s.Canon) : OutCanon (State.wholeWrite s src off v) := by
  unfold State.wholeWrite
  try dsimp only
  repeat' split
  all_goals first
    | exact h
    | simp +contextual (maxDischargeDepth := 20) [*]

@[simp] theorem ctlWrite_canon {s : State} (src : Source) (c : CtxId) (lo : Nat) (w : Nat) (v : Nat)
    (h : s.Canon) : OutCanon (State.ctlWrite s src c lo w v) := by
  unfold State.ctlWrite
  try dsimp only
  repeat' split
  all_goals first
    | exact h
    | simp +contextual (maxDischargeDepth := 20) [*]

theorem execCtxEnable_canon (src : Source) (c : CtxId) {s : State} (h : s.Canon) : OutCanon (execCtxEnable src c s) := by
  unfold execCtxEnable
  try dsimp only
  repeat' split
  all_goals first
    | exact h
    | simp +contextual (maxDischargeDepth := 20) [*]

theorem execCtxDisable_canon (src : Source) (c : CtxId) {s : State} (h : s.Canon) : OutCanon (execCtxDisable src c s) := by
  unfold execCtxDisable
  try dsimp only
  repeat' split
  all_goals first
    | exact h
    | simp +contextual (maxDischargeDepth := 20) [*]

theorem execStart_canon (src : Source) (c : CtxId) {s : State} (h : s.Canon) : OutCanon (execStart src c s) := by
  unfold execStart
  try dsimp only
  repeat' split
  all_goals first
    | exact h
    | simp +contextual (maxDischargeDepth := 20) [*]

theorem execResume_canon (src : Source) (c : CtxId) {s : State} (h : s.Canon) : OutCanon (execResume src c s) := by
  unfold execResume
  try dsimp only
  repeat' split
  all_goals first
    | exact h
    | simp +contextual (maxDischargeDepth := 20) [*]

theorem execAbort_canon (src : Source) (c : CtxId) {s : State} (h : s.Canon) : OutCanon (execAbort src c s) := by
  unfold execAbort
  try dsimp only
  repeat' split
  all_goals first
    | exact h
    | simp +contextual (maxDischargeDepth := 20) [*]

theorem execDomainWrite_canon (src : Source) (c : CtxId) (dom : BitVec 8) {s : State} (h : s.Canon) : OutCanon (execDomainWrite src c dom s) := by
  unfold execDomainWrite
  try dsimp only
  repeat' split
  all_goals first
    | exact h
    | simp +contextual (maxDischargeDepth := 20) [*]

theorem execSecureWrite_canon (src : Source) (c : CtxId) (secure : Bool) {s : State} (h : s.Canon) : OutCanon (execSecureWrite src c secure s) := by
  unfold execSecureWrite
  try dsimp only
  repeat' split
  all_goals first
    | exact h
    | simp +contextual (maxDischargeDepth := 20) [*]

theorem execLeaseWrite_canon (src : Source) (c : CtxId) (k : LeaseKind) (p : Part) (v : Quad) {s : State}
    (h : s.Canon) : OutCanon (execLeaseWrite src c k p v s) := by
  unfold execLeaseWrite
  try dsimp only
  repeat' split
  all_goals first
    | exact h
    | simp +contextual (maxDischargeDepth := 20) [*]

theorem execPatQuadWrite_canon (src : Source) (c : CtxId) (reg : Fin 32) (quad : Fin 32) (p : Part) (v : Quad) {s : State}
    (h : s.Canon) : OutCanon (execPatQuadWrite src c reg quad p v s) := by
  unfold execPatQuadWrite
  try dsimp only
  repeat' split
  all_goals first
    | exact h
    | simp +contextual (maxDischargeDepth := 20) [*]

theorem execFmtWrite_canon (src : Source) (entry : Fin 32) (p : Part) (v : Quad) {s : State}
    (h : s.Canon) : OutCanon (execFmtWrite src entry p v s) := by
  unfold execFmtWrite
  try dsimp only
  repeat' split
  all_goals first
    | exact h
    | simp +contextual (maxDischargeDepth := 20) [*]

theorem execScurveWrite_canon (src : Source) (curve : Fin 16) (hi : Bool) (p : Part) (v : Quad) {s : State}
    (h : s.Canon) : OutCanon (execScurveWrite src curve hi p v s) := by
  unfold execScurveWrite
  try dsimp only
  repeat' split
  all_goals first
    | exact h
    | simp +contextual (maxDischargeDepth := 20) [*]

theorem execTcurveWrite_canon (src : Source) (reg : Fin 24) (p : Part) (v : Quad) {s : State}
    (h : s.Canon) : OutCanon (execTcurveWrite src reg p v s) := by
  unfold execTcurveWrite
  try dsimp only
  repeat' split
  all_goals first
    | exact h
    | simp +contextual (maxDischargeDepth := 20) [*]

theorem execRemapWrite_canon (src : Source) (remap : Bool) {s : State} (h : s.Canon) : OutCanon (execRemapWrite src remap s) := by
  unfold execRemapWrite
  try dsimp only
  repeat' split
  all_goals first
    | exact h
    | simp +contextual (maxDischargeDepth := 20) [*]

theorem execPortReturn_canon (src : Source) (sfail : BitVec 8) (rfail : BitVec 4) {s : State}
    (h : s.Canon) : OutCanon (execPortReturn src sfail rfail s) := by
  unfold execPortReturn
  try dsimp only
  repeat' split
  all_goals first
    | exact h
    | simp +contextual (maxDischargeDepth := 20) [*]

theorem execFrontCalStart_canon (src : Source) {s : State} (h : s.Canon) : OutCanon (execFrontCalStart src s) := by
  unfold execFrontCalStart
  try dsimp only
  repeat' split
  all_goals first
    | exact h
    | simp +contextual (maxDischargeDepth := 20) [*]

theorem execKorniModeSet_canon (src : Source) (mode : BitVec 2) {s : State} (h : s.Canon) : OutCanon (execKorniModeSet src mode s) := by
  unfold execKorniModeSet
  try dsimp only
  repeat' split
  all_goals first
    | exact h
    | simp +contextual (maxDischargeDepth := 20) [*]

theorem execKorniHeadWrite_canon (src : Source) (v : Quad) {s : State} (h : s.Canon) : OutCanon (execKorniHeadWrite src v s) := by
  unfold execKorniHeadWrite
  try dsimp only
  repeat' split
  all_goals first
    | exact h
    | simp +contextual (maxDischargeDepth := 20) [*]

theorem execKorniTailWrite_canon (src : Source) (v : Quad) {s : State} (h : s.Canon) : OutCanon (execKorniTailWrite src v s) := by
  unfold execKorniTailWrite
  try dsimp only
  repeat' split
  all_goals first
    | exact h
    | simp +contextual (maxDischargeDepth := 20) [*]

theorem execGo_canon (src : Source) {s : State} (h : s.Canon) : OutCanon (execGo src s) := by
  unfold execGo
  try dsimp only
  repeat' split
  all_goals first
    | exact h
    | simp +contextual (maxDischargeDepth := 20) [*]

theorem execSuperWrite_canon (src : Source) (c : CtxId) {s : State} (h : s.Canon) : OutCanon (execSuperWrite src c s) := by
  unfold execSuperWrite
  try dsimp only
  repeat' split
  all_goals first
    | exact h
    | simp +contextual (maxDischargeDepth := 20) [*]

theorem execPwrEnWrite_canon (src : Source) (en : Bool) {s : State} (h : s.Canon) : OutCanon (execPwrEnWrite src en s) := by
  unfold execPwrEnWrite
  try dsimp only
  repeat' split
  all_goals first
    | exact h
    | simp +contextual (maxDischargeDepth := 20) [*]

theorem execCcack_canon (src : Source) {s : State} (h : s.Canon) : OutCanon (execCcack src s) := by
  unfold execCcack
  try dsimp only
  repeat' split
  all_goals first
    | exact h
    | simp +contextual (maxDischargeDepth := 20) [*]

theorem execStStart_canon (src : Source) (kind : BitVec 4) (unit : BitVec 8) {s : State} (h : s.Canon) : OutCanon (execStStart src kind unit s) := by
  unfold execStStart
  try dsimp only
  repeat' split
  all_goals first
    | exact h
    | simp +contextual (maxDischargeDepth := 20) [*]

theorem execLock_canon (src : Source) {s : State} (h : s.Canon) : OutCanon (execLock src s) := by
  unfold execLock
  try dsimp only
  repeat' split
  all_goals first
    | exact h
    | simp +contextual (maxDischargeDepth := 20) [*]

theorem execSsizeWrite_canon (src : Source) (size : BitVec 6) {s : State} (h : s.Canon) : OutCanon (execSsizeWrite src size s) := by
  unfold execSsizeWrite
  try dsimp only
  repeat' split
  all_goals first
    | exact h
    | simp +contextual (maxDischargeDepth := 20) [*]

theorem execFreeze_canon (src : Source) (on : Bool) {s : State} (h : s.Canon) : OutCanon (execFreeze src on s) := by
  unfold execFreeze
  try dsimp only
  repeat' split
  all_goals first
    | exact h
    | simp +contextual (maxDischargeDepth := 20) [*]

theorem execClear_canon (src : Source) {s : State} (h : s.Canon) : OutCanon (execClear src s) := by
  unfold execClear
  try dsimp only
  repeat' split
  all_goals first
    | exact h
    | simp +contextual (maxDischargeDepth := 20) [*]

theorem execDebugHalt_canon (src : Source) (mask : BitVec 8) {s : State} (h : s.Canon) : OutCanon (execDebugHalt src mask s) := by
  unfold execDebugHalt
  try dsimp only
  repeat' split
  all_goals first
    | exact h
    | simp +contextual (maxDischargeDepth := 20) [*]

theorem execDebugStep_canon (src : Source) (mask : BitVec 8) {s : State} (h : s.Canon) : OutCanon (execDebugStep src mask s) := by
  unfold execDebugStep
  try dsimp only
  repeat' split
  all_goals first
    | exact h
    | simp +contextual (maxDischargeDepth := 20) [*]

theorem execRegisterWrite_canon (src : Source) (off : BitVec 24) (p : Part) (v : Quad) (goLow : Bool) {s : State}
    (h : s.Canon) : OutCanon (execRegisterWrite src off p v goLow s) := by
  unfold execRegisterWrite
  try dsimp only
  repeat' split
  all_goals first
    | exact h
    | simp +contextual (maxDischargeDepth := 20) [*]

@[simp] theorem accept_canon {s : State} (c : CtxId) (n : Seq) (i : Insn) (addr : BitVec 48) (h : s.Canon) : (State.accept s c n i addr).Canon := by
  unfold State.accept
  try dsimp only
  repeat' split
  all_goals first
    | exact h
    | simp +contextual (maxDischargeDepth := 20) [*]

@[simp] theorem judged_canon {s : State} (i : Insn) (h : s.Canon) : (State.judged s i).Canon := compareAll_canon _ h

@[simp] theorem refusedAt_canon {s : State} (c : CtxId) (tag : BitVec 8) (i : Insn) (par : BitVec 4) (h : s.Canon) :
    (State.refusedAt s c tag i par).Canon := ite_canon (judged_canon i h) h

theorem execIssue_canon (c : CtxId) (tag : BitVec 8) (long : Bool) (data : BitVec 256) (par : BitVec 4) {s : State}
    (h : s.Canon) : OutCanon (execIssue c tag long data par s) := by
  have hr := refusedAt_canon c tag (issued long data) par h
  refine whenUp_canon h ?_
  dsimp only
  split
  · exact canon_mk.mpr (State.canon_iff.mp (upCtx_canon hr c (ctx_pats hr c)))
  · exact canon_mk.mpr (State.canon_iff.mp (tally_canon 14 1 hr))
  · exact canon_mk.mpr (State.canon_iff.mp (korniPut_canon _ _ _ _ (accept_canon c _ _ _ h)))

@[simp] theorem fetchBytes_canon {s : State} (c : CtxId) (a n : Nat) (d : Detect) (h : s.Canon) : (State.fetchBytes s c a n d).Canon := by
  have hr := reachRead_canon c 65536 [run a n] h
  unfold State.fetchBytes
  split
  · split
    · exact recordMiss_canon _ _ _ _ h
    · split
      · exact logUncorrectable_canon _ _ _ h
      · exact logCorrected_canon _ _ _ h
      · exact h
  · split
    · split
      · rename_i s1 heq
        rw [heq] at hr
        have hd := demand_canon c 65536 [run a n] hr
        dsimp only
        split
        · exact meetsError_canon _ _ _ _ hd
        · exact dropLine_canon _ _ _ (meetsError_canon _ _ _ _ hd)
        · exact hd
      all_goals
        rename_i heq
        rw [heq] at hr
        exact hr
    · exact ite_canon (recordMiss_canon _ _ _ _ h) h

@[simp] theorem fetchAt_canon {s : State} (c : CtxId) (a : Nat) (d : Detect) (h : s.Canon) : (State.fetchAt s c a d).Canon := by
  have h1 := fetchBytes_canon c a 8 d h
  unfold State.fetchAt
  split
  · exact h
  · split
    · rename_i heq
      rw [heq] at h1
      exact h1
    · rename_i heq
      rw [heq] at h1
      exact h1
    · rename_i s1 heq
      rw [heq] at h1
      have h2 := fetchBytes_canon c (a + 8) 24 d h1
      dsimp only
      split
      · exact h1
      · split
        · exact h1
        · split
          all_goals
            rename_i heq
            rw [heq] at h2
            exact h2

@[simp] theorem sequence_canon {s : State} (c : CtxId) (kind : Insn → Bool) (anyFault : Bool) (d : Detect) (h : s.Canon) :
    (State.sequence s c kind anyFault d).Canon := by
  have hf := fetchAt_canon c (s.ctx c).pc.toNat d h
  unfold State.sequence
  split
  · dsimp only
    split
    · rename_i heq
      rw [heq] at hf
      exact hf
    · rename_i heq
      rw [heq] at hf
      split
      · exact faultFetch_canon c _ hf
      · exact h
    · rename_i i s1 heq
      rw [heq] at hf
      split
      · split
        · exact faultFetch_canon c _ (judged_canon i hf)
        · split
          · have h1 := dropXlats_canon c 65536 (accept_canon c (s1.ctx c).nextSeq i (s.ctx c).pc hf)
            refine upCtx_canon h1 c ?_
            rw [settle_pats, moveOn_pats]
            exact ctx_pats h1 c
          · exact judged_canon i hf
      · exact h
  · exact h

theorem execSequencerFetch_canon (c : CtxId) (d : Detect) {s : State} (h : s.Canon) : OutCanon (execSequencerFetch c d s) := by
  unfold execSequencerFetch
  try dsimp only
  repeat' split
  all_goals first
    | exact h
    | simp +contextual (maxDischargeDepth := 20) [*]

theorem execLoopSet_canon (c : CtxId) {s : State} (h : s.Canon) : OutCanon (execLoopSet c s) := by
  unfold execLoopSet
  try dsimp only
  repeat' split
  all_goals first
    | exact h
    | simp +contextual (maxDischargeDepth := 20) [*]

theorem execLoopCount_canon (c : CtxId) {s : State} (h : s.Canon) : OutCanon (execLoopCount c s) := by
  unfold execLoopCount
  try dsimp only
  repeat' split
  all_goals first
    | exact h
    | simp +contextual (maxDischargeDepth := 20) [*]

theorem execHalt_canon (c : CtxId) {s : State} (h : s.Canon) : OutCanon (execHalt c s) := by
  unfold execHalt
  try dsimp only
  repeat' split
  all_goals first
    | exact h
    | simp +contextual (maxDischargeDepth := 20) [*]

theorem execBr_canon (c : CtxId) {s : State} (h : s.Canon) : OutCanon (execBr c s) := by
  unfold execBr
  try dsimp only
  repeat' split
  all_goals first
    | exact h
    | simp +contextual (maxDischargeDepth := 20) [*]

@[simp] theorem putVat_canon {s : State} (o : Nat) (bs : List Byte) (h : s.Canon) : (State.putVat s o bs).Canon := by
  unfold State.putVat
  split
  · exact canon_mk.mpr ⟨h.vat, h.ram, putBytes_wf h.tiles _ _, h.cache, h.getPats⟩
  · exact canon_mk.mpr ⟨putBytes_wf h.vat _ _, h.ram, h.tiles, h.cache, h.getPats⟩

@[simp] theorem pokeBytes_canon {s : State} (a : Nat) (bs : List Byte) (h : s.Canon) : (State.pokeBytes s a bs).Canon := by
  unfold State.pokeBytes
  try dsimp only
  repeat' split
  all_goals first
    | exact h
    | simp +contextual (maxDischargeDepth := 20) [*]

theorem recordAll_canon {s : State} (l : List (Nat × List Byte)) (h : s.Canon) : ∀ t, State.recordAll s l = some t → t.Canon := by
  induction l generalizing s with
  | nil =>
    intro t ht
    cases ht
    exact h
  | cons p r ih =>
    intro t ht
    unfold State.recordAll at ht
    split at ht
    · exact ih (korniPut_canon _ _ _ _ h) t ht
    · cases ht

@[simp] theorem eddyPoke_canon {s : State} (id : BitVec 4) (ps : List (Nat × List Byte)) (h : s.Canon) : (State.eddyPoke s id ps).Canon := by
  have hr := recordAll_canon ps h
  unfold State.eddyPoke
  split
  · exact h
  · rename_i heq
    exact respondWrite_canon _ _ (foldl_canon (fun _ _ ht => pokeBytes_canon _ _ ht) _ (hr _ heq))

@[simp] theorem errorTo_canon (k : EddyCmd) {s : State} (h : s.Canon) : (EddyCmd.errorTo k s).Canon := by
  unfold EddyCmd.errorTo
  try dsimp only
  repeat' split
  all_goals first
    | exact h
    | simp +contextual (maxDischargeDepth := 20) [*]

theorem eddyMeets_canon {s : State} (k : EddyCmd) (h : s.Canon) : (State.eddyMeets s k).1.Canon := by
  unfold State.eddyMeets
  split
  · exact h
  · split
    · exact meetsError_canon _ _ _ _ h
    · exact h
  · split
    · exact meetsError_canon _ _ _ _ h
    · exact h

@[simp] theorem eddyReach_canon {s : State} (k : EddyCmd) (bs : List Byte) (h : s.Canon) : (State.eddyReach s k bs).Canon := by
  have hm := eddyMeets_canon k h
  unfold State.eddyReach
  split
  · exact eddyPoke_canon _ _ h
  · dsimp only
    split
    · exact errorTo_canon _ hm
    · exact respondRead_canon _ _ _ _ _ hm

@[simp] theorem readColumns_canon {s : State} (o : Nat) (h : s.Canon) : (State.readColumns s o).Canon := compareAll_canon _ h

@[simp] theorem eddyVat_canon {s : State} (k : EddyCmd) (h : s.Canon) : (State.eddyVat s k).Canon := by
  have hr := readColumns_canon (k.addr - 0x40000000) h
  unfold State.eddyVat
  dsimp only
  split
  · exact errorTo_canon _ h
  · split
    · exact h
    · split
      · exact errorTo_canon _ hr
      · exact eddyReach_canon _ _ (ite_canon hr (mark_canon _ hr))

@[simp] theorem eddySeq_canon {s : State} (k : EddyCmd) (h : s.Canon) : (State.eddySeq s k).Canon := by
  unfold State.eddySeq
  try dsimp only
  repeat' split
  all_goals first
    | exact h
    | simp +contextual (maxDischargeDepth := 20) [*]

@[simp] theorem eddyWindow_canon {s : State} (k : EddyCmd) (h : s.Canon) : (State.eddyWindow s k).Canon := by
  unfold State.eddyWindow
  split
  · exact h
  · split
    · exact errorTo_canon _ h
    · rename_i off p _ _
      have hr := readReg_canon k.dom off p h
      split
      · exact regWrite_canon _ _ _ _ _ _ h
      · split
        · exact errorTo_canon _ h
        · rename_i heq
          exact respondRead_canon _ _ _ _ _ (hr _ heq)

@[simp] theorem missed_canon (k : EddyCmd) {s : State} (h : s.Canon) : (EddyCmd.missed k s).Canon := by
  unfold EddyCmd.missed
  try dsimp only
  repeat' split
  all_goals first
    | exact h
    | simp +contextual (maxDischargeDepth := 20) [*]

@[simp] theorem eddy_canon {s : State} (k : EddyCmd) (h : s.Canon) : (State.eddy s k).Canon := by
  unfold State.eddy
  try dsimp only
  repeat' split
  all_goals first
    | exact h
    | simp +contextual (maxDischargeDepth := 20) [*]

theorem execEddyCommand_canon (write : Bool) (addr : BitVec 48) (len : BitVec 6) (id : BitVec 4) (dom : BitVec 8) (data : List Byte) (be : List Bool)
    (w : Conditions) {s : State} (h : s.Canon) : OutCanon (execEddyCommand write addr len id dom data be w s) := by
  unfold execEddyCommand
  try dsimp only
  repeat' split
  all_goals first
    | exact h
    | simp +contextual (maxDischargeDepth := 20) [*]

@[simp] theorem consume_canon {s : State} (r : KorniRec) (h : s.Canon) : (State.consume s r).Canon := by
  unfold State.consume
  try dsimp only
  repeat' split
  all_goals first
    | exact h
    | simp +contextual (maxDischargeDepth := 20) [*]

@[simp] theorem diverge_canon {s : State} (c : CtxId) (n : Seq) (h : s.Canon) : (State.diverge s c n).Canon := by
  unfold State.diverge
  try dsimp only
  repeat' split
  all_goals first
    | exact h
    | simp +contextual (maxDischargeDepth := 20) [*]

@[simp] theorem replayIssue_canon {s : State} (r : KorniRec) (h : s.Canon) : (State.replayIssue s r).Canon := by
  unfold State.replayIssue
  try dsimp only
  repeat' split
  all_goals first
    | exact h
    | simp +contextual (maxDischargeDepth := 20) [*]

@[simp] theorem replayWindow_canon {s : State} (r : KorniRec) (a : Nat) (bs : List Byte) (h : s.Canon) : (State.replayWindow s r a bs).Canon := by
  have hc := consume_canon r h
  unfold State.replayWindow
  dsimp only
  split
  · exact hc
  · rename_i off p _
    have hw := tryWrite_canon off ⟨none, p, partValue p bs, true⟩ hc
    split
    · exact readFor_canon _ _ hc
    · rename_i heq
      rw [heq] at hw
      exact hw
    · exact grant_canon _ _ _ hc

@[simp] theorem replayVat_canon {s : State} (r : KorniRec) (a : Nat) (bs : List Byte) (h : s.Canon) : (State.replayVat s r a bs).Canon := by
  have hr := readColumns_canon (a - 0x40000000) h
  unfold State.replayVat
  dsimp only
  split
  · exact h
  · exact consume_canon _ (ite_canon hr (pokeBytes_canon _ _ hr))

@[simp] theorem replayWrite_canon {s : State} (r : KorniRec) (h : s.Canon) : (State.replayWrite s r).Canon := by
  unfold State.replayWrite
  try dsimp only
  repeat' split
  all_goals first
    | exact h
    | simp +contextual (maxDischargeDepth := 20) [*]

@[simp] theorem replayRace_canon {s : State} (r : KorniRec) (h : s.Canon) : (State.replayRace s r).Canon := by
  unfold State.replayRace
  try dsimp only
  repeat' split
  all_goals first
    | exact h
    | simp +contextual (maxDischargeDepth := 20) [*]

@[simp] theorem replayFront_canon {s : State} (r : KorniRec) (h : s.Canon) : (State.replayFront s r).Canon := by
  unfold State.replayFront
  try dsimp only
  repeat' split
  all_goals first
    | exact h
    | simp +contextual (maxDischargeDepth := 20) [*]

@[simp] theorem replayTrail_canon {s : State} (r : KorniRec) (h : s.Canon) : (State.replayTrail s r).Canon := by
  unfold State.replayTrail
  try dsimp only
  repeat' split
  all_goals first
    | exact h
    | simp +contextual (maxDischargeDepth := 20) [*]

theorem execKorniReplayRecord_canon (r : KorniRec) {s : State} (h : s.Canon) : OutCanon (execKorniReplayRecord r s) := by
  unfold execKorniReplayRecord
  try dsimp only
  repeat' split
  all_goals first
    | exact h
    | simp +contextual (maxDischargeDepth := 20) [*]

end Sys2Proof.Machine
end

