-- ==== Sys2Proof/Laws/Runs.lean ====
section
/-! SUPPORT. What an access that may proceed and an instruction that runs whole come to, said once for every family. -/

namespace Sys2Proof.Machine

variable {s : State} {c : CtxId} {n : Seq} {e : Entry}

/-! Table registers. -/

/-- Registers whose copies agree are read, and nothing changes (12 R405). -/
theorem compare_agrees {r : TabReg} (h : s.agrees r = true) : s.compare r = s := by
  simp only [State.agrees, Bool.and_eq_true, beq_iff_eq] at h
  unfold State.compare
  simp [Trip.vote, Trip.minority, h.1, h.2]

theorem compareAll_agrees {rs : List TabReg} (h : ∀ r ∈ rs, s.agrees r = true) : s.compareAll rs = s := by
  unfold State.compareAll
  induction rs with
  | nil => rfl
  | cons r t ih =>
    rw [List.foldl_cons, compare_agrees (h r (List.mem_cons_self ..))]
    exact ih fun q hq => h q (List.mem_cons_of_mem _ hq)

/-! Accesses. -/

theorem pages_vat {r : Run} (h : inVat r.addr = true) : r.pages = [] := by
  unfold Run.pages
  rw [if_pos (Or.inr h)]

theorem pagesOf_vat {rs : List Run} (h : ∀ r ∈ rs, inVat r.addr = true) : pagesOf rs = [] := by
  have e : rs.flatMap Run.pages = [] := List.flatMap_eq_nil_iff.2 fun r hr => pages_vat (h r hr)
  unfold pagesOf
  rw [e]
  rfl

theorem linesOf_vat {rs : List Run} (who : Nat) (w : Bool) (h : ∀ r ∈ rs, inVat r.addr = true) : s.linesOf c who w rs = [] := by
  refine List.flatMap_eq_nil_iff.2 fun r hr => ?_
  unfold State.runLines
  rw [if_pos (Or.inr (h r hr))]

theorem rowFault_vat {rs : List Run} (who : Nat) (w : Bool) (h : ∀ r ∈ rs, inVat r.addr = true) : s.rowFault c who w rs = none := by
  unfold State.rowFault
  induction rs with
  | nil => rfl
  | cons r t ih =>
    have hr : s.runRowFault c who w r = none := by
      unfold State.runRowFault
      rw [pages_vat (h r (List.mem_cons_self ..))]
      rfl
    rw [List.foldl_cons, hr]
    exact ih fun q hq => h q (List.mem_cons_of_mem _ hq)

/-- Where no byte is misplaced, the whole access decides its fault (03 R96). -/
@[simp] theorem decisive_none (rs : List Run) : decisive none rs = rs := rfl

@[simp] theorem lowerFault_none (y : Option (Int × Nat)) : lowerFault none y = y := rfl

@[simp] theorem lowestLine_nil : lowestLine [] = none := rfl

/-- What `vatReady` says, point by point. -/
theorem vatReady_iff {rs : List Run} : s.vatReady c rs = true ↔
    (∀ r ∈ rs, inVat r.addr = true) ∧ s.lowestFault c rs = none ∧ (∀ r ∈ rs, s.mapFault r = none) ∧ ∀ r ∈ rs, r.vatBusy s = false := by
  simp [State.vatReady, and_assoc]

/-- An access of the Vat that is ready proceeds, and changes nothing. -/
theorem reach_vat {rs : List Run} (who : Nat) (w : Bool) (h : s.vatReady c rs = true) : s.reach c who w rs = .ok s := by
  obtain ⟨h1, h2, h3, h4⟩ := vatReady_iff.1 h
  have hm : rs.findSome? s.mapFault = none := List.findSome?_eq_none_iff.2 h3
  have hb : rs.any (Run.vatBusy s) = false := List.any_eq_false.2 fun r hr => by simp [h4 r hr]
  unfold State.reach
  simp [h2, pagesOf_vat h1, rowFault_vat who w h1, hm, hb, linesOf_vat who w h1]

/-- A read of the Vat that is ready proceeds, and changes nothing. -/
theorem reachRead_vat {rs : List Run} (who : Nat) (h : s.vatReady c rs = true) : s.reachRead c who rs = .ok s := by
  unfold State.reachRead
  rw [reach_vat who false h]
  simp [linesOf_vat who false (vatReady_iff.1 h).1]

/-- A read that answers its own state may proceed; and a write. -/
theorem readable_of {rs : List Run} {who : Nat} (h : s.reachRead c who rs = .ok s) : s.readable c who rs = true := by
  simp [State.readable, h]
theorem writable_of {rs : List Run} {who : Nat} (h : s.reach c who true rs = .ok s) : s.writable c who rs = true := by
  simp [State.writable, h]

/-- An access of the Vat that is ready may be read and written. -/
theorem readable_vat {rs : List Run} (who : Nat) (h : s.vatReady c rs = true) : s.readable c who rs = true := by
  unfold State.readable
  rw [reachRead_vat who h]
  exact beq_self_eq_true _

theorem writable_vat {rs : List Run} (who : Nat) (h : s.vatReady c rs = true) : s.writable c who rs = true := by
  unfold State.writable
  rw [reach_vat who true h]
  exact beq_self_eq_true _

/-- A translation that has been answered is not asked for again. -/
theorem askXlat_answered {who page : Nat} {w : Bool} (h : (s.xlatAns c who w page).isSome = true) : s.askXlat c who w page = s := by
  unfold State.askXlat
  split
  · rfl
  · rename_i hx
    simp [State.xlatAns, hx] at h

/-- A request for another page takes no answer away. -/
theorem xlatAns_askXlat {who p q : Nat} {w : Bool} (h : (s.xlatAns c who w p).isNone = true) :
    ((s.askXlat c who w q).xlatAns c who w p).isNone = true := by
  unfold State.askXlat
  split
  · exact h
  · split
    · exact h
    · rename_i hx _ t _
      simp only [State.xlatAns, State.xlat?] at h ⊢
      rw [List.find?_append]
      cases hf : s.xlats.find? (fun t => t.ctx == c && t.who == who && t.write == w && t.page == p) with
      | some y => simpa [hf] using h
      | none => by_cases hp : q = p <;> simp [hp]

theorem xlatAns_foldl {who p : Nat} {w : Bool} (ps : List Nat) {s : State} (h : (s.xlatAns c who w p).isNone = true) :
    ((ps.foldl (fun s q => s.askXlat c who w q) s).xlatAns c who w p).isNone = true := by
  induction ps generalizing s with
  | nil => exact h
  | cons q r ih => exact ih (xlatAns_askXlat h)

/-- Pages whose translations have all come by the end were all answered before, and nothing was asked. -/
theorem foldl_askXlat {who : Nat} {w : Bool} (ps : List Nat) {s : State}
    (h : ∀ p ∈ ps, ((ps.foldl (fun s q => s.askXlat c who w q) s).xlatAns c who w p).isNone = false) :
    ps.foldl (fun s q => s.askXlat c who w q) s = s := by
  induction ps generalizing s with
  | nil => rfl
  | cons q r ih =>
    have hq : (s.xlatAns c who w q).isNone = false := by
      cases hn : (s.xlatAns c who w q).isNone with
      | false => rfl
      | true => exact absurd (xlatAns_foldl (q :: r) hn) (by rw [h q (List.mem_cons_self ..)]; exact Bool.false_ne_true)
    have hs : s.askXlat c who w q = s := askXlat_answered (by simpa using hq)
    simp only [List.foldl_cons, hs] at h ⊢
    exact ih fun p hp => h p (List.mem_cons_of_mem _ hp)

/-- An access that proceeds has changed nothing. -/
theorem reach_ok {rs : List Run} {who : Nat} {w : Bool} {t : State} (h : s.reach c who w rs = .ok t) : t = s := by
  unfold State.reach at h
  dsimp only at h
  split at h
  · cases h
  · rename_i ha
    simp only [Bool.not_eq_true, List.any_eq_false] at ha
    rw [foldl_askXlat _ fun p hp => by simpa using ha p hp] at h
    repeat' split at h
    all_goals first
      | exact (Reach.ok.inj h).symm
      | cases h

/-- A request for a line leaves the lines that are held. -/
@[simp] theorem askLine_lines (who line : Nat) : (s.askLine c who line).lines = s.lines := by
  unfold State.askLine
  repeat' split
  all_goals rfl

@[simp] theorem foldl_askLine_lines {who : Nat} (ls : List (Nat × Nat)) {s : State} :
    (ls.foldl (fun s l => s.askLine c who l.2) s).lines = s.lines := by
  induction ls generalizing s with
  | nil => rfl
  | cons l r ih => exact ih.trans (askLine_lines who l.2)

/-- Lines that are all held are not asked for. -/
theorem foldl_askLine {who : Nat} (ls : List (Nat × Nat)) {s : State}
    (h : ∀ l ∈ ls, (ls.foldl (fun s l => s.askLine c who l.2) s).lines.contains l.2 = true) :
    ls.foldl (fun s l => s.askLine c who l.2) s = s := by
  simp only [foldl_askLine_lines] at h
  induction ls with
  | nil => rfl
  | cons l r ih =>
    have hl : s.askLine c who l.2 = s := by
      unfold State.askLine
      rw [if_pos (by rw [h l (List.mem_cons_self ..), Bool.true_or, Bool.true_or])]
    rw [List.foldl_cons, hl]
    exact ih fun q hq => h q (List.mem_cons_of_mem _ hq)

/-- A read that proceeds has changed nothing. -/
theorem reachRead_ok {rs : List Run} {who : Nat} {t : State} (h : s.reachRead c who rs = .ok t) : t = s := by
  unfold State.reachRead at h
  split at h
  · rename_i s1 hr
    obtain rfl := reach_ok hr
    dsimp only at h
    split at h
    · cases h
    · split at h
      · cases h
      · rename_i hl
        obtain rfl := Reach.ok.inj h
        simp only [Bool.not_eq_true, List.any_eq_false, Bool.not_eq_false'] at hl
        exact foldl_askLine _ hl
  · rename_i hx
    exact absurd h (hx t)

/-- Whether an access of the Vat is ready depends on the context's lease and security, the spare map, the hosting reserve and the tests
alone. -/
theorem vatReady_congr {t : State} (rs : List Run) (hl : (t.ctx c).vlease = (s.ctx c).vlease) (hs : (t.ctx c).secure = (s.ctx c).secure)
    (hq : t.sec = s.sec) (ht : t.tab = s.tab) (hst : t.st = s.st) : t.vatReady c rs = s.vatReady c rs := by
  have hp : ∀ v a, t.placeFault c v a = s.placeFault c v a := by
    intro v a
    simp only [State.placeFault, State.reserved, State.hostBad, State.hostEn, State.hostRegion, State.secureSize, hl, hs, hq, ht]
    congr
  have hr : ∀ k r, t.runFault c k r = s.runFault c k r := by
    intro k r
    simp only [State.runFault, hp]
  have ho : ∀ k, t.lowestOf c k rs = s.lowestOf c k rs := by
    intro k
    simp only [State.lowestOf, hr]
  have hf : t.lowestFault c rs = s.lowestFault c rs := by simp only [State.lowestFault, ho]
  have hb : ∀ r : Run, r.vatBusy t = r.vatBusy s := by
    intro r
    have hg : t.segmentBusy = s.segmentBusy := funext fun g => by simp only [State.segmentBusy, hst]
    simp only [Run.vatBusy, hg]
  have hm : ∀ r, t.mapFault r = s.mapFault r := by
    intro r
    have hc : t.colmapBad = s.colmapBad := funext fun g => by simp only [State.colmapBad, ht]
    have hv : t.vatMapBad = s.vatMapBad := funext fun g => by simp only [State.vatMapBad, State.hostBad, hc, ht]
    simp only [State.mapFault, hv, State.hostBad, ht]
    congr
  simp only [State.vatReady, hf, hm]
  congr 2
  exact congrArg (fun f => rs.any f) (funext hb)

/-- No byte of an access faults with a code that `k` admits where no byte of its runs does. -/
theorem lowestOf_none {k : Nat → Bool} {rs : List Run} : s.lowestOf c k rs = none ↔ ∀ r ∈ rs, s.runFault c k r = none := by
  have lf : ∀ x y, lowerFault x y = none ↔ x = none ∧ y = none := by
    intro x y
    cases x <;> cases y <;> simp [lowerFault]
    split <;> simp
  have gen : ∀ (l : List Run) (a : Option (Int × Nat)),
      l.foldl (fun a r => lowerFault a (s.runFault c k r)) a = none ↔ a = none ∧ ∀ r ∈ l, s.runFault c k r = none := by
    intro l
    induction l with
    | nil => intro a; simp
    | cons r t ih => intro a; simp [ih, lf, and_assoc]
  simpa [State.lowestOf] using gen rs none

/-- Fewer codes admitted, fewer faults. -/
theorem runFault_mono {k j : Nat → Bool} {r : Run} (h : s.runFault c k r = none) (hj : ∀ n, j n = true → k n = true) :
    s.runFault c j r = none := by
  unfold State.runFault at h ⊢
  rw [List.findSome?_eq_none_iff] at h ⊢
  intro i hi
  have := h i hi
  cases hp : s.placeFault c r.vat (r.addr + (i : Int)) with
  | none => rfl
  | some n =>
    rw [hp] at this
    simp only [Option.bind_some] at this ⊢
    cases hn : j n with
    | false => rfl
    | true => simp [hj n hn] at this

/-- No byte of an access faults where no byte faults with any code. -/
theorem lowestFault_none {rs : List Run} : s.lowestFault c rs = none ↔ ∀ r ∈ rs, s.runFault c (fun _ => true) r = none := by
  unfold State.lowestFault
  constructor
  · intro h
    have h8 : s.lowestOf c (· == 8) rs = none := lowestOf_none.2 fun r hr => runFault_mono (lowestOf_none.1 h r hr) (by
      intro n hn
      simp only [beq_iff_eq] at hn
      simp [hn])
    rw [h8] at h
    intro r hr
    exact runFault_mono (lowestOf_none.1 h r hr) fun n _ => by simp
  · intro h
    exact lowestOf_none.2 fun r hr => runFault_mono (h r hr) fun _ _ => rfl

/-- Parts of an access of the Vat that is ready are ready. -/
theorem vatReady_subset {rs qs : List Run} (h : s.vatReady c rs = true) (hs : ∀ q ∈ qs, q ∈ rs) : s.vatReady c qs = true := by
  obtain ⟨h1, h2, h3, h4⟩ := vatReady_iff.1 h
  exact vatReady_iff.2 ⟨fun r hr => h1 r (hs r hr), lowestFault_none.2 fun r hr => lowestFault_none.1 h2 r (hs r hr),
    fun r hr => h3 r (hs r hr), fun r hr => h4 r (hs r hr)⟩

/-- The demand reads of an access of the Vat are none. -/
theorem demand_vat {rs : List Run} (who : Nat) (h : ∀ r ∈ rs, inVat r.addr = true) : s.demand c who rs = s := by
  unfold State.demand
  rw [linesOf_vat who false h]
  rfl

/-- Demand reads change the telemetry alone. -/
theorem demand_spec (who : Nat) (rs : List Run) : ∃ t, s.demand c who rs = { s with tel := t } := by
  unfold State.demand
  split <;> exact ⟨_, rfl⟩

/-- Reads and writes of the Vat that are ready go on, and nothing changes. -/
theorem judge_vat {rs ws : List Run} (who : Nat) (h : s.vatReady c (rs ++ ws) = true) : s.judge c who rs ws = .ok s := by
  obtain ⟨h1, h2, _, _⟩ := vatReady_iff.1 h
  have hr : ∀ r ∈ rs, inVat r.addr = true := fun r hr => h1 r (List.mem_append_left _ hr)
  have hw : ∀ r ∈ ws, inVat r.addr = true := fun r hr => h1 r (List.mem_append_right _ hr)
  unfold State.judge
  simp [h2, pagesOf_vat hr, pagesOf_vat hw, rowFault_vat who false hr, rowFault_vat who true hw]

theorem judging_vat {rs ws : List Run} (h : s.vatReady c (rs ++ ws) = true) (r : State → Res) : judging c s e rs ws r = r s := by
  unfold judging
  rw [judge_vat _ h]

/-- Of an entry whose reads nothing is reported of, no read is hit (12 R391). -/
theorem readHit_clean (rs : List Run) (hh : s.hitOf c e.seq = .clean) : s.readHit c e rs = .ok s := by
  simp [State.readHit, hh]

/-- A read that is ready goes on with the bytes. -/
theorem reading_vat {rs : List Run} (hh : s.hitOf c e.seq = .clean) (h : s.vatReady c rs = true) (r : State → List Byte → Res) :
    reading c s e rs r = r s (s.readBytes c e.seq.toNat rs) := by
  unfold reading
  rw [reachRead_vat _ h]
  simp only [demand_vat _ (vatReady_iff.1 h).1, readHit_clean rs hh]

/-- A read that may proceed goes on with the bytes. -/
theorem reading_ready {rs : List Run} (hh : s.hitOf c e.seq = .clean) (h : s.readable c e.seq.toNat rs = true) (r : State → List Byte → Res) :
    reading c s e rs r = r (s.demand c e.seq.toNat rs) (s.readBytes c e.seq.toNat rs) := by
  unfold reading
  rw [eq_of_beq h]
  simp only [readHit_clean rs hh]

/-- A write that is ready is made. -/
theorem writing_vat {k : Carrier} {ps : List (Run × List Byte)} (h : s.vatReady c (ps.map Prod.fst) = true) (img : Option Nat)
    (r : State → Entry → Res) :
    writing k c s e img ps r =
      r (s.store k c e.seq ps) { (match img with | some j => e.note s j ps | none => e) with wrote := true } := by
  unfold writing
  rw [reach_vat _ _ h] <;> rfl

/-- A write that may proceed is made. -/
theorem writing_ready {k : Carrier} {ps : List (Run × List Byte)} (h : s.writable c e.seq.toNat (ps.map Prod.fst) = true) (img : Option Nat)
    (r : State → Entry → Res) :
    writing k c s e img ps r =
      r (s.store k c e.seq ps) { (match img with | some j => e.note s j ps | none => e) with wrote := true } := by
  unfold writing
  rw [eq_of_beq h] <;> rfl

/-! Instructions. -/

/-- The parts' units leave an entry's own progress alone. -/
def Parts.Tame (P : Parts) : Prop := ∀ c s e k t f, P.unit c s e k = .ok t f →
  f.seq = e.seq ∧ f.upTo = e.upTo ∧ f.extra = e.extra ∧ f.failed = e.failed

/-- The next unit of an entry without gaps commits. -/
theorem commitUnit_next (h : e.extra = []) : e.commitUnit e.upTo = { e with upTo := e.upTo + 1, extra := [], screenFail := 0 } := by
  unfold Entry.commitUnit Entry.unitDone
  simp [h, absorb]

/-- Units that commit run to their end. -/
theorem runUnits_of_commits {P : Parts} (hP : P.Tame) (k : Nat) : ∀ {s : State} {e : Entry} {t : State} {f : Entry}, e.extra = [] →
    P.commits c (List.range' e.upTo k) s e = some (t, f) →
    runUnits P c (List.range' e.upTo k) s e = .done t f ∧ f.failed = e.failed := by
  induction k with
  | zero =>
    intro s e t f _ h
    simp only [List.range'_zero, Parts.commits, Option.some.injEq, Prod.mk.injEq] at h
    obtain ⟨rfl, rfl⟩ := h
    exact ⟨rfl, rfl⟩
  | succ k ih =>
    intro s e t f hx h
    rw [List.range'_succ] at h ⊢
    simp only [Parts.commits] at h
    split at h
    · rename_i s1 e1 hu
      obtain ⟨h1, h2, h3, h4⟩ := hP c s e _ s1 e1 hu
      have hc := commitUnit_next (e := e1) (h3.trans hx)
      rw [h2] at hc
      rw [hc] at h
      have hnd : e.unitDone e.upTo = false := by simp [Entry.unitDone, hx]
      have hr := ih (e := { e1 with upTo := e.upTo + 1, extra := [], screenFail := 0 }) rfl h
      refine ⟨?_, hr.2.trans h4⟩
      simp only [runUnits, hnd, hu, hc]
      exact hr.1
    · cases h

/-- The format entries whose copies agree are not bad (12 R406). -/
theorem entriesBad_agrees {ns : List Nat} (h : ∀ r ∈ fmtRegs ns, s.agrees r = true) : s.entriesBad ns = none := by
  have hn : ns.find? s.fmtBad.contains = none := by
    refine List.find?_eq_none.2 fun k hk hc => ?_
    simp only [State.fmtBad, List.contains_eq_mem, List.mem_map, List.mem_filter, List.mem_range, decide_eq_true_eq, beq_iff_eq] at hc
    obtain ⟨i, ⟨hi, hv⟩, rfl⟩ := hc
    have hr := h (.fmt (Fin.ofNat 16 (i + 16 - 16)))
      (List.mem_map.2 ⟨i + 16, List.mem_filter.2 ⟨hk, by simp; omega⟩, rfl⟩)
    have hf : (Fin.ofNat 16 (i + 16 - 16)) = ⟨i, hi⟩ := by apply Fin.ext; simp; omega
    rw [hf] at hr
    simp only [State.agrees, Bool.and_eq_true, beq_iff_eq, TabReg.get] at hr
    have hg : (s.tab.fmt[i]?).getD {} = s.tab.fmt[(⟨i, hi⟩ : Fin 16)] := by simp [hi]
    rw [hg] at hv
    unfold Trip.vote at hv
    rw [if_pos hr.1] at hv
    cases hv
  unfold State.entriesBad
  rw [hn]
  rfl

/-- A register whose copies agree has a value in force (12 R404). -/
theorem vote_agrees {r : TabReg} (h : s.agrees r = true) : (r.get s.tab).vote = some (r.get s.tab).a := by
  simp only [State.agrees, Bool.and_eq_true, beq_iff_eq] at h
  simp [Trip.vote, h.1]

/-- Where the copies of the plane register agree no instruction faults for it (12 R406). -/
theorem planeFault_agrees {i : Insn} (h : ∀ r ∈ s.mapRegs i, s.agrees r = true) : s.planeFault i = none := by
  unfold State.planeFault
  split
  · rename_i o ho
    split
    · rename_i hc
      simp only [Bool.and_eq_true] at hc
      have hr := h .sparePlane (by simp [State.mapRegs, Insn.mapRegs, ho, hc.1])
      simp only [State.agrees, Bool.and_eq_true, beq_iff_eq, TabReg.get] at hr
      simp [State.planeMapBad, Trip.vote, hr.1] at hc
    · rfl
  · rfl

/-- The columns of a segment whose copies all agree are known (12 R406). -/
theorem colmapBad_agrees (h : ∀ r ∈ columnRegs, s.agrees r = true) {g : Nat} (hg : g < 16) : s.colmapBad g = false := by
  simp only [State.colmapBad, List.any_eq_false, List.mem_range, beq_iff_eq]
  intro i hi hn
  have hj : 8 * g + i < 128 := by omega
  have hv := vote_agrees (h (.colmap ⟨8 * g + i, hj⟩) (by simp [columnRegs]))
  simp [TabReg.get] at hv
  simp [hj, hv] at hn

/-- The tiles that a fault of an instruction can name are among its tiles. -/
theorem operandTiles_tiles {i : Insn} {t : Nat × Nat × Nat} (h : t ∈ i.operandTiles) : t.1 ∈ i.tiles := by
  unfold Insn.operandTiles at h
  unfold Insn.tiles
  split at h
  · cases h
  · rename_i o ho
    have hp : ∀ (l : List Nat) (f : Nat → Nat × Nat × Nat) (g : Nat → Nat), (∀ x, (f x).1 = g x) → t ∈ l.map f → t.1 ∈ l.map g := by
      intro l f g hf h
      obtain ⟨x, hx, rfl⟩ := List.mem_map.1 h
      exact List.mem_map.2 ⟨x, hx, (hf x).symm⟩
    have hi : ∀ (l : List Nat) (f : Nat → Nat × Nat × Nat), (∀ x, (f x).1 = x) → t ∈ l.map f → t.1 ∈ l := by
      intro l f hf h
      simpa using hp l f id hf h
    have hs {a : Nat × Nat × Nat} (h : t ∈ [a]) : t.1 ∈ [a.1] := by rw [List.mem_singleton.1 h]; exact List.mem_singleton.2 rfl
    simp only [ho, List.mem_append]
    cases o
    case tsave | trestore => exact Or.inr (hp _ _ _ (fun _ => rfl) h)
    case sperm => exact Or.inr (hi _ _ (fun _ => rfl) h)
    case tldG =>
      rcases List.mem_cons.1 h with rfl | h
      · simp [Op.usesTd]
      · exact Or.inr (hi _ _ (fun _ => rfl) h)
    case permX | hrot =>
      rcases List.mem_append.1 h with h | h
      · exact Or.inr (List.mem_append_left _ (hi _ _ (fun _ => rfl) h))
      · exact Or.inr (List.mem_append_right _ (hi _ _ (fun _ => rfl) h))
    all_goals
      refine Or.inl ?_
      simp only [List.mem_append] at h
      rcases h with (h | h) | h
      · refine Or.inl (Or.inl ?_)
        simp only [List.mem_ite_nil_right] at h ⊢
        exact ⟨h.1, hs h.2⟩
      · refine Or.inl (Or.inr ?_)
        simp only [List.mem_ite_nil_right] at h ⊢
        exact ⟨h.1, hs h.2⟩
      · refine Or.inr ?_
        simp only [List.mem_ite_nil_right] at h ⊢
        exact ⟨h.1, hs h.2⟩

/-- Where the copies of the registers that an instruction reads agree it does not fault for the columns of the hosting reserve (12 R406). -/
theorem hostedMapFault_agrees {i : Insn} (h : ∀ r ∈ s.mapRegs i, s.agrees r = true) : s.hostedMapFault i = none := by
  unfold State.hostedMapFault
  split
  · rfl
  · split
    · rename_i t g ht hg
      have hc : ∀ r ∈ columnRegs, s.agrees r = true := by
        intro r hr
        refine h r ?_
        have hm : i.tiles.any (fun t => s.hosted (t / 8)) = true :=
          List.any_eq_true.2 ⟨t.1, operandTiles_tiles (List.mem_of_find?_eq_some ht), by simpa using List.find?_some ht⟩
        cases hu : i.usesMemory <;> simp [State.mapRegs, Insn.mapRegs, hu, hm, hr]
      have hb := List.find?_some hg
      rw [colmapBad_agrees hc (by simpa using List.mem_of_find?_eq_some hg)] at hb
      cases hb
    · rfl

/-- What stands in a window is put back as it is. -/
theorem putEntry_same (h : (s.ctx c).entry n = some e) : s.putEntry c e = s := by
  have hs : ∀ l : List Entry, l.find? (fun f => f.seq == n) = some e → setEntry e l = l := by
    intro l
    induction l with
    | nil => intro h; cases h
    | cons f r ih =>
      intro h
      rw [List.find?_cons] at h
      have hn : e.seq = n := by
        have := List.find?_some (p := fun f : Entry => f.seq == n) (l := f :: r) (a := e) (by rw [List.find?_cons]; exact h)
        exact eq_of_beq this
      unfold setEntry
      split at h
      · injection h with h
        rw [h, if_pos rfl]
      · rename_i hf
        rw [if_neg (by rw [hn]; simpa using hf), ih h]
  have hw : ({ s.ctx c with window := setEntry e (s.ctx c).window } : Ctx) = s.ctx c := by rw [hs _ h]
  unfold State.putEntry State.upCtx State.setCtx
  simp only [hw]
  have : s.ctxs.set c (s.ctx c) = s.ctxs := by
    unfold State.ctx
    exact Vector.set_getElem_self (xs := s.ctxs) (i := c.val) c.isLt
  rw [this]

/-- The format entries of an entry that stand as they did leave it as it is. -/
theorem readUnnamed_same (h : (s.readUnnamed e).fmts = e.fmts) : s.readUnnamed e = e := by
  unfold State.readUnnamed at h ⊢
  split
  · rfl
  · rename_i ns hn
    simp only at h
    rw [h]

/-- Nothing has been reported of an entry's reads. -/
theorem hit_same (h : e.hit = .clean) : ({ e with hit := .clean } : Entry) = e := by
  cases e
  cases h
  rfl

/-- What a poised instruction is, point by point. -/
theorem poised_iff : s.poised c n e = true ↔ s.up = true ∧ (s.ctx c).entry n = some e ∧ (s.ctx c).mayRun e = true ∧ e.started = false ∧
    e.failed = none ∧ e.extra = [] ∧ e.fmtBad = [] ∧ e.hit = .clean ∧ (∀ r ∈ s.mapRegs e.insn, s.agrees r = true) ∧
        (∀ r ∈ fmtRegs (s.unnamedFmts e.insn), s.agrees r = true) ∧ (s.readUnnamed e).fmts = e.fmts ∧ s.unitsServe e.insn = true := by
  simp [State.poised, State.agreesFor, State.startRegs, and_assoc]

/-- Where the copies of the registers that it reads agree, and the units that it needs serve, an instruction goes on and nothing has changed
(12 R392, R405). -/
theorem served_agrees (ha : ∀ r ∈ s.mapRegs e.insn, s.agrees r = true) (hu : s.unitsServe e.insn = true) (go : State → State) :
    s.served e go = go s := by
  unfold State.served
  simp only [compareAll_agrees ha, hu, if_true]

/-- The checks of a poised instruction are its own. -/
theorem startEntry_poised {P : Parts} (hp : s.poised c n e = true) {s1 : State} {e1 : Entry} (hs : P.start c s e = .ok s1 e1) :
    State.startEntry P c s e = .ok (s1.dropXlats c e1.seq.toNat) e1.begun := by
  obtain ⟨_, h2, _, h4, _, _, h7, hh, ha, hu, hf, _⟩ := poised_iff.1 hp
  unfold State.startEntry
  simp only [compareAll_agrees hu, readUnnamed_same hf, putEntry_same h2, hit_same hh, hs]
  rw [if_neg (by simp [h4])]
  simp only [Entry.tableFault, h7, firstOf, entriesBad_agrees hu, planeFault_agrees ha, hostedMapFault_agrees ha]
  rfl

/-- A poised instruction whose checks pass, whose units commit and whose trail record has room runs whole. -/
theorem runInsn_whole {P : Parts} (hP : P.Tame) {kind : Insn → Bool} (hp : s.poised c n e = true) (hk : kind e.insn = true) {s1 : State}
    {e1 : Entry} (hs : P.start c s e = .ok s1 e1) (hx : e1.extra = []) (hf : e1.failed = none) {t : State} {f : Entry}
    (hc : P.commits c (P.left (s1.dropXlats c e1.seq.toNat) e1.begun) (s1.dropXlats c e1.seq.toNat) e1.begun = some (t, f))
    (ht : t.trailReady = true) : State.runInsn P kind c n s = (P.finish c t f).completes c f := by
  obtain ⟨_, h2, h3, _, _, _, _, _, ha, _, _, h9⟩ := poised_iff.1 hp
  have hst := startEntry_poised hp hs
  have hr := runUnits_of_commits hP _ (e := e1.begun) hx hc
  have hf' : e1.begun.failed = none := hf
  unfold State.runInsn
  simp only [h2, hk, h3, Bool.and_self, if_true, served_agrees ha h9]
  unfold State.runEntry
  rw [hst]
  simp only
  unfold State.runFrom
  simp only [hf']
  unfold Parts.left at hc hr
  rw [hr.1]
  simp only [hr.2, hf']
  unfold State.finishEntry
  rw [if_pos ht]
  rfl

end Sys2Proof.Machine
end

