-- ==== Sys2Proof/Laws/State.lean ====
section
/-! SUPPORT. For each named update of the state, one lemma for each field that it leaves alone, and what reading gives after
it; with them no proof unfolds a record update. -/

namespace Sys2Proof.Machine

variable (s : State)

/-! setCtx. -/

@[simp] theorem setCtx_pending (c : CtxId) (x : Ctx) : (s.setCtx c x).pending = s.pending := rfl
@[simp] theorem setCtx_powered (c : CtxId) (x : Ctx) : (s.setCtx c x).powered = s.powered := rfl
@[simp] theorem setCtx_inReset (c : CtxId) (x : Ctx) : (s.setCtx c x).inReset = s.inReset := rfl
@[simp] theorem setCtx_clock (c : CtxId) (x : Ctx) : (s.setCtx c x).clock = s.clock := rfl
@[simp] theorem setCtx_freeCtr (c : CtxId) (x : Ctx) : (s.setCtx c x).freeCtr = s.freeCtr := rfl
@[simp] theorem setCtx_ans (c : CtxId) (x : Ctx) : (s.setCtx c x).ans = s.ans := rfl
@[simp] theorem setCtx_resp (c : CtxId) (x : Ctx) : (s.setCtx c x).resp = s.resp := rfl
@[simp] theorem setCtx_leaseWaits (c : CtxId) (x : Ctx) : (s.setCtx c x).leaseWaits = s.leaseWaits := rfl
@[simp] theorem setCtx_fuses (c : CtxId) (x : Ctx) : (s.setCtx c x).fuses = s.fuses := rfl
@[simp] theorem setCtx_glob (c : CtxId) (x : Ctx) : (s.setCtx c x).glob = s.glob := rfl
@[simp] theorem setCtx_tel (c : CtxId) (x : Ctx) : (s.setCtx c x).tel = s.tel := rfl
@[simp] theorem setCtx_dbg (c : CtxId) (x : Ctx) : (s.setCtx c x).dbg = s.dbg := rfl
@[simp] theorem setCtx_felt (c : CtxId) (x : Ctx) : (s.setCtx c x).felt = s.felt := rfl
@[simp] theorem setCtx_ports (c : CtxId) (x : Ctx) : (s.setCtx c x).ports = s.ports := rfl
@[simp] theorem setCtx_sb (c : CtxId) (x : Ctx) : (s.setCtx c x).sb = s.sb := rfl
@[simp] theorem setCtx_pwr (c : CtxId) (x : Ctx) : (s.setCtx c x).pwr = s.pwr := rfl
@[simp] theorem setCtx_islands (c : CtxId) (x : Ctx) : (s.setCtx c x).islands = s.islands := rfl
@[simp] theorem setCtx_evtPtr (c : CtxId) (x : Ctx) : (s.setCtx c x).evtPtr = s.evtPtr := rfl
@[simp] theorem setCtx_evtOut (c : CtxId) (x : Ctx) : (s.setCtx c x).evtOut = s.evtOut := rfl
@[simp] theorem setCtx_evtHeld (c : CtxId) (x : Ctx) : (s.setCtx c x).evtHeld = s.evtHeld := rfl
@[simp] theorem setCtx_tiles (c : CtxId) (x : Ctx) : (s.setCtx c x).tiles = s.tiles := rfl
@[simp] theorem setCtx_tileMem (c : CtxId) (x : Ctx) : (s.setCtx c x).tileMem = s.tileMem := rfl
@[simp] theorem setCtx_tileOwner (c : CtxId) (x : Ctx) : (s.setCtx c x).tileOwner = s.tileOwner := rfl
@[simp] theorem setCtx_regionOwner (c : CtxId) (x : Ctx) : (s.setCtx c x).regionOwner = s.regionOwner := rfl
@[simp] theorem setCtx_vat (c : CtxId) (x : Ctx) : (s.setCtx c x).vat = s.vat := rfl
@[simp] theorem setCtx_ram (c : CtxId) (x : Ctx) : (s.setCtx c x).ram = s.ram := rfl
@[simp] theorem setCtx_lines (c : CtxId) (x : Ctx) : (s.setCtx c x).lines = s.lines := rfl
@[simp] theorem setCtx_cache (c : CtxId) (x : Ctx) : (s.setCtx c x).cache = s.cache := rfl
@[simp] theorem setCtx_bad (c : CtxId) (x : Ctx) : (s.setCtx c x).bad = s.bad := rfl
@[simp] theorem setCtx_reads (c : CtxId) (x : Ctx) : (s.setCtx c x).reads = s.reads := rfl
@[simp] theorem setCtx_xlats (c : CtxId) (x : Ctx) : (s.setCtx c x).xlats = s.xlats := rfl
@[simp] theorem setCtx_unacked (c : CtxId) (x : Ctx) : (s.setCtx c x).unacked = s.unacked := rfl
@[simp] theorem setCtx_laneFree (c : CtxId) (x : Ctx) : (s.setCtx c x).laneFree = s.laneFree := rfl
@[simp] theorem setCtx_tab (c : CtxId) (x : Ctx) : (s.setCtx c x).tab = s.tab := rfl
@[simp] theorem setCtx_front (c : CtxId) (x : Ctx) : (s.setCtx c x).front = s.front := rfl
@[simp] theorem setCtx_korni (c : CtxId) (x : Ctx) : (s.setCtx c x).korni = s.korni := rfl
@[simp] theorem setCtx_err (c : CtxId) (x : Ctx) : (s.setCtx c x).err = s.err := rfl
@[simp] theorem setCtx_st (c : CtxId) (x : Ctx) : (s.setCtx c x).st = s.st := rfl
@[simp] theorem setCtx_screen (c : CtxId) (x : Ctx) : (s.setCtx c x).screen = s.screen := rfl
@[simp] theorem setCtx_sec (c : CtxId) (x : Ctx) : (s.setCtx c x).sec = s.sec := rfl

/-! upCtx. -/

@[simp] theorem upCtx_pending (c : CtxId) (f : Ctx → Ctx) : (s.upCtx c f).pending = s.pending := rfl
@[simp] theorem upCtx_powered (c : CtxId) (f : Ctx → Ctx) : (s.upCtx c f).powered = s.powered := rfl
@[simp] theorem upCtx_inReset (c : CtxId) (f : Ctx → Ctx) : (s.upCtx c f).inReset = s.inReset := rfl
@[simp] theorem upCtx_clock (c : CtxId) (f : Ctx → Ctx) : (s.upCtx c f).clock = s.clock := rfl
@[simp] theorem upCtx_freeCtr (c : CtxId) (f : Ctx → Ctx) : (s.upCtx c f).freeCtr = s.freeCtr := rfl
@[simp] theorem upCtx_ans (c : CtxId) (f : Ctx → Ctx) : (s.upCtx c f).ans = s.ans := rfl
@[simp] theorem upCtx_resp (c : CtxId) (f : Ctx → Ctx) : (s.upCtx c f).resp = s.resp := rfl
@[simp] theorem upCtx_leaseWaits (c : CtxId) (f : Ctx → Ctx) : (s.upCtx c f).leaseWaits = s.leaseWaits := rfl
@[simp] theorem upCtx_fuses (c : CtxId) (f : Ctx → Ctx) : (s.upCtx c f).fuses = s.fuses := rfl
@[simp] theorem upCtx_glob (c : CtxId) (f : Ctx → Ctx) : (s.upCtx c f).glob = s.glob := rfl
@[simp] theorem upCtx_tel (c : CtxId) (f : Ctx → Ctx) : (s.upCtx c f).tel = s.tel := rfl
@[simp] theorem upCtx_dbg (c : CtxId) (f : Ctx → Ctx) : (s.upCtx c f).dbg = s.dbg := rfl
@[simp] theorem upCtx_felt (c : CtxId) (f : Ctx → Ctx) : (s.upCtx c f).felt = s.felt := rfl
@[simp] theorem upCtx_ports (c : CtxId) (f : Ctx → Ctx) : (s.upCtx c f).ports = s.ports := rfl
@[simp] theorem upCtx_sb (c : CtxId) (f : Ctx → Ctx) : (s.upCtx c f).sb = s.sb := rfl
@[simp] theorem upCtx_pwr (c : CtxId) (f : Ctx → Ctx) : (s.upCtx c f).pwr = s.pwr := rfl
@[simp] theorem upCtx_islands (c : CtxId) (f : Ctx → Ctx) : (s.upCtx c f).islands = s.islands := rfl
@[simp] theorem upCtx_evtPtr (c : CtxId) (f : Ctx → Ctx) : (s.upCtx c f).evtPtr = s.evtPtr := rfl
@[simp] theorem upCtx_evtOut (c : CtxId) (f : Ctx → Ctx) : (s.upCtx c f).evtOut = s.evtOut := rfl
@[simp] theorem upCtx_evtHeld (c : CtxId) (f : Ctx → Ctx) : (s.upCtx c f).evtHeld = s.evtHeld := rfl
@[simp] theorem upCtx_tiles (c : CtxId) (f : Ctx → Ctx) : (s.upCtx c f).tiles = s.tiles := rfl
@[simp] theorem upCtx_tileMem (c : CtxId) (f : Ctx → Ctx) : (s.upCtx c f).tileMem = s.tileMem := rfl
@[simp] theorem upCtx_tileOwner (c : CtxId) (f : Ctx → Ctx) : (s.upCtx c f).tileOwner = s.tileOwner := rfl
@[simp] theorem upCtx_regionOwner (c : CtxId) (f : Ctx → Ctx) : (s.upCtx c f).regionOwner = s.regionOwner := rfl
@[simp] theorem upCtx_vat (c : CtxId) (f : Ctx → Ctx) : (s.upCtx c f).vat = s.vat := rfl
@[simp] theorem upCtx_ram (c : CtxId) (f : Ctx → Ctx) : (s.upCtx c f).ram = s.ram := rfl
@[simp] theorem upCtx_lines (c : CtxId) (f : Ctx → Ctx) : (s.upCtx c f).lines = s.lines := rfl
@[simp] theorem upCtx_cache (c : CtxId) (f : Ctx → Ctx) : (s.upCtx c f).cache = s.cache := rfl
@[simp] theorem upCtx_bad (c : CtxId) (f : Ctx → Ctx) : (s.upCtx c f).bad = s.bad := rfl
@[simp] theorem upCtx_reads (c : CtxId) (f : Ctx → Ctx) : (s.upCtx c f).reads = s.reads := rfl
@[simp] theorem upCtx_xlats (c : CtxId) (f : Ctx → Ctx) : (s.upCtx c f).xlats = s.xlats := rfl
@[simp] theorem upCtx_unacked (c : CtxId) (f : Ctx → Ctx) : (s.upCtx c f).unacked = s.unacked := rfl
@[simp] theorem upCtx_laneFree (c : CtxId) (f : Ctx → Ctx) : (s.upCtx c f).laneFree = s.laneFree := rfl
@[simp] theorem upCtx_tab (c : CtxId) (f : Ctx → Ctx) : (s.upCtx c f).tab = s.tab := rfl
@[simp] theorem upCtx_front (c : CtxId) (f : Ctx → Ctx) : (s.upCtx c f).front = s.front := rfl
@[simp] theorem upCtx_korni (c : CtxId) (f : Ctx → Ctx) : (s.upCtx c f).korni = s.korni := rfl
@[simp] theorem upCtx_err (c : CtxId) (f : Ctx → Ctx) : (s.upCtx c f).err = s.err := rfl
@[simp] theorem upCtx_st (c : CtxId) (f : Ctx → Ctx) : (s.upCtx c f).st = s.st := rfl
@[simp] theorem upCtx_screen (c : CtxId) (f : Ctx → Ctx) : (s.upCtx c f).screen = s.screen := rfl
@[simp] theorem upCtx_sec (c : CtxId) (f : Ctx → Ctx) : (s.upCtx c f).sec = s.sec := rfl

/-! putEntry. -/

@[simp] theorem putEntry_pending (c : CtxId) (e : Entry) : (s.putEntry c e).pending = s.pending := rfl
@[simp] theorem putEntry_powered (c : CtxId) (e : Entry) : (s.putEntry c e).powered = s.powered := rfl
@[simp] theorem putEntry_inReset (c : CtxId) (e : Entry) : (s.putEntry c e).inReset = s.inReset := rfl
@[simp] theorem putEntry_clock (c : CtxId) (e : Entry) : (s.putEntry c e).clock = s.clock := rfl
@[simp] theorem putEntry_freeCtr (c : CtxId) (e : Entry) : (s.putEntry c e).freeCtr = s.freeCtr := rfl
@[simp] theorem putEntry_ans (c : CtxId) (e : Entry) : (s.putEntry c e).ans = s.ans := rfl
@[simp] theorem putEntry_resp (c : CtxId) (e : Entry) : (s.putEntry c e).resp = s.resp := rfl
@[simp] theorem putEntry_leaseWaits (c : CtxId) (e : Entry) : (s.putEntry c e).leaseWaits = s.leaseWaits := rfl
@[simp] theorem putEntry_fuses (c : CtxId) (e : Entry) : (s.putEntry c e).fuses = s.fuses := rfl
@[simp] theorem putEntry_glob (c : CtxId) (e : Entry) : (s.putEntry c e).glob = s.glob := rfl
@[simp] theorem putEntry_tel (c : CtxId) (e : Entry) : (s.putEntry c e).tel = s.tel := rfl
@[simp] theorem putEntry_dbg (c : CtxId) (e : Entry) : (s.putEntry c e).dbg = s.dbg := rfl
@[simp] theorem putEntry_felt (c : CtxId) (e : Entry) : (s.putEntry c e).felt = s.felt := rfl
@[simp] theorem putEntry_ports (c : CtxId) (e : Entry) : (s.putEntry c e).ports = s.ports := rfl
@[simp] theorem putEntry_sb (c : CtxId) (e : Entry) : (s.putEntry c e).sb = s.sb := rfl
@[simp] theorem putEntry_pwr (c : CtxId) (e : Entry) : (s.putEntry c e).pwr = s.pwr := rfl
@[simp] theorem putEntry_islands (c : CtxId) (e : Entry) : (s.putEntry c e).islands = s.islands := rfl
@[simp] theorem putEntry_evtPtr (c : CtxId) (e : Entry) : (s.putEntry c e).evtPtr = s.evtPtr := rfl
@[simp] theorem putEntry_evtOut (c : CtxId) (e : Entry) : (s.putEntry c e).evtOut = s.evtOut := rfl
@[simp] theorem putEntry_evtHeld (c : CtxId) (e : Entry) : (s.putEntry c e).evtHeld = s.evtHeld := rfl
@[simp] theorem putEntry_tiles (c : CtxId) (e : Entry) : (s.putEntry c e).tiles = s.tiles := rfl
@[simp] theorem putEntry_tileMem (c : CtxId) (e : Entry) : (s.putEntry c e).tileMem = s.tileMem := rfl
@[simp] theorem putEntry_tileOwner (c : CtxId) (e : Entry) : (s.putEntry c e).tileOwner = s.tileOwner := rfl
@[simp] theorem putEntry_regionOwner (c : CtxId) (e : Entry) : (s.putEntry c e).regionOwner = s.regionOwner := rfl
@[simp] theorem putEntry_vat (c : CtxId) (e : Entry) : (s.putEntry c e).vat = s.vat := rfl
@[simp] theorem putEntry_ram (c : CtxId) (e : Entry) : (s.putEntry c e).ram = s.ram := rfl
@[simp] theorem putEntry_lines (c : CtxId) (e : Entry) : (s.putEntry c e).lines = s.lines := rfl
@[simp] theorem putEntry_cache (c : CtxId) (e : Entry) : (s.putEntry c e).cache = s.cache := rfl
@[simp] theorem putEntry_bad (c : CtxId) (e : Entry) : (s.putEntry c e).bad = s.bad := rfl
@[simp] theorem putEntry_reads (c : CtxId) (e : Entry) : (s.putEntry c e).reads = s.reads := rfl
@[simp] theorem putEntry_xlats (c : CtxId) (e : Entry) : (s.putEntry c e).xlats = s.xlats := rfl
@[simp] theorem putEntry_unacked (c : CtxId) (e : Entry) : (s.putEntry c e).unacked = s.unacked := rfl
@[simp] theorem putEntry_laneFree (c : CtxId) (e : Entry) : (s.putEntry c e).laneFree = s.laneFree := rfl
@[simp] theorem putEntry_tab (c : CtxId) (e : Entry) : (s.putEntry c e).tab = s.tab := rfl
@[simp] theorem putEntry_front (c : CtxId) (e : Entry) : (s.putEntry c e).front = s.front := rfl
@[simp] theorem putEntry_korni (c : CtxId) (e : Entry) : (s.putEntry c e).korni = s.korni := rfl
@[simp] theorem putEntry_err (c : CtxId) (e : Entry) : (s.putEntry c e).err = s.err := rfl
@[simp] theorem putEntry_st (c : CtxId) (e : Entry) : (s.putEntry c e).st = s.st := rfl
@[simp] theorem putEntry_screen (c : CtxId) (e : Entry) : (s.putEntry c e).screen = s.screen := rfl
@[simp] theorem putEntry_sec (c : CtxId) (e : Entry) : (s.putEntry c e).sec = s.sec := rfl

/-! setTile. -/

@[simp] theorem setTile_pending (n : Nat) (t : Tile) : (s.setTile n t).pending = s.pending := rfl
@[simp] theorem setTile_powered (n : Nat) (t : Tile) : (s.setTile n t).powered = s.powered := rfl
@[simp] theorem setTile_inReset (n : Nat) (t : Tile) : (s.setTile n t).inReset = s.inReset := rfl
@[simp] theorem setTile_clock (n : Nat) (t : Tile) : (s.setTile n t).clock = s.clock := rfl
@[simp] theorem setTile_freeCtr (n : Nat) (t : Tile) : (s.setTile n t).freeCtr = s.freeCtr := rfl
@[simp] theorem setTile_ans (n : Nat) (t : Tile) : (s.setTile n t).ans = s.ans := rfl
@[simp] theorem setTile_resp (n : Nat) (t : Tile) : (s.setTile n t).resp = s.resp := rfl
@[simp] theorem setTile_leaseWaits (n : Nat) (t : Tile) : (s.setTile n t).leaseWaits = s.leaseWaits := rfl
@[simp] theorem setTile_fuses (n : Nat) (t : Tile) : (s.setTile n t).fuses = s.fuses := rfl
@[simp] theorem setTile_glob (n : Nat) (t : Tile) : (s.setTile n t).glob = s.glob := rfl
@[simp] theorem setTile_tel (n : Nat) (t : Tile) : (s.setTile n t).tel = s.tel := rfl
@[simp] theorem setTile_dbg (n : Nat) (t : Tile) : (s.setTile n t).dbg = s.dbg := rfl
@[simp] theorem setTile_felt (n : Nat) (t : Tile) : (s.setTile n t).felt = s.felt := rfl
@[simp] theorem setTile_ports (n : Nat) (t : Tile) : (s.setTile n t).ports = s.ports := rfl
@[simp] theorem setTile_sb (n : Nat) (t : Tile) : (s.setTile n t).sb = s.sb := rfl
@[simp] theorem setTile_pwr (n : Nat) (t : Tile) : (s.setTile n t).pwr = s.pwr := rfl
@[simp] theorem setTile_islands (n : Nat) (t : Tile) : (s.setTile n t).islands = s.islands := rfl
@[simp] theorem setTile_ctxs (n : Nat) (t : Tile) : (s.setTile n t).ctxs = s.ctxs := rfl
@[simp] theorem setTile_evtPtr (n : Nat) (t : Tile) : (s.setTile n t).evtPtr = s.evtPtr := rfl
@[simp] theorem setTile_evtOut (n : Nat) (t : Tile) : (s.setTile n t).evtOut = s.evtOut := rfl
@[simp] theorem setTile_evtHeld (n : Nat) (t : Tile) : (s.setTile n t).evtHeld = s.evtHeld := rfl
@[simp] theorem setTile_tileMem (n : Nat) (t : Tile) : (s.setTile n t).tileMem = s.tileMem := rfl
@[simp] theorem setTile_tileOwner (n : Nat) (t : Tile) : (s.setTile n t).tileOwner = s.tileOwner := rfl
@[simp] theorem setTile_regionOwner (n : Nat) (t : Tile) : (s.setTile n t).regionOwner = s.regionOwner := rfl
@[simp] theorem setTile_vat (n : Nat) (t : Tile) : (s.setTile n t).vat = s.vat := rfl
@[simp] theorem setTile_ram (n : Nat) (t : Tile) : (s.setTile n t).ram = s.ram := rfl
@[simp] theorem setTile_lines (n : Nat) (t : Tile) : (s.setTile n t).lines = s.lines := rfl
@[simp] theorem setTile_cache (n : Nat) (t : Tile) : (s.setTile n t).cache = s.cache := rfl
@[simp] theorem setTile_bad (n : Nat) (t : Tile) : (s.setTile n t).bad = s.bad := rfl
@[simp] theorem setTile_reads (n : Nat) (t : Tile) : (s.setTile n t).reads = s.reads := rfl
@[simp] theorem setTile_xlats (n : Nat) (t : Tile) : (s.setTile n t).xlats = s.xlats := rfl
@[simp] theorem setTile_unacked (n : Nat) (t : Tile) : (s.setTile n t).unacked = s.unacked := rfl
@[simp] theorem setTile_laneFree (n : Nat) (t : Tile) : (s.setTile n t).laneFree = s.laneFree := rfl
@[simp] theorem setTile_tab (n : Nat) (t : Tile) : (s.setTile n t).tab = s.tab := rfl
@[simp] theorem setTile_front (n : Nat) (t : Tile) : (s.setTile n t).front = s.front := rfl
@[simp] theorem setTile_korni (n : Nat) (t : Tile) : (s.setTile n t).korni = s.korni := rfl
@[simp] theorem setTile_err (n : Nat) (t : Tile) : (s.setTile n t).err = s.err := rfl
@[simp] theorem setTile_st (n : Nat) (t : Tile) : (s.setTile n t).st = s.st := rfl
@[simp] theorem setTile_screen (n : Nat) (t : Tile) : (s.setTile n t).screen = s.screen := rfl
@[simp] theorem setTile_sec (n : Nat) (t : Tile) : (s.setTile n t).sec = s.sec := rfl

/-! upTile. -/

@[simp] theorem upTile_pending (n : Nat) (f : Tile → Tile) : (s.upTile n f).pending = s.pending := rfl
@[simp] theorem upTile_powered (n : Nat) (f : Tile → Tile) : (s.upTile n f).powered = s.powered := rfl
@[simp] theorem upTile_inReset (n : Nat) (f : Tile → Tile) : (s.upTile n f).inReset = s.inReset := rfl
@[simp] theorem upTile_clock (n : Nat) (f : Tile → Tile) : (s.upTile n f).clock = s.clock := rfl
@[simp] theorem upTile_freeCtr (n : Nat) (f : Tile → Tile) : (s.upTile n f).freeCtr = s.freeCtr := rfl
@[simp] theorem upTile_ans (n : Nat) (f : Tile → Tile) : (s.upTile n f).ans = s.ans := rfl
@[simp] theorem upTile_resp (n : Nat) (f : Tile → Tile) : (s.upTile n f).resp = s.resp := rfl
@[simp] theorem upTile_leaseWaits (n : Nat) (f : Tile → Tile) : (s.upTile n f).leaseWaits = s.leaseWaits := rfl
@[simp] theorem upTile_fuses (n : Nat) (f : Tile → Tile) : (s.upTile n f).fuses = s.fuses := rfl
@[simp] theorem upTile_glob (n : Nat) (f : Tile → Tile) : (s.upTile n f).glob = s.glob := rfl
@[simp] theorem upTile_tel (n : Nat) (f : Tile → Tile) : (s.upTile n f).tel = s.tel := rfl
@[simp] theorem upTile_dbg (n : Nat) (f : Tile → Tile) : (s.upTile n f).dbg = s.dbg := rfl
@[simp] theorem upTile_felt (n : Nat) (f : Tile → Tile) : (s.upTile n f).felt = s.felt := rfl
@[simp] theorem upTile_ports (n : Nat) (f : Tile → Tile) : (s.upTile n f).ports = s.ports := rfl
@[simp] theorem upTile_sb (n : Nat) (f : Tile → Tile) : (s.upTile n f).sb = s.sb := rfl
@[simp] theorem upTile_pwr (n : Nat) (f : Tile → Tile) : (s.upTile n f).pwr = s.pwr := rfl
@[simp] theorem upTile_islands (n : Nat) (f : Tile → Tile) : (s.upTile n f).islands = s.islands := rfl
@[simp] theorem upTile_ctxs (n : Nat) (f : Tile → Tile) : (s.upTile n f).ctxs = s.ctxs := rfl
@[simp] theorem upTile_evtPtr (n : Nat) (f : Tile → Tile) : (s.upTile n f).evtPtr = s.evtPtr := rfl
@[simp] theorem upTile_evtOut (n : Nat) (f : Tile → Tile) : (s.upTile n f).evtOut = s.evtOut := rfl
@[simp] theorem upTile_evtHeld (n : Nat) (f : Tile → Tile) : (s.upTile n f).evtHeld = s.evtHeld := rfl
@[simp] theorem upTile_tileMem (n : Nat) (f : Tile → Tile) : (s.upTile n f).tileMem = s.tileMem := rfl
@[simp] theorem upTile_tileOwner (n : Nat) (f : Tile → Tile) : (s.upTile n f).tileOwner = s.tileOwner := rfl
@[simp] theorem upTile_regionOwner (n : Nat) (f : Tile → Tile) : (s.upTile n f).regionOwner = s.regionOwner := rfl
@[simp] theorem upTile_vat (n : Nat) (f : Tile → Tile) : (s.upTile n f).vat = s.vat := rfl
@[simp] theorem upTile_ram (n : Nat) (f : Tile → Tile) : (s.upTile n f).ram = s.ram := rfl
@[simp] theorem upTile_lines (n : Nat) (f : Tile → Tile) : (s.upTile n f).lines = s.lines := rfl
@[simp] theorem upTile_cache (n : Nat) (f : Tile → Tile) : (s.upTile n f).cache = s.cache := rfl
@[simp] theorem upTile_bad (n : Nat) (f : Tile → Tile) : (s.upTile n f).bad = s.bad := rfl
@[simp] theorem upTile_reads (n : Nat) (f : Tile → Tile) : (s.upTile n f).reads = s.reads := rfl
@[simp] theorem upTile_xlats (n : Nat) (f : Tile → Tile) : (s.upTile n f).xlats = s.xlats := rfl
@[simp] theorem upTile_unacked (n : Nat) (f : Tile → Tile) : (s.upTile n f).unacked = s.unacked := rfl
@[simp] theorem upTile_laneFree (n : Nat) (f : Tile → Tile) : (s.upTile n f).laneFree = s.laneFree := rfl
@[simp] theorem upTile_tab (n : Nat) (f : Tile → Tile) : (s.upTile n f).tab = s.tab := rfl
@[simp] theorem upTile_front (n : Nat) (f : Tile → Tile) : (s.upTile n f).front = s.front := rfl
@[simp] theorem upTile_korni (n : Nat) (f : Tile → Tile) : (s.upTile n f).korni = s.korni := rfl
@[simp] theorem upTile_err (n : Nat) (f : Tile → Tile) : (s.upTile n f).err = s.err := rfl
@[simp] theorem upTile_st (n : Nat) (f : Tile → Tile) : (s.upTile n f).st = s.st := rfl
@[simp] theorem upTile_screen (n : Nat) (f : Tile → Tile) : (s.upTile n f).screen = s.screen := rfl
@[simp] theorem upTile_sec (n : Nat) (f : Tile → Tile) : (s.upTile n f).sec = s.sec := rfl

/-! putTile. -/

@[simp] theorem putTile_pending (n o : Nat) (bs : List Byte) : (s.putTile n o bs).pending = s.pending := rfl
@[simp] theorem putTile_powered (n o : Nat) (bs : List Byte) : (s.putTile n o bs).powered = s.powered := rfl
@[simp] theorem putTile_inReset (n o : Nat) (bs : List Byte) : (s.putTile n o bs).inReset = s.inReset := rfl
@[simp] theorem putTile_clock (n o : Nat) (bs : List Byte) : (s.putTile n o bs).clock = s.clock := rfl
@[simp] theorem putTile_freeCtr (n o : Nat) (bs : List Byte) : (s.putTile n o bs).freeCtr = s.freeCtr := rfl
@[simp] theorem putTile_ans (n o : Nat) (bs : List Byte) : (s.putTile n o bs).ans = s.ans := rfl
@[simp] theorem putTile_resp (n o : Nat) (bs : List Byte) : (s.putTile n o bs).resp = s.resp := rfl
@[simp] theorem putTile_leaseWaits (n o : Nat) (bs : List Byte) : (s.putTile n o bs).leaseWaits = s.leaseWaits := rfl
@[simp] theorem putTile_fuses (n o : Nat) (bs : List Byte) : (s.putTile n o bs).fuses = s.fuses := rfl
@[simp] theorem putTile_glob (n o : Nat) (bs : List Byte) : (s.putTile n o bs).glob = s.glob := rfl
@[simp] theorem putTile_tel (n o : Nat) (bs : List Byte) : (s.putTile n o bs).tel = s.tel := rfl
@[simp] theorem putTile_dbg (n o : Nat) (bs : List Byte) : (s.putTile n o bs).dbg = s.dbg := rfl
@[simp] theorem putTile_felt (n o : Nat) (bs : List Byte) : (s.putTile n o bs).felt = s.felt := rfl
@[simp] theorem putTile_ports (n o : Nat) (bs : List Byte) : (s.putTile n o bs).ports = s.ports := rfl
@[simp] theorem putTile_sb (n o : Nat) (bs : List Byte) : (s.putTile n o bs).sb = s.sb := rfl
@[simp] theorem putTile_pwr (n o : Nat) (bs : List Byte) : (s.putTile n o bs).pwr = s.pwr := rfl
@[simp] theorem putTile_islands (n o : Nat) (bs : List Byte) : (s.putTile n o bs).islands = s.islands := rfl
@[simp] theorem putTile_ctxs (n o : Nat) (bs : List Byte) : (s.putTile n o bs).ctxs = s.ctxs := rfl
@[simp] theorem putTile_evtPtr (n o : Nat) (bs : List Byte) : (s.putTile n o bs).evtPtr = s.evtPtr := rfl
@[simp] theorem putTile_evtOut (n o : Nat) (bs : List Byte) : (s.putTile n o bs).evtOut = s.evtOut := rfl
@[simp] theorem putTile_evtHeld (n o : Nat) (bs : List Byte) : (s.putTile n o bs).evtHeld = s.evtHeld := rfl
@[simp] theorem putTile_tiles (n o : Nat) (bs : List Byte) : (s.putTile n o bs).tiles = s.tiles := rfl
@[simp] theorem putTile_tileOwner (n o : Nat) (bs : List Byte) : (s.putTile n o bs).tileOwner = s.tileOwner := rfl
@[simp] theorem putTile_regionOwner (n o : Nat) (bs : List Byte) : (s.putTile n o bs).regionOwner = s.regionOwner := rfl
@[simp] theorem putTile_vat (n o : Nat) (bs : List Byte) : (s.putTile n o bs).vat = s.vat := rfl
@[simp] theorem putTile_ram (n o : Nat) (bs : List Byte) : (s.putTile n o bs).ram = s.ram := rfl
@[simp] theorem putTile_lines (n o : Nat) (bs : List Byte) : (s.putTile n o bs).lines = s.lines := rfl
@[simp] theorem putTile_cache (n o : Nat) (bs : List Byte) : (s.putTile n o bs).cache = s.cache := rfl
@[simp] theorem putTile_bad (n o : Nat) (bs : List Byte) : (s.putTile n o bs).bad = s.bad := rfl
@[simp] theorem putTile_reads (n o : Nat) (bs : List Byte) : (s.putTile n o bs).reads = s.reads := rfl
@[simp] theorem putTile_xlats (n o : Nat) (bs : List Byte) : (s.putTile n o bs).xlats = s.xlats := rfl
@[simp] theorem putTile_unacked (n o : Nat) (bs : List Byte) : (s.putTile n o bs).unacked = s.unacked := rfl
@[simp] theorem putTile_laneFree (n o : Nat) (bs : List Byte) : (s.putTile n o bs).laneFree = s.laneFree := rfl
@[simp] theorem putTile_tab (n o : Nat) (bs : List Byte) : (s.putTile n o bs).tab = s.tab := rfl
@[simp] theorem putTile_front (n o : Nat) (bs : List Byte) : (s.putTile n o bs).front = s.front := rfl
@[simp] theorem putTile_korni (n o : Nat) (bs : List Byte) : (s.putTile n o bs).korni = s.korni := rfl
@[simp] theorem putTile_err (n o : Nat) (bs : List Byte) : (s.putTile n o bs).err = s.err := rfl
@[simp] theorem putTile_st (n o : Nat) (bs : List Byte) : (s.putTile n o bs).st = s.st := rfl
@[simp] theorem putTile_screen (n o : Nat) (bs : List Byte) : (s.putTile n o bs).screen = s.screen := rfl
@[simp] theorem putTile_sec (n o : Nat) (bs : List Byte) : (s.putTile n o bs).sec = s.sec := rfl

/-! upPort. -/

@[simp] theorem upPort_pending (p : Fin 12) (f : Port → Port) : (s.upPort p f).pending = s.pending := rfl
@[simp] theorem upPort_powered (p : Fin 12) (f : Port → Port) : (s.upPort p f).powered = s.powered := rfl
@[simp] theorem upPort_inReset (p : Fin 12) (f : Port → Port) : (s.upPort p f).inReset = s.inReset := rfl
@[simp] theorem upPort_clock (p : Fin 12) (f : Port → Port) : (s.upPort p f).clock = s.clock := rfl
@[simp] theorem upPort_freeCtr (p : Fin 12) (f : Port → Port) : (s.upPort p f).freeCtr = s.freeCtr := rfl
@[simp] theorem upPort_ans (p : Fin 12) (f : Port → Port) : (s.upPort p f).ans = s.ans := rfl
@[simp] theorem upPort_resp (p : Fin 12) (f : Port → Port) : (s.upPort p f).resp = s.resp := rfl
@[simp] theorem upPort_leaseWaits (p : Fin 12) (f : Port → Port) : (s.upPort p f).leaseWaits = s.leaseWaits := rfl
@[simp] theorem upPort_fuses (p : Fin 12) (f : Port → Port) : (s.upPort p f).fuses = s.fuses := rfl
@[simp] theorem upPort_glob (p : Fin 12) (f : Port → Port) : (s.upPort p f).glob = s.glob := rfl
@[simp] theorem upPort_tel (p : Fin 12) (f : Port → Port) : (s.upPort p f).tel = s.tel := rfl
@[simp] theorem upPort_dbg (p : Fin 12) (f : Port → Port) : (s.upPort p f).dbg = s.dbg := rfl
@[simp] theorem upPort_felt (p : Fin 12) (f : Port → Port) : (s.upPort p f).felt = s.felt := rfl
@[simp] theorem upPort_sb (p : Fin 12) (f : Port → Port) : (s.upPort p f).sb = s.sb := rfl
@[simp] theorem upPort_pwr (p : Fin 12) (f : Port → Port) : (s.upPort p f).pwr = s.pwr := rfl
@[simp] theorem upPort_islands (p : Fin 12) (f : Port → Port) : (s.upPort p f).islands = s.islands := rfl
@[simp] theorem upPort_ctxs (p : Fin 12) (f : Port → Port) : (s.upPort p f).ctxs = s.ctxs := rfl
@[simp] theorem upPort_evtPtr (p : Fin 12) (f : Port → Port) : (s.upPort p f).evtPtr = s.evtPtr := rfl
@[simp] theorem upPort_evtOut (p : Fin 12) (f : Port → Port) : (s.upPort p f).evtOut = s.evtOut := rfl
@[simp] theorem upPort_evtHeld (p : Fin 12) (f : Port → Port) : (s.upPort p f).evtHeld = s.evtHeld := rfl
@[simp] theorem upPort_tiles (p : Fin 12) (f : Port → Port) : (s.upPort p f).tiles = s.tiles := rfl
@[simp] theorem upPort_tileMem (p : Fin 12) (f : Port → Port) : (s.upPort p f).tileMem = s.tileMem := rfl
@[simp] theorem upPort_tileOwner (p : Fin 12) (f : Port → Port) : (s.upPort p f).tileOwner = s.tileOwner := rfl
@[simp] theorem upPort_regionOwner (p : Fin 12) (f : Port → Port) : (s.upPort p f).regionOwner = s.regionOwner := rfl
@[simp] theorem upPort_vat (p : Fin 12) (f : Port → Port) : (s.upPort p f).vat = s.vat := rfl
@[simp] theorem upPort_ram (p : Fin 12) (f : Port → Port) : (s.upPort p f).ram = s.ram := rfl
@[simp] theorem upPort_lines (p : Fin 12) (f : Port → Port) : (s.upPort p f).lines = s.lines := rfl
@[simp] theorem upPort_cache (p : Fin 12) (f : Port → Port) : (s.upPort p f).cache = s.cache := rfl
@[simp] theorem upPort_bad (p : Fin 12) (f : Port → Port) : (s.upPort p f).bad = s.bad := rfl
@[simp] theorem upPort_reads (p : Fin 12) (f : Port → Port) : (s.upPort p f).reads = s.reads := rfl
@[simp] theorem upPort_xlats (p : Fin 12) (f : Port → Port) : (s.upPort p f).xlats = s.xlats := rfl
@[simp] theorem upPort_unacked (p : Fin 12) (f : Port → Port) : (s.upPort p f).unacked = s.unacked := rfl
@[simp] theorem upPort_laneFree (p : Fin 12) (f : Port → Port) : (s.upPort p f).laneFree = s.laneFree := rfl
@[simp] theorem upPort_tab (p : Fin 12) (f : Port → Port) : (s.upPort p f).tab = s.tab := rfl
@[simp] theorem upPort_front (p : Fin 12) (f : Port → Port) : (s.upPort p f).front = s.front := rfl
@[simp] theorem upPort_korni (p : Fin 12) (f : Port → Port) : (s.upPort p f).korni = s.korni := rfl
@[simp] theorem upPort_err (p : Fin 12) (f : Port → Port) : (s.upPort p f).err = s.err := rfl
@[simp] theorem upPort_st (p : Fin 12) (f : Port → Port) : (s.upPort p f).st = s.st := rfl
@[simp] theorem upPort_screen (p : Fin 12) (f : Port → Port) : (s.upPort p f).screen = s.screen := rfl
@[simp] theorem upPort_sec (p : Fin 12) (f : Port → Port) : (s.upPort p f).sec = s.sec := rfl

/-! upIsland. -/

@[simp] theorem upIsland_pending (n : Nat) (f : Island → Island) : (s.upIsland n f).pending = s.pending := rfl
@[simp] theorem upIsland_powered (n : Nat) (f : Island → Island) : (s.upIsland n f).powered = s.powered := rfl
@[simp] theorem upIsland_inReset (n : Nat) (f : Island → Island) : (s.upIsland n f).inReset = s.inReset := rfl
@[simp] theorem upIsland_clock (n : Nat) (f : Island → Island) : (s.upIsland n f).clock = s.clock := rfl
@[simp] theorem upIsland_freeCtr (n : Nat) (f : Island → Island) : (s.upIsland n f).freeCtr = s.freeCtr := rfl
@[simp] theorem upIsland_ans (n : Nat) (f : Island → Island) : (s.upIsland n f).ans = s.ans := rfl
@[simp] theorem upIsland_resp (n : Nat) (f : Island → Island) : (s.upIsland n f).resp = s.resp := rfl
@[simp] theorem upIsland_leaseWaits (n : Nat) (f : Island → Island) : (s.upIsland n f).leaseWaits = s.leaseWaits := rfl
@[simp] theorem upIsland_fuses (n : Nat) (f : Island → Island) : (s.upIsland n f).fuses = s.fuses := rfl
@[simp] theorem upIsland_glob (n : Nat) (f : Island → Island) : (s.upIsland n f).glob = s.glob := rfl
@[simp] theorem upIsland_tel (n : Nat) (f : Island → Island) : (s.upIsland n f).tel = s.tel := rfl
@[simp] theorem upIsland_dbg (n : Nat) (f : Island → Island) : (s.upIsland n f).dbg = s.dbg := rfl
@[simp] theorem upIsland_felt (n : Nat) (f : Island → Island) : (s.upIsland n f).felt = s.felt := rfl
@[simp] theorem upIsland_ports (n : Nat) (f : Island → Island) : (s.upIsland n f).ports = s.ports := rfl
@[simp] theorem upIsland_sb (n : Nat) (f : Island → Island) : (s.upIsland n f).sb = s.sb := rfl
@[simp] theorem upIsland_pwr (n : Nat) (f : Island → Island) : (s.upIsland n f).pwr = s.pwr := rfl
@[simp] theorem upIsland_ctxs (n : Nat) (f : Island → Island) : (s.upIsland n f).ctxs = s.ctxs := rfl
@[simp] theorem upIsland_evtPtr (n : Nat) (f : Island → Island) : (s.upIsland n f).evtPtr = s.evtPtr := rfl
@[simp] theorem upIsland_evtOut (n : Nat) (f : Island → Island) : (s.upIsland n f).evtOut = s.evtOut := rfl
@[simp] theorem upIsland_evtHeld (n : Nat) (f : Island → Island) : (s.upIsland n f).evtHeld = s.evtHeld := rfl
@[simp] theorem upIsland_tiles (n : Nat) (f : Island → Island) : (s.upIsland n f).tiles = s.tiles := rfl
@[simp] theorem upIsland_tileMem (n : Nat) (f : Island → Island) : (s.upIsland n f).tileMem = s.tileMem := rfl
@[simp] theorem upIsland_tileOwner (n : Nat) (f : Island → Island) : (s.upIsland n f).tileOwner = s.tileOwner := rfl
@[simp] theorem upIsland_regionOwner (n : Nat) (f : Island → Island) : (s.upIsland n f).regionOwner = s.regionOwner := rfl
@[simp] theorem upIsland_vat (n : Nat) (f : Island → Island) : (s.upIsland n f).vat = s.vat := rfl
@[simp] theorem upIsland_ram (n : Nat) (f : Island → Island) : (s.upIsland n f).ram = s.ram := rfl
@[simp] theorem upIsland_lines (n : Nat) (f : Island → Island) : (s.upIsland n f).lines = s.lines := rfl
@[simp] theorem upIsland_cache (n : Nat) (f : Island → Island) : (s.upIsland n f).cache = s.cache := rfl
@[simp] theorem upIsland_bad (n : Nat) (f : Island → Island) : (s.upIsland n f).bad = s.bad := rfl
@[simp] theorem upIsland_reads (n : Nat) (f : Island → Island) : (s.upIsland n f).reads = s.reads := rfl
@[simp] theorem upIsland_xlats (n : Nat) (f : Island → Island) : (s.upIsland n f).xlats = s.xlats := rfl
@[simp] theorem upIsland_unacked (n : Nat) (f : Island → Island) : (s.upIsland n f).unacked = s.unacked := rfl
@[simp] theorem upIsland_laneFree (n : Nat) (f : Island → Island) : (s.upIsland n f).laneFree = s.laneFree := rfl
@[simp] theorem upIsland_tab (n : Nat) (f : Island → Island) : (s.upIsland n f).tab = s.tab := rfl
@[simp] theorem upIsland_front (n : Nat) (f : Island → Island) : (s.upIsland n f).front = s.front := rfl
@[simp] theorem upIsland_korni (n : Nat) (f : Island → Island) : (s.upIsland n f).korni = s.korni := rfl
@[simp] theorem upIsland_err (n : Nat) (f : Island → Island) : (s.upIsland n f).err = s.err := rfl
@[simp] theorem upIsland_st (n : Nat) (f : Island → Island) : (s.upIsland n f).st = s.st := rfl
@[simp] theorem upIsland_screen (n : Nat) (f : Island → Island) : (s.upIsland n f).screen = s.screen := rfl
@[simp] theorem upIsland_sec (n : Nat) (f : Island → Island) : (s.upIsland n f).sec = s.sec := rfl

/-! fresh. -/

@[simp] theorem fresh_pending : s.fresh.pending = s.pending := rfl
@[simp] theorem fresh_powered : s.fresh.powered = s.powered := rfl
@[simp] theorem fresh_inReset : s.fresh.inReset = s.inReset := rfl
@[simp] theorem fresh_clock : s.fresh.clock = s.clock := rfl
@[simp] theorem fresh_ans : s.fresh.ans = s.ans := rfl
@[simp] theorem fresh_resp : s.fresh.resp = s.resp := rfl
@[simp] theorem fresh_leaseWaits : s.fresh.leaseWaits = s.leaseWaits := rfl
@[simp] theorem fresh_fuses : s.fresh.fuses = s.fuses := rfl
@[simp] theorem fresh_glob : s.fresh.glob = s.glob := rfl
@[simp] theorem fresh_tel : s.fresh.tel = s.tel := rfl
@[simp] theorem fresh_dbg : s.fresh.dbg = s.dbg := rfl
@[simp] theorem fresh_felt : s.fresh.felt = s.felt := rfl
@[simp] theorem fresh_ports : s.fresh.ports = s.ports := rfl
@[simp] theorem fresh_sb : s.fresh.sb = s.sb := rfl
@[simp] theorem fresh_pwr : s.fresh.pwr = s.pwr := rfl
@[simp] theorem fresh_islands : s.fresh.islands = s.islands := rfl
@[simp] theorem fresh_ctxs : s.fresh.ctxs = s.ctxs := rfl
@[simp] theorem fresh_evtPtr : s.fresh.evtPtr = s.evtPtr := rfl
@[simp] theorem fresh_evtOut : s.fresh.evtOut = s.evtOut := rfl
@[simp] theorem fresh_evtHeld : s.fresh.evtHeld = s.evtHeld := rfl
@[simp] theorem fresh_tiles : s.fresh.tiles = s.tiles := rfl
@[simp] theorem fresh_tileMem : s.fresh.tileMem = s.tileMem := rfl
@[simp] theorem fresh_tileOwner : s.fresh.tileOwner = s.tileOwner := rfl
@[simp] theorem fresh_regionOwner : s.fresh.regionOwner = s.regionOwner := rfl
@[simp] theorem fresh_vat : s.fresh.vat = s.vat := rfl
@[simp] theorem fresh_ram : s.fresh.ram = s.ram := rfl
@[simp] theorem fresh_lines : s.fresh.lines = s.lines := rfl
@[simp] theorem fresh_cache : s.fresh.cache = s.cache := rfl
@[simp] theorem fresh_bad : s.fresh.bad = s.bad := rfl
@[simp] theorem fresh_reads : s.fresh.reads = s.reads := rfl
@[simp] theorem fresh_xlats : s.fresh.xlats = s.xlats := rfl
@[simp] theorem fresh_unacked : s.fresh.unacked = s.unacked := rfl
@[simp] theorem fresh_laneFree : s.fresh.laneFree = s.laneFree := rfl
@[simp] theorem fresh_tab : s.fresh.tab = s.tab := rfl
@[simp] theorem fresh_front : s.fresh.front = s.front := rfl
@[simp] theorem fresh_korni : s.fresh.korni = s.korni := rfl
@[simp] theorem fresh_err : s.fresh.err = s.err := rfl
@[simp] theorem fresh_st : s.fresh.st = s.st := rfl
@[simp] theorem fresh_screen : s.fresh.screen = s.screen := rfl
@[simp] theorem fresh_sec : s.fresh.sec = s.sec := rfl

/-! tally. -/

@[simp] theorem tally_pending (n k : Nat) : (s.tally n k).pending = s.pending := rfl
@[simp] theorem tally_powered (n k : Nat) : (s.tally n k).powered = s.powered := rfl
@[simp] theorem tally_inReset (n k : Nat) : (s.tally n k).inReset = s.inReset := rfl
@[simp] theorem tally_clock (n k : Nat) : (s.tally n k).clock = s.clock := rfl
@[simp] theorem tally_freeCtr (n k : Nat) : (s.tally n k).freeCtr = s.freeCtr := rfl
@[simp] theorem tally_ans (n k : Nat) : (s.tally n k).ans = s.ans := rfl
@[simp] theorem tally_resp (n k : Nat) : (s.tally n k).resp = s.resp := rfl
@[simp] theorem tally_leaseWaits (n k : Nat) : (s.tally n k).leaseWaits = s.leaseWaits := rfl
@[simp] theorem tally_fuses (n k : Nat) : (s.tally n k).fuses = s.fuses := rfl
@[simp] theorem tally_glob (n k : Nat) : (s.tally n k).glob = s.glob := rfl
@[simp] theorem tally_dbg (n k : Nat) : (s.tally n k).dbg = s.dbg := rfl
@[simp] theorem tally_felt (n k : Nat) : (s.tally n k).felt = s.felt := rfl
@[simp] theorem tally_ports (n k : Nat) : (s.tally n k).ports = s.ports := rfl
@[simp] theorem tally_sb (n k : Nat) : (s.tally n k).sb = s.sb := rfl
@[simp] theorem tally_pwr (n k : Nat) : (s.tally n k).pwr = s.pwr := rfl
@[simp] theorem tally_islands (n k : Nat) : (s.tally n k).islands = s.islands := rfl
@[simp] theorem tally_ctxs (n k : Nat) : (s.tally n k).ctxs = s.ctxs := rfl
@[simp] theorem tally_evtPtr (n k : Nat) : (s.tally n k).evtPtr = s.evtPtr := rfl
@[simp] theorem tally_evtOut (n k : Nat) : (s.tally n k).evtOut = s.evtOut := rfl
@[simp] theorem tally_evtHeld (n k : Nat) : (s.tally n k).evtHeld = s.evtHeld := rfl
@[simp] theorem tally_tiles (n k : Nat) : (s.tally n k).tiles = s.tiles := rfl
@[simp] theorem tally_tileMem (n k : Nat) : (s.tally n k).tileMem = s.tileMem := rfl
@[simp] theorem tally_tileOwner (n k : Nat) : (s.tally n k).tileOwner = s.tileOwner := rfl
@[simp] theorem tally_regionOwner (n k : Nat) : (s.tally n k).regionOwner = s.regionOwner := rfl
@[simp] theorem tally_vat (n k : Nat) : (s.tally n k).vat = s.vat := rfl
@[simp] theorem tally_ram (n k : Nat) : (s.tally n k).ram = s.ram := rfl
@[simp] theorem tally_lines (n k : Nat) : (s.tally n k).lines = s.lines := rfl
@[simp] theorem tally_cache (n k : Nat) : (s.tally n k).cache = s.cache := rfl
@[simp] theorem tally_bad (n k : Nat) : (s.tally n k).bad = s.bad := rfl
@[simp] theorem tally_reads (n k : Nat) : (s.tally n k).reads = s.reads := rfl
@[simp] theorem tally_xlats (n k : Nat) : (s.tally n k).xlats = s.xlats := rfl
@[simp] theorem tally_unacked (n k : Nat) : (s.tally n k).unacked = s.unacked := rfl
@[simp] theorem tally_laneFree (n k : Nat) : (s.tally n k).laneFree = s.laneFree := rfl
@[simp] theorem tally_tab (n k : Nat) : (s.tally n k).tab = s.tab := rfl
@[simp] theorem tally_front (n k : Nat) : (s.tally n k).front = s.front := rfl
@[simp] theorem tally_korni (n k : Nat) : (s.tally n k).korni = s.korni := rfl
@[simp] theorem tally_err (n k : Nat) : (s.tally n k).err = s.err := rfl
@[simp] theorem tally_st (n k : Nat) : (s.tally n k).st = s.st := rfl
@[simp] theorem tally_screen (n k : Nat) : (s.tally n k).screen = s.screen := rfl
@[simp] theorem tally_sec (n k : Nat) : (s.tally n k).sec = s.sec := rfl

/-! ungrant. -/

@[simp] theorem ungrant_pending (c : CtxId) (n : Seq) : (s.ungrant c n).pending = s.pending := rfl
@[simp] theorem ungrant_powered (c : CtxId) (n : Seq) : (s.ungrant c n).powered = s.powered := rfl
@[simp] theorem ungrant_inReset (c : CtxId) (n : Seq) : (s.ungrant c n).inReset = s.inReset := rfl
@[simp] theorem ungrant_clock (c : CtxId) (n : Seq) : (s.ungrant c n).clock = s.clock := rfl
@[simp] theorem ungrant_freeCtr (c : CtxId) (n : Seq) : (s.ungrant c n).freeCtr = s.freeCtr := rfl
@[simp] theorem ungrant_ans (c : CtxId) (n : Seq) : (s.ungrant c n).ans = s.ans := rfl
@[simp] theorem ungrant_resp (c : CtxId) (n : Seq) : (s.ungrant c n).resp = s.resp := rfl
@[simp] theorem ungrant_leaseWaits (c : CtxId) (n : Seq) : (s.ungrant c n).leaseWaits = s.leaseWaits := rfl
@[simp] theorem ungrant_fuses (c : CtxId) (n : Seq) : (s.ungrant c n).fuses = s.fuses := rfl
@[simp] theorem ungrant_glob (c : CtxId) (n : Seq) : (s.ungrant c n).glob = s.glob := rfl
@[simp] theorem ungrant_tel (c : CtxId) (n : Seq) : (s.ungrant c n).tel = s.tel := rfl
@[simp] theorem ungrant_dbg (c : CtxId) (n : Seq) : (s.ungrant c n).dbg = s.dbg := rfl
@[simp] theorem ungrant_felt (c : CtxId) (n : Seq) : (s.ungrant c n).felt = s.felt := rfl
@[simp] theorem ungrant_ports (c : CtxId) (n : Seq) : (s.ungrant c n).ports = s.ports := rfl
@[simp] theorem ungrant_sb (c : CtxId) (n : Seq) : (s.ungrant c n).sb = s.sb := rfl
@[simp] theorem ungrant_pwr (c : CtxId) (n : Seq) : (s.ungrant c n).pwr = s.pwr := rfl
@[simp] theorem ungrant_islands (c : CtxId) (n : Seq) : (s.ungrant c n).islands = s.islands := rfl
@[simp] theorem ungrant_ctxs (c : CtxId) (n : Seq) : (s.ungrant c n).ctxs = s.ctxs := rfl
@[simp] theorem ungrant_evtPtr (c : CtxId) (n : Seq) : (s.ungrant c n).evtPtr = s.evtPtr := rfl
@[simp] theorem ungrant_evtOut (c : CtxId) (n : Seq) : (s.ungrant c n).evtOut = s.evtOut := rfl
@[simp] theorem ungrant_evtHeld (c : CtxId) (n : Seq) : (s.ungrant c n).evtHeld = s.evtHeld := rfl
@[simp] theorem ungrant_tiles (c : CtxId) (n : Seq) : (s.ungrant c n).tiles = s.tiles := rfl
@[simp] theorem ungrant_tileMem (c : CtxId) (n : Seq) : (s.ungrant c n).tileMem = s.tileMem := rfl
@[simp] theorem ungrant_tileOwner (c : CtxId) (n : Seq) : (s.ungrant c n).tileOwner = s.tileOwner := rfl
@[simp] theorem ungrant_regionOwner (c : CtxId) (n : Seq) : (s.ungrant c n).regionOwner = s.regionOwner := rfl
@[simp] theorem ungrant_vat (c : CtxId) (n : Seq) : (s.ungrant c n).vat = s.vat := rfl
@[simp] theorem ungrant_ram (c : CtxId) (n : Seq) : (s.ungrant c n).ram = s.ram := rfl
@[simp] theorem ungrant_lines (c : CtxId) (n : Seq) : (s.ungrant c n).lines = s.lines := rfl
@[simp] theorem ungrant_cache (c : CtxId) (n : Seq) : (s.ungrant c n).cache = s.cache := rfl
@[simp] theorem ungrant_bad (c : CtxId) (n : Seq) : (s.ungrant c n).bad = s.bad := rfl
@[simp] theorem ungrant_reads (c : CtxId) (n : Seq) : (s.ungrant c n).reads = s.reads := rfl
@[simp] theorem ungrant_xlats (c : CtxId) (n : Seq) : (s.ungrant c n).xlats = s.xlats := rfl
@[simp] theorem ungrant_unacked (c : CtxId) (n : Seq) : (s.ungrant c n).unacked = s.unacked := rfl
@[simp] theorem ungrant_laneFree (c : CtxId) (n : Seq) : (s.ungrant c n).laneFree = s.laneFree := rfl
@[simp] theorem ungrant_tab (c : CtxId) (n : Seq) : (s.ungrant c n).tab = s.tab := rfl
@[simp] theorem ungrant_front (c : CtxId) (n : Seq) : (s.ungrant c n).front = s.front := rfl
@[simp] theorem ungrant_korni (c : CtxId) (n : Seq) : (s.ungrant c n).korni = s.korni := rfl
@[simp] theorem ungrant_err (c : CtxId) (n : Seq) : (s.ungrant c n).err = s.err := rfl
@[simp] theorem ungrant_st (c : CtxId) (n : Seq) : (s.ungrant c n).st = s.st := rfl
@[simp] theorem ungrant_sec (c : CtxId) (n : Seq) : (s.ungrant c n).sec = s.sec := rfl

/-! dropXlats. -/

@[simp] theorem dropXlats_pending (c : CtxId) (k : Nat) : (s.dropXlats c k).pending = s.pending := rfl
@[simp] theorem dropXlats_powered (c : CtxId) (k : Nat) : (s.dropXlats c k).powered = s.powered := rfl
@[simp] theorem dropXlats_inReset (c : CtxId) (k : Nat) : (s.dropXlats c k).inReset = s.inReset := rfl
@[simp] theorem dropXlats_clock (c : CtxId) (k : Nat) : (s.dropXlats c k).clock = s.clock := rfl
@[simp] theorem dropXlats_freeCtr (c : CtxId) (k : Nat) : (s.dropXlats c k).freeCtr = s.freeCtr := rfl
@[simp] theorem dropXlats_ans (c : CtxId) (k : Nat) : (s.dropXlats c k).ans = s.ans := rfl
@[simp] theorem dropXlats_resp (c : CtxId) (k : Nat) : (s.dropXlats c k).resp = s.resp := rfl
@[simp] theorem dropXlats_leaseWaits (c : CtxId) (k : Nat) : (s.dropXlats c k).leaseWaits = s.leaseWaits := rfl
@[simp] theorem dropXlats_fuses (c : CtxId) (k : Nat) : (s.dropXlats c k).fuses = s.fuses := rfl
@[simp] theorem dropXlats_glob (c : CtxId) (k : Nat) : (s.dropXlats c k).glob = s.glob := rfl
@[simp] theorem dropXlats_tel (c : CtxId) (k : Nat) : (s.dropXlats c k).tel = s.tel := rfl
@[simp] theorem dropXlats_dbg (c : CtxId) (k : Nat) : (s.dropXlats c k).dbg = s.dbg := rfl
@[simp] theorem dropXlats_felt (c : CtxId) (k : Nat) : (s.dropXlats c k).felt = s.felt := rfl
@[simp] theorem dropXlats_ports (c : CtxId) (k : Nat) : (s.dropXlats c k).ports = s.ports := rfl
@[simp] theorem dropXlats_sb (c : CtxId) (k : Nat) : (s.dropXlats c k).sb = s.sb := rfl
@[simp] theorem dropXlats_pwr (c : CtxId) (k : Nat) : (s.dropXlats c k).pwr = s.pwr := rfl
@[simp] theorem dropXlats_islands (c : CtxId) (k : Nat) : (s.dropXlats c k).islands = s.islands := rfl
@[simp] theorem dropXlats_ctxs (c : CtxId) (k : Nat) : (s.dropXlats c k).ctxs = s.ctxs := rfl
@[simp] theorem dropXlats_evtPtr (c : CtxId) (k : Nat) : (s.dropXlats c k).evtPtr = s.evtPtr := rfl
@[simp] theorem dropXlats_evtOut (c : CtxId) (k : Nat) : (s.dropXlats c k).evtOut = s.evtOut := rfl
@[simp] theorem dropXlats_evtHeld (c : CtxId) (k : Nat) : (s.dropXlats c k).evtHeld = s.evtHeld := rfl
@[simp] theorem dropXlats_tiles (c : CtxId) (k : Nat) : (s.dropXlats c k).tiles = s.tiles := rfl
@[simp] theorem dropXlats_tileMem (c : CtxId) (k : Nat) : (s.dropXlats c k).tileMem = s.tileMem := rfl
@[simp] theorem dropXlats_tileOwner (c : CtxId) (k : Nat) : (s.dropXlats c k).tileOwner = s.tileOwner := rfl
@[simp] theorem dropXlats_regionOwner (c : CtxId) (k : Nat) : (s.dropXlats c k).regionOwner = s.regionOwner := rfl
@[simp] theorem dropXlats_vat (c : CtxId) (k : Nat) : (s.dropXlats c k).vat = s.vat := rfl
@[simp] theorem dropXlats_ram (c : CtxId) (k : Nat) : (s.dropXlats c k).ram = s.ram := rfl
@[simp] theorem dropXlats_lines (c : CtxId) (k : Nat) : (s.dropXlats c k).lines = s.lines := rfl
@[simp] theorem dropXlats_cache (c : CtxId) (k : Nat) : (s.dropXlats c k).cache = s.cache := rfl
@[simp] theorem dropXlats_reads (c : CtxId) (k : Nat) : (s.dropXlats c k).reads = s.reads := rfl
@[simp] theorem dropXlats_unacked (c : CtxId) (k : Nat) : (s.dropXlats c k).unacked = s.unacked := rfl
@[simp] theorem dropXlats_laneFree (c : CtxId) (k : Nat) : (s.dropXlats c k).laneFree = s.laneFree := rfl
@[simp] theorem dropXlats_tab (c : CtxId) (k : Nat) : (s.dropXlats c k).tab = s.tab := rfl
@[simp] theorem dropXlats_front (c : CtxId) (k : Nat) : (s.dropXlats c k).front = s.front := rfl
@[simp] theorem dropXlats_korni (c : CtxId) (k : Nat) : (s.dropXlats c k).korni = s.korni := rfl
@[simp] theorem dropXlats_err (c : CtxId) (k : Nat) : (s.dropXlats c k).err = s.err := rfl
@[simp] theorem dropXlats_st (c : CtxId) (k : Nat) : (s.dropXlats c k).st = s.st := rfl
@[simp] theorem dropXlats_screen (c : CtxId) (k : Nat) : (s.dropXlats c k).screen = s.screen := rfl
@[simp] theorem dropXlats_sec (c : CtxId) (k : Nat) : (s.dropXlats c k).sec = s.sec := rfl

/-! faultEntry. -/

@[simp] theorem faultEntry_pending (c : CtxId) (e : Entry) (k : Nat) (f : FaultRec) : (s.faultEntry c e k f).pending = s.pending := rfl
@[simp] theorem faultEntry_powered (c : CtxId) (e : Entry) (k : Nat) (f : FaultRec) : (s.faultEntry c e k f).powered = s.powered := rfl
@[simp] theorem faultEntry_inReset (c : CtxId) (e : Entry) (k : Nat) (f : FaultRec) : (s.faultEntry c e k f).inReset = s.inReset := rfl
@[simp] theorem faultEntry_clock (c : CtxId) (e : Entry) (k : Nat) (f : FaultRec) : (s.faultEntry c e k f).clock = s.clock := rfl
@[simp] theorem faultEntry_freeCtr (c : CtxId) (e : Entry) (k : Nat) (f : FaultRec) : (s.faultEntry c e k f).freeCtr = s.freeCtr := rfl
@[simp] theorem faultEntry_ans (c : CtxId) (e : Entry) (k : Nat) (f : FaultRec) : (s.faultEntry c e k f).ans = s.ans := rfl
@[simp] theorem faultEntry_resp (c : CtxId) (e : Entry) (k : Nat) (f : FaultRec) : (s.faultEntry c e k f).resp = s.resp := rfl
@[simp] theorem faultEntry_leaseWaits (c : CtxId) (e : Entry) (k : Nat) (f : FaultRec) : (s.faultEntry c e k f).leaseWaits = s.leaseWaits := rfl
@[simp] theorem faultEntry_fuses (c : CtxId) (e : Entry) (k : Nat) (f : FaultRec) : (s.faultEntry c e k f).fuses = s.fuses := rfl
@[simp] theorem faultEntry_glob (c : CtxId) (e : Entry) (k : Nat) (f : FaultRec) : (s.faultEntry c e k f).glob = s.glob := rfl
@[simp] theorem faultEntry_tel (c : CtxId) (e : Entry) (k : Nat) (f : FaultRec) : (s.faultEntry c e k f).tel = s.tel := rfl
@[simp] theorem faultEntry_dbg (c : CtxId) (e : Entry) (k : Nat) (f : FaultRec) : (s.faultEntry c e k f).dbg = s.dbg := rfl
@[simp] theorem faultEntry_felt (c : CtxId) (e : Entry) (k : Nat) (f : FaultRec) : (s.faultEntry c e k f).felt = s.felt := rfl
@[simp] theorem faultEntry_ports (c : CtxId) (e : Entry) (k : Nat) (f : FaultRec) : (s.faultEntry c e k f).ports = s.ports := rfl
@[simp] theorem faultEntry_sb (c : CtxId) (e : Entry) (k : Nat) (f : FaultRec) : (s.faultEntry c e k f).sb = s.sb := rfl
@[simp] theorem faultEntry_pwr (c : CtxId) (e : Entry) (k : Nat) (f : FaultRec) : (s.faultEntry c e k f).pwr = s.pwr := rfl
@[simp] theorem faultEntry_islands (c : CtxId) (e : Entry) (k : Nat) (f : FaultRec) : (s.faultEntry c e k f).islands = s.islands := rfl
@[simp] theorem faultEntry_evtPtr (c : CtxId) (e : Entry) (k : Nat) (f : FaultRec) : (s.faultEntry c e k f).evtPtr = s.evtPtr := rfl
@[simp] theorem faultEntry_evtOut (c : CtxId) (e : Entry) (k : Nat) (f : FaultRec) : (s.faultEntry c e k f).evtOut = s.evtOut := rfl
@[simp] theorem faultEntry_evtHeld (c : CtxId) (e : Entry) (k : Nat) (f : FaultRec) : (s.faultEntry c e k f).evtHeld = s.evtHeld := rfl
@[simp] theorem faultEntry_tiles (c : CtxId) (e : Entry) (k : Nat) (f : FaultRec) : (s.faultEntry c e k f).tiles = s.tiles := rfl
@[simp] theorem faultEntry_tileMem (c : CtxId) (e : Entry) (k : Nat) (f : FaultRec) : (s.faultEntry c e k f).tileMem = s.tileMem := rfl
@[simp] theorem faultEntry_tileOwner (c : CtxId) (e : Entry) (k : Nat) (f : FaultRec) : (s.faultEntry c e k f).tileOwner = s.tileOwner := rfl
@[simp] theorem faultEntry_regionOwner (c : CtxId) (e : Entry) (k : Nat) (f : FaultRec) : (s.faultEntry c e k f).regionOwner = s.regionOwner := rfl
@[simp] theorem faultEntry_vat (c : CtxId) (e : Entry) (k : Nat) (f : FaultRec) : (s.faultEntry c e k f).vat = s.vat := rfl
@[simp] theorem faultEntry_ram (c : CtxId) (e : Entry) (k : Nat) (f : FaultRec) : (s.faultEntry c e k f).ram = s.ram := rfl
@[simp] theorem faultEntry_lines (c : CtxId) (e : Entry) (k : Nat) (f : FaultRec) : (s.faultEntry c e k f).lines = s.lines := rfl
@[simp] theorem faultEntry_cache (c : CtxId) (e : Entry) (k : Nat) (f : FaultRec) : (s.faultEntry c e k f).cache = s.cache := rfl
@[simp] theorem faultEntry_reads (c : CtxId) (e : Entry) (k : Nat) (f : FaultRec) : (s.faultEntry c e k f).reads = s.reads := rfl
@[simp] theorem faultEntry_unacked (c : CtxId) (e : Entry) (k : Nat) (f : FaultRec) : (s.faultEntry c e k f).unacked = s.unacked := rfl
@[simp] theorem faultEntry_laneFree (c : CtxId) (e : Entry) (k : Nat) (f : FaultRec) : (s.faultEntry c e k f).laneFree = s.laneFree := rfl
@[simp] theorem faultEntry_tab (c : CtxId) (e : Entry) (k : Nat) (f : FaultRec) : (s.faultEntry c e k f).tab = s.tab := rfl
@[simp] theorem faultEntry_front (c : CtxId) (e : Entry) (k : Nat) (f : FaultRec) : (s.faultEntry c e k f).front = s.front := rfl
@[simp] theorem faultEntry_korni (c : CtxId) (e : Entry) (k : Nat) (f : FaultRec) : (s.faultEntry c e k f).korni = s.korni := rfl
@[simp] theorem faultEntry_err (c : CtxId) (e : Entry) (k : Nat) (f : FaultRec) : (s.faultEntry c e k f).err = s.err := rfl
@[simp] theorem faultEntry_st (c : CtxId) (e : Entry) (k : Nat) (f : FaultRec) : (s.faultEntry c e k f).st = s.st := rfl
@[simp] theorem faultEntry_sec (c : CtxId) (e : Entry) (k : Nat) (f : FaultRec) : (s.faultEntry c e k f).sec = s.sec := rfl

/-! faultFetch. -/

@[simp] theorem faultFetch_pending (c : CtxId) (f : FaultRec) : (s.faultFetch c f).pending = s.pending := rfl
@[simp] theorem faultFetch_powered (c : CtxId) (f : FaultRec) : (s.faultFetch c f).powered = s.powered := rfl
@[simp] theorem faultFetch_inReset (c : CtxId) (f : FaultRec) : (s.faultFetch c f).inReset = s.inReset := rfl
@[simp] theorem faultFetch_clock (c : CtxId) (f : FaultRec) : (s.faultFetch c f).clock = s.clock := rfl
@[simp] theorem faultFetch_freeCtr (c : CtxId) (f : FaultRec) : (s.faultFetch c f).freeCtr = s.freeCtr := rfl
@[simp] theorem faultFetch_ans (c : CtxId) (f : FaultRec) : (s.faultFetch c f).ans = s.ans := rfl
@[simp] theorem faultFetch_resp (c : CtxId) (f : FaultRec) : (s.faultFetch c f).resp = s.resp := rfl
@[simp] theorem faultFetch_leaseWaits (c : CtxId) (f : FaultRec) : (s.faultFetch c f).leaseWaits = s.leaseWaits := rfl
@[simp] theorem faultFetch_fuses (c : CtxId) (f : FaultRec) : (s.faultFetch c f).fuses = s.fuses := rfl
@[simp] theorem faultFetch_glob (c : CtxId) (f : FaultRec) : (s.faultFetch c f).glob = s.glob := rfl
@[simp] theorem faultFetch_tel (c : CtxId) (f : FaultRec) : (s.faultFetch c f).tel = s.tel := rfl
@[simp] theorem faultFetch_dbg (c : CtxId) (f : FaultRec) : (s.faultFetch c f).dbg = s.dbg := rfl
@[simp] theorem faultFetch_felt (c : CtxId) (f : FaultRec) : (s.faultFetch c f).felt = s.felt := rfl
@[simp] theorem faultFetch_ports (c : CtxId) (f : FaultRec) : (s.faultFetch c f).ports = s.ports := rfl
@[simp] theorem faultFetch_sb (c : CtxId) (f : FaultRec) : (s.faultFetch c f).sb = s.sb := rfl
@[simp] theorem faultFetch_pwr (c : CtxId) (f : FaultRec) : (s.faultFetch c f).pwr = s.pwr := rfl
@[simp] theorem faultFetch_islands (c : CtxId) (f : FaultRec) : (s.faultFetch c f).islands = s.islands := rfl
@[simp] theorem faultFetch_evtPtr (c : CtxId) (f : FaultRec) : (s.faultFetch c f).evtPtr = s.evtPtr := rfl
@[simp] theorem faultFetch_evtOut (c : CtxId) (f : FaultRec) : (s.faultFetch c f).evtOut = s.evtOut := rfl
@[simp] theorem faultFetch_evtHeld (c : CtxId) (f : FaultRec) : (s.faultFetch c f).evtHeld = s.evtHeld := rfl
@[simp] theorem faultFetch_tiles (c : CtxId) (f : FaultRec) : (s.faultFetch c f).tiles = s.tiles := rfl
@[simp] theorem faultFetch_tileMem (c : CtxId) (f : FaultRec) : (s.faultFetch c f).tileMem = s.tileMem := rfl
@[simp] theorem faultFetch_tileOwner (c : CtxId) (f : FaultRec) : (s.faultFetch c f).tileOwner = s.tileOwner := rfl
@[simp] theorem faultFetch_regionOwner (c : CtxId) (f : FaultRec) : (s.faultFetch c f).regionOwner = s.regionOwner := rfl
@[simp] theorem faultFetch_vat (c : CtxId) (f : FaultRec) : (s.faultFetch c f).vat = s.vat := rfl
@[simp] theorem faultFetch_ram (c : CtxId) (f : FaultRec) : (s.faultFetch c f).ram = s.ram := rfl
@[simp] theorem faultFetch_lines (c : CtxId) (f : FaultRec) : (s.faultFetch c f).lines = s.lines := rfl
@[simp] theorem faultFetch_cache (c : CtxId) (f : FaultRec) : (s.faultFetch c f).cache = s.cache := rfl
@[simp] theorem faultFetch_reads (c : CtxId) (f : FaultRec) : (s.faultFetch c f).reads = s.reads := rfl
@[simp] theorem faultFetch_unacked (c : CtxId) (f : FaultRec) : (s.faultFetch c f).unacked = s.unacked := rfl
@[simp] theorem faultFetch_laneFree (c : CtxId) (f : FaultRec) : (s.faultFetch c f).laneFree = s.laneFree := rfl
@[simp] theorem faultFetch_tab (c : CtxId) (f : FaultRec) : (s.faultFetch c f).tab = s.tab := rfl
@[simp] theorem faultFetch_front (c : CtxId) (f : FaultRec) : (s.faultFetch c f).front = s.front := rfl
@[simp] theorem faultFetch_korni (c : CtxId) (f : FaultRec) : (s.faultFetch c f).korni = s.korni := rfl
@[simp] theorem faultFetch_err (c : CtxId) (f : FaultRec) : (s.faultFetch c f).err = s.err := rfl
@[simp] theorem faultFetch_st (c : CtxId) (f : FaultRec) : (s.faultFetch c f).st = s.st := rfl
@[simp] theorem faultFetch_screen (c : CtxId) (f : FaultRec) : (s.faultFetch c f).screen = s.screen := rfl
@[simp] theorem faultFetch_sec (c : CtxId) (f : FaultRec) : (s.faultFetch c f).sec = s.sec := rfl

/-! putTab. -/

@[simp] theorem putTab_pending (r : TabReg) (q : Quad) : (s.putTab r q).pending = s.pending := rfl
@[simp] theorem putTab_powered (r : TabReg) (q : Quad) : (s.putTab r q).powered = s.powered := rfl
@[simp] theorem putTab_inReset (r : TabReg) (q : Quad) : (s.putTab r q).inReset = s.inReset := rfl
@[simp] theorem putTab_clock (r : TabReg) (q : Quad) : (s.putTab r q).clock = s.clock := rfl
@[simp] theorem putTab_freeCtr (r : TabReg) (q : Quad) : (s.putTab r q).freeCtr = s.freeCtr := rfl
@[simp] theorem putTab_ans (r : TabReg) (q : Quad) : (s.putTab r q).ans = s.ans := rfl
@[simp] theorem putTab_resp (r : TabReg) (q : Quad) : (s.putTab r q).resp = s.resp := rfl
@[simp] theorem putTab_leaseWaits (r : TabReg) (q : Quad) : (s.putTab r q).leaseWaits = s.leaseWaits := rfl
@[simp] theorem putTab_fuses (r : TabReg) (q : Quad) : (s.putTab r q).fuses = s.fuses := rfl
@[simp] theorem putTab_glob (r : TabReg) (q : Quad) : (s.putTab r q).glob = s.glob := rfl
@[simp] theorem putTab_tel (r : TabReg) (q : Quad) : (s.putTab r q).tel = s.tel := rfl
@[simp] theorem putTab_dbg (r : TabReg) (q : Quad) : (s.putTab r q).dbg = s.dbg := rfl
@[simp] theorem putTab_felt (r : TabReg) (q : Quad) : (s.putTab r q).felt = s.felt := rfl
@[simp] theorem putTab_ports (r : TabReg) (q : Quad) : (s.putTab r q).ports = s.ports := rfl
@[simp] theorem putTab_sb (r : TabReg) (q : Quad) : (s.putTab r q).sb = s.sb := rfl
@[simp] theorem putTab_pwr (r : TabReg) (q : Quad) : (s.putTab r q).pwr = s.pwr := rfl
@[simp] theorem putTab_islands (r : TabReg) (q : Quad) : (s.putTab r q).islands = s.islands := rfl
@[simp] theorem putTab_ctxs (r : TabReg) (q : Quad) : (s.putTab r q).ctxs = s.ctxs := rfl
@[simp] theorem putTab_evtPtr (r : TabReg) (q : Quad) : (s.putTab r q).evtPtr = s.evtPtr := rfl
@[simp] theorem putTab_evtOut (r : TabReg) (q : Quad) : (s.putTab r q).evtOut = s.evtOut := rfl
@[simp] theorem putTab_evtHeld (r : TabReg) (q : Quad) : (s.putTab r q).evtHeld = s.evtHeld := rfl
@[simp] theorem putTab_tiles (r : TabReg) (q : Quad) : (s.putTab r q).tiles = s.tiles := rfl
@[simp] theorem putTab_tileMem (r : TabReg) (q : Quad) : (s.putTab r q).tileMem = s.tileMem := rfl
@[simp] theorem putTab_tileOwner (r : TabReg) (q : Quad) : (s.putTab r q).tileOwner = s.tileOwner := rfl
@[simp] theorem putTab_regionOwner (r : TabReg) (q : Quad) : (s.putTab r q).regionOwner = s.regionOwner := rfl
@[simp] theorem putTab_vat (r : TabReg) (q : Quad) : (s.putTab r q).vat = s.vat := rfl
@[simp] theorem putTab_ram (r : TabReg) (q : Quad) : (s.putTab r q).ram = s.ram := rfl
@[simp] theorem putTab_lines (r : TabReg) (q : Quad) : (s.putTab r q).lines = s.lines := rfl
@[simp] theorem putTab_cache (r : TabReg) (q : Quad) : (s.putTab r q).cache = s.cache := rfl
@[simp] theorem putTab_bad (r : TabReg) (q : Quad) : (s.putTab r q).bad = s.bad := rfl
@[simp] theorem putTab_reads (r : TabReg) (q : Quad) : (s.putTab r q).reads = s.reads := rfl
@[simp] theorem putTab_xlats (r : TabReg) (q : Quad) : (s.putTab r q).xlats = s.xlats := rfl
@[simp] theorem putTab_unacked (r : TabReg) (q : Quad) : (s.putTab r q).unacked = s.unacked := rfl
@[simp] theorem putTab_laneFree (r : TabReg) (q : Quad) : (s.putTab r q).laneFree = s.laneFree := rfl
@[simp] theorem putTab_front (r : TabReg) (q : Quad) : (s.putTab r q).front = s.front := rfl
@[simp] theorem putTab_korni (r : TabReg) (q : Quad) : (s.putTab r q).korni = s.korni := rfl
@[simp] theorem putTab_err (r : TabReg) (q : Quad) : (s.putTab r q).err = s.err := rfl
@[simp] theorem putTab_st (r : TabReg) (q : Quad) : (s.putTab r q).st = s.st := rfl
@[simp] theorem putTab_screen (r : TabReg) (q : Quad) : (s.putTab r q).screen = s.screen := rfl
@[simp] theorem putTab_sec (r : TabReg) (q : Quad) : (s.putTab r q).sec = s.sec := rfl

/-! countRetry. -/

@[simp] theorem countRetry_pending : s.countRetry.pending = s.pending := rfl
@[simp] theorem countRetry_powered : s.countRetry.powered = s.powered := rfl
@[simp] theorem countRetry_inReset : s.countRetry.inReset = s.inReset := rfl
@[simp] theorem countRetry_clock : s.countRetry.clock = s.clock := rfl
@[simp] theorem countRetry_freeCtr : s.countRetry.freeCtr = s.freeCtr := rfl
@[simp] theorem countRetry_ans : s.countRetry.ans = s.ans := rfl
@[simp] theorem countRetry_resp : s.countRetry.resp = s.resp := rfl
@[simp] theorem countRetry_leaseWaits : s.countRetry.leaseWaits = s.leaseWaits := rfl
@[simp] theorem countRetry_fuses : s.countRetry.fuses = s.fuses := rfl
@[simp] theorem countRetry_glob : s.countRetry.glob = s.glob := rfl
@[simp] theorem countRetry_tel : s.countRetry.tel = s.tel := rfl
@[simp] theorem countRetry_dbg : s.countRetry.dbg = s.dbg := rfl
@[simp] theorem countRetry_ports : s.countRetry.ports = s.ports := rfl
@[simp] theorem countRetry_sb : s.countRetry.sb = s.sb := rfl
@[simp] theorem countRetry_pwr : s.countRetry.pwr = s.pwr := rfl
@[simp] theorem countRetry_islands : s.countRetry.islands = s.islands := rfl
@[simp] theorem countRetry_ctxs : s.countRetry.ctxs = s.ctxs := rfl
@[simp] theorem countRetry_evtPtr : s.countRetry.evtPtr = s.evtPtr := rfl
@[simp] theorem countRetry_evtOut : s.countRetry.evtOut = s.evtOut := rfl
@[simp] theorem countRetry_evtHeld : s.countRetry.evtHeld = s.evtHeld := rfl
@[simp] theorem countRetry_tiles : s.countRetry.tiles = s.tiles := rfl
@[simp] theorem countRetry_tileMem : s.countRetry.tileMem = s.tileMem := rfl
@[simp] theorem countRetry_tileOwner : s.countRetry.tileOwner = s.tileOwner := rfl
@[simp] theorem countRetry_regionOwner : s.countRetry.regionOwner = s.regionOwner := rfl
@[simp] theorem countRetry_vat : s.countRetry.vat = s.vat := rfl
@[simp] theorem countRetry_ram : s.countRetry.ram = s.ram := rfl
@[simp] theorem countRetry_lines : s.countRetry.lines = s.lines := rfl
@[simp] theorem countRetry_cache : s.countRetry.cache = s.cache := rfl
@[simp] theorem countRetry_bad : s.countRetry.bad = s.bad := rfl
@[simp] theorem countRetry_reads : s.countRetry.reads = s.reads := rfl
@[simp] theorem countRetry_xlats : s.countRetry.xlats = s.xlats := rfl
@[simp] theorem countRetry_unacked : s.countRetry.unacked = s.unacked := rfl
@[simp] theorem countRetry_laneFree : s.countRetry.laneFree = s.laneFree := rfl
@[simp] theorem countRetry_tab : s.countRetry.tab = s.tab := rfl
@[simp] theorem countRetry_front : s.countRetry.front = s.front := rfl
@[simp] theorem countRetry_korni : s.countRetry.korni = s.korni := rfl
@[simp] theorem countRetry_err : s.countRetry.err = s.err := rfl
@[simp] theorem countRetry_st : s.countRetry.st = s.st := rfl
@[simp] theorem countRetry_screen : s.countRetry.screen = s.screen := rfl
@[simp] theorem countRetry_sec : s.countRetry.sec = s.sec := rfl

/-! tidy. -/

@[simp] theorem tidy_pending (c : CtxId) : (s.tidy c).pending = s.pending := rfl
@[simp] theorem tidy_powered (c : CtxId) : (s.tidy c).powered = s.powered := rfl
@[simp] theorem tidy_inReset (c : CtxId) : (s.tidy c).inReset = s.inReset := rfl
@[simp] theorem tidy_clock (c : CtxId) : (s.tidy c).clock = s.clock := rfl
@[simp] theorem tidy_freeCtr (c : CtxId) : (s.tidy c).freeCtr = s.freeCtr := rfl
@[simp] theorem tidy_ans (c : CtxId) : (s.tidy c).ans = s.ans := rfl
@[simp] theorem tidy_resp (c : CtxId) : (s.tidy c).resp = s.resp := rfl
@[simp] theorem tidy_leaseWaits (c : CtxId) : (s.tidy c).leaseWaits = s.leaseWaits := rfl
@[simp] theorem tidy_fuses (c : CtxId) : (s.tidy c).fuses = s.fuses := rfl
@[simp] theorem tidy_glob (c : CtxId) : (s.tidy c).glob = s.glob := rfl
@[simp] theorem tidy_tel (c : CtxId) : (s.tidy c).tel = s.tel := rfl
@[simp] theorem tidy_dbg (c : CtxId) : (s.tidy c).dbg = s.dbg := rfl
@[simp] theorem tidy_felt (c : CtxId) : (s.tidy c).felt = s.felt := rfl
@[simp] theorem tidy_ports (c : CtxId) : (s.tidy c).ports = s.ports := rfl
@[simp] theorem tidy_sb (c : CtxId) : (s.tidy c).sb = s.sb := rfl
@[simp] theorem tidy_pwr (c : CtxId) : (s.tidy c).pwr = s.pwr := rfl
@[simp] theorem tidy_islands (c : CtxId) : (s.tidy c).islands = s.islands := rfl
@[simp] theorem tidy_ctxs (c : CtxId) : (s.tidy c).ctxs = s.ctxs := rfl
@[simp] theorem tidy_evtPtr (c : CtxId) : (s.tidy c).evtPtr = s.evtPtr := rfl
@[simp] theorem tidy_evtHeld (c : CtxId) : (s.tidy c).evtHeld = s.evtHeld := rfl
@[simp] theorem tidy_evtOut (c : CtxId) : (s.tidy c).evtOut = s.evtOut := rfl
@[simp] theorem tidy_tiles (c : CtxId) : (s.tidy c).tiles = s.tiles := rfl
@[simp] theorem tidy_tileMem (c : CtxId) : (s.tidy c).tileMem = s.tileMem := rfl
@[simp] theorem tidy_tileOwner (c : CtxId) : (s.tidy c).tileOwner = s.tileOwner := rfl
@[simp] theorem tidy_regionOwner (c : CtxId) : (s.tidy c).regionOwner = s.regionOwner := rfl
@[simp] theorem tidy_vat (c : CtxId) : (s.tidy c).vat = s.vat := rfl
@[simp] theorem tidy_ram (c : CtxId) : (s.tidy c).ram = s.ram := rfl
@[simp] theorem tidy_lines (c : CtxId) : (s.tidy c).lines = s.lines := rfl
@[simp] theorem tidy_cache (c : CtxId) : (s.tidy c).cache = s.cache := rfl
@[simp] theorem tidy_reads (c : CtxId) : (s.tidy c).reads = s.reads := rfl
@[simp] theorem tidy_unacked (c : CtxId) : (s.tidy c).unacked = s.unacked := rfl
@[simp] theorem tidy_laneFree (c : CtxId) : (s.tidy c).laneFree = s.laneFree := rfl
@[simp] theorem tidy_tab (c : CtxId) : (s.tidy c).tab = s.tab := rfl
@[simp] theorem tidy_front (c : CtxId) : (s.tidy c).front = s.front := rfl
@[simp] theorem tidy_korni (c : CtxId) : (s.tidy c).korni = s.korni := rfl
@[simp] theorem tidy_err (c : CtxId) : (s.tidy c).err = s.err := rfl
@[simp] theorem tidy_st (c : CtxId) : (s.tidy c).st = s.st := rfl
@[simp] theorem tidy_sec (c : CtxId) : (s.tidy c).sec = s.sec := rfl

/-! mark. -/

@[simp] theorem mark_ctxs (ns : List Nat) : (s.mark ns).ctxs = s.ctxs := rfl
@[simp] theorem mark_pending (ns : List Nat) : (s.mark ns).pending = s.pending := rfl
@[simp] theorem mark_powered (ns : List Nat) : (s.mark ns).powered = s.powered := rfl
@[simp] theorem mark_inReset (ns : List Nat) : (s.mark ns).inReset = s.inReset := rfl
@[simp] theorem mark_clock (ns : List Nat) : (s.mark ns).clock = s.clock := rfl
@[simp] theorem mark_freeCtr (ns : List Nat) : (s.mark ns).freeCtr = s.freeCtr := rfl
@[simp] theorem mark_ans (ns : List Nat) : (s.mark ns).ans = s.ans := rfl
@[simp] theorem mark_resp (ns : List Nat) : (s.mark ns).resp = s.resp := rfl
@[simp] theorem mark_leaseWaits (ns : List Nat) : (s.mark ns).leaseWaits = s.leaseWaits := rfl
@[simp] theorem mark_fuses (ns : List Nat) : (s.mark ns).fuses = s.fuses := rfl
@[simp] theorem mark_glob (ns : List Nat) : (s.mark ns).glob = s.glob := rfl
@[simp] theorem mark_dbg (ns : List Nat) : (s.mark ns).dbg = s.dbg := rfl
@[simp] theorem mark_felt (ns : List Nat) : (s.mark ns).felt = s.felt := rfl
@[simp] theorem mark_ports (ns : List Nat) : (s.mark ns).ports = s.ports := rfl
@[simp] theorem mark_sb (ns : List Nat) : (s.mark ns).sb = s.sb := rfl
@[simp] theorem mark_pwr (ns : List Nat) : (s.mark ns).pwr = s.pwr := rfl
@[simp] theorem mark_islands (ns : List Nat) : (s.mark ns).islands = s.islands := rfl
@[simp] theorem mark_evtPtr (ns : List Nat) : (s.mark ns).evtPtr = s.evtPtr := rfl
@[simp] theorem mark_evtOut (ns : List Nat) : (s.mark ns).evtOut = s.evtOut := rfl
@[simp] theorem mark_evtHeld (ns : List Nat) : (s.mark ns).evtHeld = s.evtHeld := rfl
@[simp] theorem mark_tiles (ns : List Nat) : (s.mark ns).tiles = s.tiles := rfl
@[simp] theorem mark_tileMem (ns : List Nat) : (s.mark ns).tileMem = s.tileMem := rfl
@[simp] theorem mark_tileOwner (ns : List Nat) : (s.mark ns).tileOwner = s.tileOwner := rfl
@[simp] theorem mark_regionOwner (ns : List Nat) : (s.mark ns).regionOwner = s.regionOwner := rfl
@[simp] theorem mark_vat (ns : List Nat) : (s.mark ns).vat = s.vat := rfl
@[simp] theorem mark_ram (ns : List Nat) : (s.mark ns).ram = s.ram := rfl
@[simp] theorem mark_lines (ns : List Nat) : (s.mark ns).lines = s.lines := rfl
@[simp] theorem mark_cache (ns : List Nat) : (s.mark ns).cache = s.cache := rfl
@[simp] theorem mark_bad (ns : List Nat) : (s.mark ns).bad = s.bad := rfl
@[simp] theorem mark_reads (ns : List Nat) : (s.mark ns).reads = s.reads := rfl
@[simp] theorem mark_xlats (ns : List Nat) : (s.mark ns).xlats = s.xlats := rfl
@[simp] theorem mark_unacked (ns : List Nat) : (s.mark ns).unacked = s.unacked := rfl
@[simp] theorem mark_laneFree (ns : List Nat) : (s.mark ns).laneFree = s.laneFree := rfl
@[simp] theorem mark_tab (ns : List Nat) : (s.mark ns).tab = s.tab := rfl
@[simp] theorem mark_front (ns : List Nat) : (s.mark ns).front = s.front := rfl
@[simp] theorem mark_korni (ns : List Nat) : (s.mark ns).korni = s.korni := rfl
@[simp] theorem mark_err (ns : List Nat) : (s.mark ns).err = s.err := rfl
@[simp] theorem mark_st (ns : List Nat) : (s.mark ns).st = s.st := rfl
@[simp] theorem mark_screen (ns : List Nat) : (s.mark ns).screen = s.screen := rfl
@[simp] theorem mark_sec (ns : List Nat) : (s.mark ns).sec = s.sec := rfl

/-! respond. -/

@[simp] theorem respond_ctxs (r : EddyResp) : (s.respond r).ctxs = s.ctxs := rfl
@[simp] theorem respond_pending (r : EddyResp) : (s.respond r).pending = s.pending := rfl
@[simp] theorem respond_powered (r : EddyResp) : (s.respond r).powered = s.powered := rfl
@[simp] theorem respond_inReset (r : EddyResp) : (s.respond r).inReset = s.inReset := rfl
@[simp] theorem respond_clock (r : EddyResp) : (s.respond r).clock = s.clock := rfl
@[simp] theorem respond_freeCtr (r : EddyResp) : (s.respond r).freeCtr = s.freeCtr := rfl
@[simp] theorem respond_ans (r : EddyResp) : (s.respond r).ans = s.ans := rfl
@[simp] theorem respond_leaseWaits (r : EddyResp) : (s.respond r).leaseWaits = s.leaseWaits := rfl
@[simp] theorem respond_fuses (r : EddyResp) : (s.respond r).fuses = s.fuses := rfl
@[simp] theorem respond_glob (r : EddyResp) : (s.respond r).glob = s.glob := rfl
@[simp] theorem respond_tel (r : EddyResp) : (s.respond r).tel = s.tel := rfl
@[simp] theorem respond_dbg (r : EddyResp) : (s.respond r).dbg = s.dbg := rfl
@[simp] theorem respond_felt (r : EddyResp) : (s.respond r).felt = s.felt := rfl
@[simp] theorem respond_ports (r : EddyResp) : (s.respond r).ports = s.ports := rfl
@[simp] theorem respond_sb (r : EddyResp) : (s.respond r).sb = s.sb := rfl
@[simp] theorem respond_pwr (r : EddyResp) : (s.respond r).pwr = s.pwr := rfl
@[simp] theorem respond_islands (r : EddyResp) : (s.respond r).islands = s.islands := rfl
@[simp] theorem respond_evtPtr (r : EddyResp) : (s.respond r).evtPtr = s.evtPtr := rfl
@[simp] theorem respond_evtOut (r : EddyResp) : (s.respond r).evtOut = s.evtOut := rfl
@[simp] theorem respond_evtHeld (r : EddyResp) : (s.respond r).evtHeld = s.evtHeld := rfl
@[simp] theorem respond_tiles (r : EddyResp) : (s.respond r).tiles = s.tiles := rfl
@[simp] theorem respond_tileMem (r : EddyResp) : (s.respond r).tileMem = s.tileMem := rfl
@[simp] theorem respond_tileOwner (r : EddyResp) : (s.respond r).tileOwner = s.tileOwner := rfl
@[simp] theorem respond_regionOwner (r : EddyResp) : (s.respond r).regionOwner = s.regionOwner := rfl
@[simp] theorem respond_vat (r : EddyResp) : (s.respond r).vat = s.vat := rfl
@[simp] theorem respond_ram (r : EddyResp) : (s.respond r).ram = s.ram := rfl
@[simp] theorem respond_lines (r : EddyResp) : (s.respond r).lines = s.lines := rfl
@[simp] theorem respond_cache (r : EddyResp) : (s.respond r).cache = s.cache := rfl
@[simp] theorem respond_bad (r : EddyResp) : (s.respond r).bad = s.bad := rfl
@[simp] theorem respond_reads (r : EddyResp) : (s.respond r).reads = s.reads := rfl
@[simp] theorem respond_xlats (r : EddyResp) : (s.respond r).xlats = s.xlats := rfl
@[simp] theorem respond_unacked (r : EddyResp) : (s.respond r).unacked = s.unacked := rfl
@[simp] theorem respond_laneFree (r : EddyResp) : (s.respond r).laneFree = s.laneFree := rfl
@[simp] theorem respond_tab (r : EddyResp) : (s.respond r).tab = s.tab := rfl
@[simp] theorem respond_front (r : EddyResp) : (s.respond r).front = s.front := rfl
@[simp] theorem respond_korni (r : EddyResp) : (s.respond r).korni = s.korni := rfl
@[simp] theorem respond_err (r : EddyResp) : (s.respond r).err = s.err := rfl
@[simp] theorem respond_st (r : EddyResp) : (s.respond r).st = s.st := rfl
@[simp] theorem respond_screen (r : EddyResp) : (s.respond r).screen = s.screen := rfl
@[simp] theorem respond_sec (r : EddyResp) : (s.respond r).sec = s.sec := rfl
@[simp] theorem respond_resp (r : EddyResp) : (s.respond r).resp = s.resp ++ [r] := rfl

/-! loadLanes. -/

@[simp] theorem loadLanes_ctxs (segs : List Nat) : (s.loadLanes segs).ctxs = s.ctxs := rfl
@[simp] theorem loadLanes_pending (segs : List Nat) : (s.loadLanes segs).pending = s.pending := rfl
@[simp] theorem loadLanes_powered (segs : List Nat) : (s.loadLanes segs).powered = s.powered := rfl
@[simp] theorem loadLanes_inReset (segs : List Nat) : (s.loadLanes segs).inReset = s.inReset := rfl
@[simp] theorem loadLanes_clock (segs : List Nat) : (s.loadLanes segs).clock = s.clock := rfl
@[simp] theorem loadLanes_ans (segs : List Nat) : (s.loadLanes segs).ans = s.ans := rfl
@[simp] theorem loadLanes_resp (segs : List Nat) : (s.loadLanes segs).resp = s.resp := rfl
@[simp] theorem loadLanes_leaseWaits (segs : List Nat) : (s.loadLanes segs).leaseWaits = s.leaseWaits := rfl
@[simp] theorem loadLanes_fuses (segs : List Nat) : (s.loadLanes segs).fuses = s.fuses := rfl
@[simp] theorem loadLanes_glob (segs : List Nat) : (s.loadLanes segs).glob = s.glob := rfl
@[simp] theorem loadLanes_tel (segs : List Nat) : (s.loadLanes segs).tel = s.tel := rfl
@[simp] theorem loadLanes_dbg (segs : List Nat) : (s.loadLanes segs).dbg = s.dbg := rfl
@[simp] theorem loadLanes_felt (segs : List Nat) : (s.loadLanes segs).felt = s.felt := rfl
@[simp] theorem loadLanes_ports (segs : List Nat) : (s.loadLanes segs).ports = s.ports := rfl
@[simp] theorem loadLanes_sb (segs : List Nat) : (s.loadLanes segs).sb = s.sb := rfl
@[simp] theorem loadLanes_pwr (segs : List Nat) : (s.loadLanes segs).pwr = s.pwr := rfl
@[simp] theorem loadLanes_islands (segs : List Nat) : (s.loadLanes segs).islands = s.islands := rfl
@[simp] theorem loadLanes_evtPtr (segs : List Nat) : (s.loadLanes segs).evtPtr = s.evtPtr := rfl
@[simp] theorem loadLanes_evtOut (segs : List Nat) : (s.loadLanes segs).evtOut = s.evtOut := rfl
@[simp] theorem loadLanes_evtHeld (segs : List Nat) : (s.loadLanes segs).evtHeld = s.evtHeld := rfl
@[simp] theorem loadLanes_tiles (segs : List Nat) : (s.loadLanes segs).tiles = s.tiles := rfl
@[simp] theorem loadLanes_tileMem (segs : List Nat) : (s.loadLanes segs).tileMem = s.tileMem := rfl
@[simp] theorem loadLanes_tileOwner (segs : List Nat) : (s.loadLanes segs).tileOwner = s.tileOwner := rfl
@[simp] theorem loadLanes_regionOwner (segs : List Nat) : (s.loadLanes segs).regionOwner = s.regionOwner := rfl
@[simp] theorem loadLanes_vat (segs : List Nat) : (s.loadLanes segs).vat = s.vat := rfl
@[simp] theorem loadLanes_ram (segs : List Nat) : (s.loadLanes segs).ram = s.ram := rfl
@[simp] theorem loadLanes_lines (segs : List Nat) : (s.loadLanes segs).lines = s.lines := rfl
@[simp] theorem loadLanes_cache (segs : List Nat) : (s.loadLanes segs).cache = s.cache := rfl
@[simp] theorem loadLanes_bad (segs : List Nat) : (s.loadLanes segs).bad = s.bad := rfl
@[simp] theorem loadLanes_reads (segs : List Nat) : (s.loadLanes segs).reads = s.reads := rfl
@[simp] theorem loadLanes_xlats (segs : List Nat) : (s.loadLanes segs).xlats = s.xlats := rfl
@[simp] theorem loadLanes_unacked (segs : List Nat) : (s.loadLanes segs).unacked = s.unacked := rfl
@[simp] theorem loadLanes_tab (segs : List Nat) : (s.loadLanes segs).tab = s.tab := rfl
@[simp] theorem loadLanes_front (segs : List Nat) : (s.loadLanes segs).front = s.front := rfl
@[simp] theorem loadLanes_korni (segs : List Nat) : (s.loadLanes segs).korni = s.korni := rfl
@[simp] theorem loadLanes_err (segs : List Nat) : (s.loadLanes segs).err = s.err := rfl
@[simp] theorem loadLanes_st (segs : List Nat) : (s.loadLanes segs).st = s.st := rfl
@[simp] theorem loadLanes_screen (segs : List Nat) : (s.loadLanes segs).screen = s.screen := rfl
@[simp] theorem loadLanes_sec (segs : List Nat) : (s.loadLanes segs).sec = s.sec := rfl

/-! setClock. -/

@[simp] theorem setClock_pending (k : Nat) : (s.setClock k).pending = s.pending := rfl
@[simp] theorem setClock_powered (k : Nat) : (s.setClock k).powered = s.powered := rfl
@[simp] theorem setClock_inReset (k : Nat) : (s.setClock k).inReset = s.inReset := rfl
@[simp] theorem setClock_freeCtr (k : Nat) : (s.setClock k).freeCtr = s.freeCtr := rfl
@[simp] theorem setClock_resp (k : Nat) : (s.setClock k).resp = s.resp := rfl
@[simp] theorem setClock_leaseWaits (k : Nat) : (s.setClock k).leaseWaits = s.leaseWaits := rfl
@[simp] theorem setClock_fuses (k : Nat) : (s.setClock k).fuses = s.fuses := rfl
@[simp] theorem setClock_glob (k : Nat) : (s.setClock k).glob = s.glob := rfl
@[simp] theorem setClock_tel (k : Nat) : (s.setClock k).tel = s.tel := rfl
@[simp] theorem setClock_dbg (k : Nat) : (s.setClock k).dbg = s.dbg := rfl
@[simp] theorem setClock_felt (k : Nat) : (s.setClock k).felt = s.felt := rfl
@[simp] theorem setClock_ports (k : Nat) : (s.setClock k).ports = s.ports := rfl
@[simp] theorem setClock_sb (k : Nat) : (s.setClock k).sb = s.sb := rfl
@[simp] theorem setClock_pwr (k : Nat) : (s.setClock k).pwr = s.pwr := rfl
@[simp] theorem setClock_islands (k : Nat) : (s.setClock k).islands = s.islands := rfl
@[simp] theorem setClock_ctxs (k : Nat) : (s.setClock k).ctxs = s.ctxs := rfl
@[simp] theorem setClock_evtPtr (k : Nat) : (s.setClock k).evtPtr = s.evtPtr := rfl
@[simp] theorem setClock_evtHeld (k : Nat) : (s.setClock k).evtHeld = s.evtHeld := rfl
@[simp] theorem setClock_evtOut (k : Nat) : (s.setClock k).evtOut = s.evtOut := rfl
@[simp] theorem setClock_tiles (k : Nat) : (s.setClock k).tiles = s.tiles := rfl
@[simp] theorem setClock_tileMem (k : Nat) : (s.setClock k).tileMem = s.tileMem := rfl
@[simp] theorem setClock_tileOwner (k : Nat) : (s.setClock k).tileOwner = s.tileOwner := rfl
@[simp] theorem setClock_regionOwner (k : Nat) : (s.setClock k).regionOwner = s.regionOwner := rfl
@[simp] theorem setClock_vat (k : Nat) : (s.setClock k).vat = s.vat := rfl
@[simp] theorem setClock_ram (k : Nat) : (s.setClock k).ram = s.ram := rfl
@[simp] theorem setClock_lines (k : Nat) : (s.setClock k).lines = s.lines := rfl
@[simp] theorem setClock_cache (k : Nat) : (s.setClock k).cache = s.cache := rfl
@[simp] theorem setClock_bad (k : Nat) : (s.setClock k).bad = s.bad := rfl
@[simp] theorem setClock_reads (k : Nat) : (s.setClock k).reads = s.reads := rfl
@[simp] theorem setClock_xlats (k : Nat) : (s.setClock k).xlats = s.xlats := rfl
@[simp] theorem setClock_unacked (k : Nat) : (s.setClock k).unacked = s.unacked := rfl
@[simp] theorem setClock_laneFree (k : Nat) : (s.setClock k).laneFree = s.laneFree := rfl
@[simp] theorem setClock_tab (k : Nat) : (s.setClock k).tab = s.tab := rfl
@[simp] theorem setClock_front (k : Nat) : (s.setClock k).front = s.front := rfl
@[simp] theorem setClock_korni (k : Nat) : (s.setClock k).korni = s.korni := rfl
@[simp] theorem setClock_err (k : Nat) : (s.setClock k).err = s.err := rfl
@[simp] theorem setClock_st (k : Nat) : (s.setClock k).st = s.st := rfl
@[simp] theorem setClock_screen (k : Nat) : (s.setClock k).screen = s.screen := rfl
@[simp] theorem setClock_sec (k : Nat) : (s.setClock k).sec = s.sec := rfl

/-! What reading gives after an update. -/

variable {s}

@[simp] theorem ctx_setCtx_same (c : CtxId) (x : Ctx) : (s.setCtx c x).ctx c = x := by simp [State.ctx, State.setCtx]
theorem ctx_setCtx_other {c d : CtxId} (x : Ctx) (h : d ≠ c) : (s.setCtx c x).ctx d = s.ctx d := by
  have e : c.val ≠ d.val := fun he => h (Fin.ext he.symm)
  simp [State.ctx, State.setCtx, e]
@[simp] theorem ctx_upCtx_same (c : CtxId) (f : Ctx → Ctx) : (s.upCtx c f).ctx c = f (s.ctx c) := ctx_setCtx_same _ _
theorem ctx_upCtx_other {c d : CtxId} (f : Ctx → Ctx) (h : d ≠ c) : (s.upCtx c f).ctx d = s.ctx d := ctx_setCtx_other _ h
@[simp] theorem ctx_putEntry_same (c : CtxId) (e : Entry) :
    (s.putEntry c e).ctx c = { s.ctx c with window := setEntry e (s.ctx c).window } := ctx_upCtx_same _ _
theorem ctx_putEntry_other {c d : CtxId} (e : Entry) (h : d ≠ c) : (s.putEntry c e).ctx d = s.ctx d := ctx_upCtx_other _ h

theorem tile_setTile_same {n : Nat} (t : Tile) (h : n < 512) : (s.setTile n t).tile n = t := by
  simp [State.tile, State.setTile, h]
theorem tile_setTile_other {n m : Nat} (t : Tile) (h : m ≠ n) : (s.setTile n t).tile m = s.tile m := by
  simp [State.tile, State.setTile, Ne.symm h]

@[simp] theorem port_upPort_same (p : Fin 12) (f : Port → Port) : (s.upPort p f).port p = f (s.port p) := by
  simp [State.port, State.upPort]
theorem port_upPort_other {p q : Fin 12} (f : Port → Port) (h : q ≠ p) : (s.upPort p f).port q = s.port q := by
  have e : p.val ≠ q.val := fun he => h (Fin.ext he.symm)
  simp [State.port, State.upPort, e]

theorem island_upIsland_same {n : Nat} (f : Island → Island) (h : n < 121) : (s.upIsland n f).island n = f (s.island n) := by
  simp [State.island, State.upIsland, h]
theorem island_upIsland_other {n m : Nat} (f : Island → Island) (h : m ≠ n) : (s.upIsland n f).island m = s.island m := by
  simp [State.island, State.upIsland, Ne.symm h]

/-! Contexts and tiles under the other updates. -/

@[simp] theorem tile_setCtx (c : CtxId) (x : Ctx) (i : Nat) : (s.setCtx c x).tile i = s.tile i := rfl
@[simp] theorem tile_upCtx (c : CtxId) (f : Ctx → Ctx) (i : Nat) : (s.upCtx c f).tile i = s.tile i := rfl
@[simp] theorem tile_putEntry (c : CtxId) (e : Entry) (i : Nat) : (s.putEntry c e).tile i = s.tile i := rfl
@[simp] theorem ctx_setTile (n : Nat) (t : Tile) (i : CtxId) : (s.setTile n t).ctx i = s.ctx i := rfl
@[simp] theorem ctx_putTile (n o : Nat) (bs : List Byte) (i : CtxId) : (s.putTile n o bs).ctx i = s.ctx i := rfl
@[simp] theorem tile_putTile (n o : Nat) (bs : List Byte) (i : Nat) : (s.putTile n o bs).tile i = s.tile i := rfl
@[simp] theorem ctx_upPort (p : Fin 12) (f : Port → Port) (i : CtxId) : (s.upPort p f).ctx i = s.ctx i := rfl
@[simp] theorem tile_upPort (p : Fin 12) (f : Port → Port) (i : Nat) : (s.upPort p f).tile i = s.tile i := rfl
@[simp] theorem ctx_upIsland (n : Nat) (f : Island → Island) (i : CtxId) : (s.upIsland n f).ctx i = s.ctx i := rfl
@[simp] theorem tile_upIsland (n : Nat) (f : Island → Island) (i : Nat) : (s.upIsland n f).tile i = s.tile i := rfl
@[simp] theorem ctx_fresh (i : CtxId) : (s.fresh).ctx i = s.ctx i := rfl
@[simp] theorem tile_fresh (i : Nat) : (s.fresh).tile i = s.tile i := rfl
@[simp] theorem ctx_tally (n k : Nat) (i : CtxId) : (s.tally n k).ctx i = s.ctx i := rfl
@[simp] theorem tile_tally (n k : Nat) (i : Nat) : (s.tally n k).tile i = s.tile i := rfl
@[simp] theorem ctx_ungrant (c : CtxId) (n : Seq) (i : CtxId) : (s.ungrant c n).ctx i = s.ctx i := rfl
@[simp] theorem tile_ungrant (c : CtxId) (n : Seq) (i : Nat) : (s.ungrant c n).tile i = s.tile i := rfl
@[simp] theorem ctx_dropXlats (c : CtxId) (k : Nat) (i : CtxId) : (s.dropXlats c k).ctx i = s.ctx i := rfl
@[simp] theorem tile_dropXlats (c : CtxId) (k : Nat) (i : Nat) : (s.dropXlats c k).tile i = s.tile i := rfl
@[simp] theorem ctx_tidy (c : CtxId) (i : CtxId) : (s.tidy c).ctx i = s.ctx i := rfl
@[simp] theorem tile_tidy (c : CtxId) (i : Nat) : (s.tidy c).tile i = s.tile i := rfl
@[simp] theorem ctx_setClock (k : Nat) (i : CtxId) : (s.setClock k).ctx i = s.ctx i := rfl
@[simp] theorem tile_setClock (k : Nat) (i : Nat) : (s.setClock k).tile i = s.tile i := rfl
@[simp] theorem tile_faultEntry (c : CtxId) (e : Entry) (k : Nat) (f : FaultRec) (i : Nat) : (s.faultEntry c e k f).tile i = s.tile i := rfl
@[simp] theorem ctx_putTab (r : TabReg) (q : Quad) (i : CtxId) : (s.putTab r q).ctx i = s.ctx i := rfl
@[simp] theorem tile_putTab (r : TabReg) (q : Quad) (i : Nat) : (s.putTab r q).tile i = s.tile i := rfl
@[simp] theorem ctx_mark (ns : List Nat) (d : CtxId) : (s.mark ns).ctx d = s.ctx d := rfl
@[simp] theorem tile_mark (ns : List Nat) (n : Nat) : (s.mark ns).tile n = s.tile n := rfl
@[simp] theorem ctx_respond (r : EddyResp) (d : CtxId) : (s.respond r).ctx d = s.ctx d := rfl
@[simp] theorem ctx_loadLanes (segs : List Nat) (d : CtxId) : (s.loadLanes segs).ctx d = s.ctx d := rfl
@[simp] theorem tile_loadLanes (segs : List Nat) (n : Nat) : (s.loadLanes segs).tile n = s.tile n := rfl

/-- An entry that replaces the one of its sequence number is found in its place. -/
theorem find_setEntry {e x : Entry} {w : List Entry} (h : w.find? (fun y => y.seq == e.seq) = some x) :
    (setEntry e w).find? (fun y => y.seq == e.seq) = some e := by
  induction w with
  | nil => cases h
  | cons y r ih =>
    by_cases hy : y.seq = e.seq
    · simp [setEntry, hy]
    · rw [List.find?_cons_of_neg (by simpa using hy)] at h
      simp [setEntry, hy, ih h]

theorem entry_putEntry {c : CtxId} {e x : Entry} (h : (s.ctx c).entry e.seq = some x) : ((s.putEntry c e).ctx c).entry e.seq = some e := by
  rw [ctx_putEntry_same]
  exact find_setEntry h

end Sys2Proof.Machine
end

