-- ==== Sys2Proof/Laws/Ops.lean ====
section
/-! SUPPORT. What each shared operation can do, said once: which fields of the state it may change, and a register write's two
outcomes. A proof about a meaning cites these and does not unfold the operation. -/

namespace Sys2Proof.Machine

variable {s t : State}

/-! Outcomes. -/

theorem whenUp_up (h : s.up = true) : whenUp s t = .next t := by simp [whenUp, h]
theorem whenUp_down (h : s.up = false) : whenUp s t = .next s := by simp [whenUp, h]
theorem whenUp_next {u : State} (h : whenUp s t = .next u) : u = t ∨ u = s := by
  cases hs : s.up
  · rw [whenUp_down hs] at h
    cases h
    exact .inr rfl
  · rw [whenUp_up hs] at h
    cases h
    exact .inl rfl

/-! The trace queue and the error log. -/

/-- A trace record changes the trace alone. -/
theorem tracePush_spec (q : Quad) : ∃ d, s.tracePush q = { s with dbg := d } := by
  unfold State.tracePush
  split <;> exact ⟨_, rfl⟩

theorem trace_spec (typ : Nat) (c : Option CtxId) (fld mid : Nat) : ∃ d, s.trace typ c fld mid = { s with dbg := d } := by
  unfold State.trace
  split
  · exact tracePush_spec _
  · exact ⟨_, rfl⟩

theorem traceInsn_spec (typ : Nat) (c : CtxId) (n : Seq) (o : Nat) : ∃ d, s.traceInsn typ c n o = { s with dbg := d } := by
  unfold State.traceInsn
  split
  · exact trace_spec _ _ _ _
  · exact ⟨_, rfl⟩

/-- A logged event changes the log and the trace alone. -/
theorem logErr_spec (v : ErrEvent) : ∃ l d, s.logErr v = { s with err := l, dbg := d } := by
  unfold State.logErr
  dsimp only
  split
  · exact ⟨_, _, rfl⟩
  · split
    · exact ⟨_, _, rfl⟩
    · obtain ⟨d, hd⟩ := trace_spec (s := { s with err := { s.err with
        entries := s.err.entries.setIfInBounds (s.err.head.toNat % 64) (errLo v s.clock, errHi v 1), head := s.err.head + 1
        evq := if s.err.evtEn then s.err.evq ++ [BitVec.ofNat 16 (s.err.head.toNat % 64 + v.code % 256 * 64)] else s.err.evq } })
        6 none (s.err.head.toNat % 64) 0
      exact ⟨_, _, hd⟩

theorem logCorrected_spec (kind unit loc : Nat) : ∃ l d, s.logCorrected kind unit loc = { s with err := l, dbg := d } :=
  let ⟨l, d, h⟩ := logErr_spec (s := { s with err := { s.err with corr := satAdd s.err.corr 1 } }) ⟨0x01, kind, unit, 0, loc⟩
  ⟨l, d, h⟩

theorem logUncorrectable_spec (kind unit loc : Nat) : ∃ l d, s.logUncorrectable kind unit loc = { s with err := l, dbg := d } :=
  let ⟨l, d, h⟩ := logErr_spec (s := { s with err := { s.err with uncorr := satAdd s.err.uncorr 1 } }) ⟨0x02, kind, unit, 0, loc⟩
  ⟨l, d, h⟩

/-! Table registers. -/

/-- The reading of table registers changes their copies, the log and the trace alone. -/
theorem compare_spec (r : TabReg) : ∃ tab l d, s.compare r = { s with tab := tab, err := l, dbg := d } := by
  unfold State.compare State.logTable
  dsimp only
  split
  · obtain ⟨l, d, h⟩ := logErr_spec (s := s) ⟨0x0E, 7, r.table, 0, r.offset⟩
    exact ⟨s.tab, l, d, h⟩
  · split
    · rename_i q _ _
      obtain ⟨l, d, h⟩ := logErr_spec (s := ({ s with tab := r.put s.tab (.all q) } : State)) ⟨0x0D, 7, r.table, 0, r.offset⟩
      exact ⟨_, l, d, h⟩
    · exact ⟨_, _, _, rfl⟩

theorem compareAll_spec (rs : List TabReg) : ∃ tab l d, s.compareAll rs = { s with tab := tab, err := l, dbg := d } := by
  induction rs generalizing s with
  | nil => exact ⟨_, _, _, rfl⟩
  | cons r t ih =>
    obtain ⟨tab, l, d, h⟩ := compare_spec (s := s) r
    obtain ⟨tab', l', d', h'⟩ := ih (s := s.compare r)
    refine ⟨tab', l', d', ?_⟩
    show (s.compare r).compareAll t = _
    rw [h', h]

/-! Self-tests. -/

/-- The start of a test changes the self-test state, the spare map with what its read logs, and the lines of the cache alone. -/
theorem startTest_spec (u : TestUnit) :
    ∃ st tab lines l d, s.startTest u = { s with st := st, tab := tab, lines := lines, err := l, dbg := d } := by
  obtain ⟨tp, lp, dp, hp⟩ := compare_spec (s := { s with st := { s.st with running := s.st.running ++ [u] } }) .sparePlane
  obtain ⟨te, le, de, he⟩ := compare_spec (s := { s with st := { s.st with running := s.st.running ++ [u] } }) .spareEng
  unfold State.startTest
  split
  · exact ⟨_, _, _, _, _, rfl⟩
  · dsimp only
    split
    · rw [hp]
      split
      · exact ⟨_, _, _, _, _, rfl⟩
      · split <;> exact ⟨_, _, _, _, _, rfl⟩
    · rw [he]
      split <;> exact ⟨_, _, _, _, _, rfl⟩
    · exact ⟨_, _, _, _, _, rfl⟩
    · exact ⟨_, _, _, _, _, rfl⟩

/-! Korni records. -/

/-- A record changes the Korni state alone. -/
theorem korniPut_spec (typ c a : Nat) (p : List Byte) : ∃ k, s.korniPut typ c a p = { s with korni := k } := by
  unfold State.korniPut
  split <;> exact ⟨_, rfl⟩

theorem korniEvent_spec (typ c a : Nat) (p : List Byte) : ∃ k, s.korniEvent typ c a p = { s with korni := k } := by
  unfold State.korniEvent
  split
  · split
    · exact korniPut_spec _ _ _ _
    · exact ⟨_, rfl⟩
  · exact ⟨_, rfl⟩

/-- Outside record mode no record is written. -/
theorem korniPut_off (h : s.recording = false) (typ c a : Nat) (p : List Byte) : s.korniPut typ c a p = s := by simp [State.korniPut, h]
theorem korniEvent_off (h : s.recording = false) (typ c a : Nat) (p : List Byte) : s.korniEvent typ c a p = s := by
  simp [State.korniEvent, h]

/-! Register writes. -/

/-- An answer changes the eddy response alone. -/
theorem answer_spec (src : Source) (id : BitVec 4) (err : Bool) : ∃ r, s.answer src id err = { s with resp := r } := by
  cases src <;> exact ⟨_, rfl⟩

theorem takesWrite_up {src : Source} {id : BitVec 4} {off : Nat} {p : Part} {v : Quad} (h : s.takesWrite src id off p v = true) :
    s.up = true := by
  simp only [State.takesWrite, Bool.and_eq_true] at h
  exact h.1.1.1.1.1

/-- What a write reads of the tables changes them and the error log alone. -/
theorem readFor_spec (off : Nat) (a : Access) : ∃ tab l d, s.readFor off a = { s with tab := tab, err := l, dbg := d } := compareAll_spec _

/-- A register outside the tables has its write read nothing of them. -/
theorem readFor_none {off : Nat} (a : Access) (h : ∀ n, regAt off ≠ .fmtLo n) (h1 : ∀ t, regAt off ≠ .curve t)
    (h2 : ∀ t, regAt off ≠ .spare t) : s.readFor off a = s := by
  have e : s.writeReads off a = [] := by
    unfold State.writeReads
    split
    · rfl
    · split
      · exact absurd ‹_› (h _)
      · exact absurd ‹_› (h1 _)
      · exact absurd ‹_› (h1 _)
      · exact absurd ‹_› (h1 _)
      · exact absurd ‹_› (h2 _)
      · exact absurd ‹_› (h2 _)
      · exact absurd ‹_› (h2 _)
      · rfl
  unfold State.readFor
  rw [e]
  rfl

/-- The window passes a write that it takes to the register's own rule. -/
theorem tryWrite_taken {src : Source} {id : BitVec 4} {off : Nat} {p : Part} {v : Quad} (h : s.takesWrite src id off p v = true) (g : Bool) :
    s.tryWrite off ⟨some (s.srcDomain src), p, v, g⟩ =
      (s.readFor off ⟨some (s.srcDomain src), p, v, g⟩).writeReg (regAt off) ⟨some (s.srcDomain src), p, v, g⟩ := by
  simp only [State.takesWrite, Bool.and_eq_true, decide_eq_true_eq, Bool.not_eq_true'] at h
  have hb : s.barsWrite off ⟨some (s.srcDomain src), p, v, g⟩ = false := by simp [State.barsWrite, h.1.1.1.2, h.1.1.2, h.1.2]
  simp [State.tryWrite, hb]

/-- FRONT_GO at the time of a write does not decide the room of its record. -/
theorem roomAt_goLow (off : Nat) (d : Option (BitVec 8)) (p : Part) (v : Quad) (g : Bool) :
    s.roomAt off (s.tryWrite off ⟨d, p, v, g⟩) = s.roomAt off (s.tryWrite off ⟨d, p, v, true⟩) := by
  by_cases hr : regAt off = .korniTail
  · have e : s.tryWrite off ⟨d, p, v, g⟩ = s.tryWrite off ⟨d, p, v, true⟩ := by
      unfold State.tryWrite State.readFor State.writeReads State.barsWrite
      rw [hr]
      rfl
    rw [e]
  · have other : ∀ w, s.roomAt off w = s := by
      intro w
      unfold State.roomAt
      split
      · rename_i h
        exact absurd h hr
      · rfl
    rw [other, other]

/-- A write that the window takes does not wait: nothing of its identifier is unanswered, and its record has room. -/
theorem taken_goes {src : Source} {id : BitVec 4} {off : Nat} {p : Part} {v : Quad} (h : s.takesWrite src id off p v = true) (g : Bool) :
    (s.idWaits src id || (s.recordsWrite src &&
      !(s.roomAt off (s.tryWrite off ⟨some (s.srcDomain src), p, v, g⟩)).korniRoom (korniLen (writeRecord off p v)) false)) = false := by
  rw [roomAt_goLow]
  simp only [State.takesWrite, Bool.and_eq_true, Bool.not_eq_true'] at h
  obtain ⟨⟨⟨⟨⟨_, hi⟩, _⟩, _⟩, _⟩, hr⟩ := h
  cases hd : s.recordsWrite src
  · simp [hi]
  · simpa [hi, hd] using hr

/-- A write that is carried out: its effect, its record, its answer. -/
theorem regWrite_written {src : Source} {id : BitVec 4} {off : Nat} {p : Part} {v : Quad} {g : Bool}
    (h : s.takesWrite src id off p v = true) (hw : (s.readFor off ⟨some (s.srcDomain src), p, v, g⟩).writeReg (regAt off) ⟨some (s.srcDomain src), p, v, g⟩ = .ok t) :
    s.regWrite src id off p v g = s.written src id off p v t := by
  have hr := taken_goes h g
  simp only [writeRecord] at hr
  unfold State.regWrite State.written
  dsimp only
  rw [if_neg (by rw [hr]; exact Bool.false_ne_true), tryWrite_taken h, hw]

/-- A write that its register refuses: what it read of the tables, and its answer. -/
theorem regWrite_refused {src : Source} {id : BitVec 4} {off : Nat} {p : Part} {v : Quad} {g : Bool}
    (h : s.takesWrite src id off p v = true) (hw : (s.readFor off ⟨some (s.srcDomain src), p, v, g⟩).writeReg (regAt off) ⟨some (s.srcDomain src), p, v, g⟩ = .refused) :
    s.regWrite src id off p v g = (s.readFor off ⟨some (s.srcDomain src), p, v, g⟩).answer src id true := by
  have hr := taken_goes h g
  simp only [writeRecord] at hr
  unfold State.regWrite
  dsimp only
  rw [if_neg (by rw [hr]; exact Bool.false_ne_true), tryWrite_taken h, hw]

/-- The record of a write changes the Korni state alone. -/
theorem putWrite_spec (due : Bool) (off : Nat) (p : Part) (v : Quad) : ∃ k, s.putWrite due off p v = { s with korni := k } := by
  unfold State.putWrite
  split
  · exact korniPut_spec _ _ _ _
  · exact ⟨_, rfl⟩

/-- What follows a register's own effect changes the Korni state and the eddy response alone. -/
theorem written_spec (src : Source) (id : BitVec 4) (off : Nat) (p : Part) (v : Quad) :
    ∃ k r, s.written src id off p v t = { t with korni := k, resp := r } := by
  obtain ⟨k, hk⟩ := putWrite_spec (s := t) (s.recordsWrite src) off p v
  obtain ⟨r, hr⟩ := answer_spec (s := { t with korni := k }) src id false
  refine ⟨k, r, ?_⟩
  unfold State.written
  rw [hk, hr]

/-! Bring-up. -/

/-- The boot table image passes the checks of 15 R457 and R458. -/
theorem tableGood_bootImage : tableGood bootImage = true := by decide +kernel

/-! Instructions. -/

/-- The context of an instruction that faults (06 R197). -/
theorem ctx_faultEntry_same (c : CtxId) (e : Entry) (k : Nat) (f : FaultRec) : (s.faultEntry c e k f).ctx c =
    { s.ctx c with
      st := if (s.ctx c).st = .run then .draining else (s.ctx c).st
      sealedGen := (s.ctx c).sealedGen && e.insn.op != some .upd
      window := cancelAfter e.seq (setEntry { e with phase := .faulted, fault := some (k, f), granted := false } (s.ctx c).window) } := by
  unfold State.faultEntry
  dsimp only
  rw [ctx_tidy, ctx_upCtx_same]
theorem ctx_faultEntry_other {c d : CtxId} (e : Entry) (k : Nat) (f : FaultRec) (h : d ≠ c) : (s.faultEntry c e k f).ctx d = s.ctx d := by
  unfold State.faultEntry
  dsimp only
  rw [ctx_tidy, ctx_upCtx_other _ h]

/-- A completion changes the telemetry, the trace, the Screen's grants, the translations, the marks of lines and the contexts alone, and of
the contexts only the instruction's own (06 R190). -/
theorem complete_spec (c : CtxId) (e : Entry) : ∃ tel dbg screen xlats bad, s.complete c e =
    { s with tel := tel, dbg := dbg, screen := screen, xlats := xlats, bad := bad
             ctxs := s.ctxs.set c ({ s.ctx c with
               window := setEntry { e with phase := .completed, granted := false } (s.ctx c).window } : Ctx).settle } := by
  obtain ⟨d, hd⟩ := traceInsn_spec (s := s.tally 1 1) 2 c e.seq e.insn.opcode
  refine ⟨(s.tally 1 1).tel, d, ((s.tally 1 1).ungrant c e.seq).screen, (s.dropXlats c e.seq.toNat).xlats, (s.dropXlats c e.seq.toNat).bad, ?_⟩
  unfold State.complete
  dsimp only
  rw [hd]
  rfl

end Sys2Proof.Machine
end

