-- ==== Sys2Proof/Tests/Slice0.lean ====
section
/-! SUPPORT. Tests: ill-formed commands are refused by the check; for every statement that has hypotheses a concrete state and
operands that meet them; and single steps whose results are worked out from the spec. -/

-- One theorem at a time: each is a kernel evaluation, and many at once ask for too many threads.
set_option Elab.async false

namespace Sys2Proof.Tests

open Sys2Proof.Machine

/-! Helpers. -/

/-- A quad with each value placed at its lowest bit. -/
def word (fs : List (Nat × Nat)) : Quad := BitVec.ofNat 64 (fs.foldl (fun a f => a + f.1 * 2 ^ f.2) 0)
/-- A deckle word of rows, columns and format. -/
def dk (rows cols fmt : Nat) : Quad := word [(rows - 1, 0), (cols - 1, 10), (fmt, 20)]
/-- A 32-byte instruction. -/
def long (a b c d : Quad) : Insn := ⟨true, [a, b, c, d]⟩
/-- The block in READY. -/
def up0 : State := { State.reset with inReset := false, glob := { State.reset.glob with bu := 5 } }
/-- A context in RUN that leases every tile and region. -/
def runCtx (w : List Entry) : Ctx :=
  { st := .run, en := true, accepted := 1, tlease := BitVec.allOnes 512, vlease := BitVec.allOnes 128, window := w }
/-- The first instruction of a window, let begin by the scoreboard. -/
def ent (i : Insn) : Entry := { seq := 1, insn := i, phase := .ready, first := i.first, upTo := i.first }
/-- Context 0 running one instruction. -/
def at0 (s : State) (e : Entry) : State := s.setCtx 0 (runCtx [e])
/-- What a command leaves, and what a step leaves, tested. -/
def after (i : Instr) (s : State) (p : State → Bool) : Bool := match exec i s with | .next t => p t | _ => false
def stepped (s : State) (p : State → Bool) : Bool := match step s with | .next t => p t | _ => false

/-! The check refuses an ill-formed command, one for each of its tests. -/

theorem test_wf_spanCheck : Instr.wf (.spanCheck 0 1 0 0 []) = false := by decide
theorem test_wf_record : Instr.wf (.korniReplayRecord ⟨6, 0, 2, 0, 0, [0]⟩) = false := by decide
theorem test_wf_eddyData : Instr.wf (.eddyCommand true 4 3 0 0 (List.replicate 4 0) (List.replicate 8 true) ⟨false, .clean⟩) = false := by decide
theorem test_wf_eddyEnables : Instr.wf (.eddyCommand false 4 3 0 0 [] [true] ⟨false, .clean⟩) = false := by decide
theorem test_wf_memoryRead : Instr.wf (.memoryReadResponse 0 0 [0] 0) = false := by decide
theorem test_wf_beatEmpty : Instr.wf (.beatTransfer (.port 0) true ⟨0, []⟩ []) = false := by decide
theorem test_wf_beatRace : Instr.wf (.beatTransfer (.port 8) true ⟨257, List.replicate 257 0⟩ (List.replicate 257 false)) = false := by
  decide +kernel
theorem test_wf_beatEddy : Instr.wf (.beatTransfer .eddy true ⟨8, List.replicate 8 0⟩ []) = false ∧
    Instr.wf (.beatTransfer .eddy false ⟨4, List.replicate 4 0⟩ []) = false := by decide
theorem test_wf_frontGo : Instr.wf (.frontGoCount 7 0 true) = false := by decide
theorem test_wf_wipe : Instr.wf (.wipeEnd 8001) = false := by decide
theorem test_wf_power : Instr.wf (.powerInterval []) = false := by decide
theorem test_wf_temperature : Instr.wf (.temperatureSample [0]) = false := by decide
theorem test_wf_outcome : Instr.wf (.selfTestEnd .screen (.badLane 0)) = false := by decide
theorem test_wf_testDone : Instr.wf (.testDone [(.screen, .pass)]) = false := by decide
theorem test_wf_reset : Instr.wf (.reset 0) = false := by decide
theorem test_wf_good : Instr.wf (.eddyCommand true 4 3 0 0 (List.replicate 8 0) (List.replicate 8 true) ⟨false, .clean⟩) = true := by decide


/-! The block. -/

/-- The hypotheses of StepRunsFront. -/
theorem witness_stepRunsFront :
    ({ up0 with pending := [.powerLoss, .traceSync] } : State).pending = .powerLoss :: [.traceSync] ∧ up0.pending = [] := by decide +kernel

/-- The hypotheses of ResetAndPowerLoss, at the boundary of 4 cycles. -/
theorem witness_resetAndPowerLoss : 4 ≤ 4 ∧ 3 < 4 := by decide

/-- The hypotheses of StepKeepsCanon: the state after reset, with a command in front. -/
theorem witness_stepKeepsCanon :
    ({ State.reset with pending := [.resetRelease 2 1] } : State).Canon ∧
      ∃ t, step { State.reset with pending := [.resetRelease 2 1] } = .next t :=
  ⟨⟨by decide +kernel, by decide +kernel, by decide +kernel, by decide +kernel, by decide +kernel⟩, _, rfl⟩

/-- MODE 3 of CK_KORNI_CTL, written from the supervisor domain, takes the written value (00 R11). -/
theorem test_korniMode3 : after (.korniModeSet (.eddy 0) 3) up0 (fun t => t.korni.mode == 3) = true := by decide +kernel

/-- A command of the queue's front is taken, and the rest waits. -/
theorem test_stepTakesFront :
    stepped { up0 with pending := [.spareCopyDone 1 false, .traceSync] } (fun t => decide (t.pending = [.traceSync])) = true := by
  decide +kernel

/-! Reset and bring-up. -/

/-- The block out of reset in bring-up state `n`. -/
def bring (n : BitVec 3) : State := { State.reset with inReset := false, glob := { State.reset.glob with bu := n } }

/-- The hypotheses of BringUpLoads. -/
theorem witness_bringUpLoads :
    (State.reset.powered = true ∧ State.reset.inReset = true) ∧ ((bring 0).up = true ∧ (bring 0).glob.bu = 0) ∧
      ((bring 1).up = true ∧ (bring 1).glob.bu = 1) := by decide +kernel

/-- The block in TEST, with `n` quadrants reported and the next one's switch closed. -/
def powering (n : Nat) : State :=
  { bring 3 with glob := { (bring 3).glob with quads := n }, pwr := { (bring 3).pwr with qpwrEn := BitVec.ofNat 4 (2 ^ (n + 1) - 1) } }

/-- The same at the end of the tests, with physical engine 63 marked retired by a map written in HOLD. -/
def retiring : State := { powering 4 with tab := { (powering 4).tab with spareRet := .all (BitVec.ofNat 64 (2 ^ 63)) } }

/-- The block in TEST at the last moment at which the quadrant's report counts, and `k` cycles after it. -/
def lateBy (n k : Nat) : State := { powering n with clock := 65536 + k }
/-- A state whose copies of CK_SPARE_ENG all differ. -/
def splitEngines (s : State) : State := { s with tab := { s.tab with spareEng := ⟨1, 2, 3⟩ } }

/-- The hypotheses of QuadrantsPowerUp, for the first and the last quadrant, at the limit and after it, and for the end of the tests. -/
theorem witness_quadrantsPowerUp :
    ((lateBy 0 0).up = true ∧ (lateBy 0 0).powering 0 = true ∧ (lateBy 0 0).clock ≤ (lateBy 0 0).pwr.qpwrAt + 2 ^ 16 ∧
      (lateBy 0 0).sb.qpnoisy.getLsbD 0 = false) ∧
      ((powering 3).powering 3 = true ∧ (powering 3).sb.qpnoisy.getLsbD 3 = false) ∧
      ((lateBy 0 1).up = true ∧ (lateBy 0 1).powering 0 = true ∧ (lateBy 0 1).pwr.qpwrAt + 2 ^ 16 < (lateBy 0 1).clock ∧
        (lateBy 0 1).clock ≤ (lateBy 0 1).pwr.qpwrAt + 2 * 2 ^ 16 ∧ (lateBy 0 1).split engineRegs = false ∧
        (splitEngines (lateBy 0 1)).split engineRegs = true ∧ (splitEngines (powering 4)).split spareRegs = true ∧
        (powering 4).split spareRegs = false ∧ retiring.split spareRegs = false) ∧
      ((powering 4).up = true ∧ (powering 4).glob.bu = 3 ∧ (powering 4).glob.quads = 4 ∧ (powering 4).startupTests (.plane 0) = true ∧
        TestOutcome.fail ≠ .pass ∧ (∀ p : Fin 64, (powering 4).retired p.val = false) ∧ (∀ c : CtxId, ((powering 4).ctx c).window = []) ∧
        (powering 4).hostEn = false ∧ (powering 4).st.hosts = []) ∧
      ((∀ k : Fin 64, retiring.retired k.val = true ↔ k.val = 63) ∧ retiring.logicalOf 63 = some 63 ∧ retiring.spareFree (63 / 16) = true) := by
  decide +kernel

/-- A report that comes after the limit leaves the quadrant lost, and power-up goes on from the limit (15 R461; 12 R404). -/
theorem test_quadrantLate : after (.quadrantPowerGood 0) (lateBy 0 1) (fun t => t.qlost 0 && (t.tile 127).lost && t.glob.quads == 1 &&
    t.pwr.qpwrEn == 2 && t.pwr.qpwrAt == 65536) = true ∧
    after (.quadrantPowerGood 0) (lateBy 0 0) (fun t => !t.qlost 0 && t.glob.quads == 1 && t.pwr.qpwrEn == 3) = true := by decide +kernel

/-- The hypotheses of ClearZeroes. -/
theorem witness_clearZeroes : (bring 4).up = true ∧ (bring 4).glob.bu = 4 := by decide +kernel

/-- The whole of bring-up, command by command, ends in READY with all four quadrants powered (15 R454). -/
def bringUp : List Instr :=
  [.resetRelease 2 1, .fuseDone false, .tableDone false, .go (.eddy 0), .quadrantPowerGood 0, .quadrantPowerGood 1, .quadrantPowerGood 2,
    .quadrantPowerGood 3, .testDone [], .clearDone 304000]

/-! Issue and fetch. -/

/-- TREL of tile 5, and its four quads as ISS_DATA. -/
def trel5 : Insn := long (word [(0x105, 0), (5, 20)]) 0 0 0
def trel5Data : BitVec 256 := BitVec.ofNat 256 (0x105 + 5 * 2 ^ 20)
/-- Each quad with its ISS_PAR bit has an odd number of ones. -/
def trel5Par : BitVec 4 := 0xE

/-- Context 0 enabled and idle, with every lease. -/
def idle0 : State := up0.setCtx 0 { runCtx [] with st := .idle, accepted := 0 }

/-- The hypotheses of IssueAnswers: an issue that is accepted, one that is answered BUSY and one that is rejected. -/
theorem witness_issueAnswers :
    (idle0.up = true ∧ ((idle0.ctx 0).st = .idle ∨ (idle0.ctx 0).st = .run) ∧ idle0.korni.mode ≠ 2 ∧ (idle0.ctx 0).prog = false ∧
      0 = (idle0.ctx 0).domain ∧ parityGood (issued true trel5Data) trel5Par = true ∧
      idle0.malformed (issued true trel5Data) = false ∧ (issued true trel5Data).completesAtOnce = false ∧
      idle0.lacksPrivilege 0 (issued true trel5Data) = false ∧ (idle0.ctx 0).outsideLease (issued true trel5Data) = none ∧
      idle0.roomFor 0 (issued true trel5Data) = true ∧
      idle0.korniRoom (korniLen (issuePayload (issued true trel5Data))) false = true) ∧
    after (.issue 0 0 true trel5Data trel5Par) { idle0 with dbg := { idle0.dbg with halt := 1 } } (fun t => t.ans.answer == 2) = true ∧
    after (.issue 0 7 true trel5Data trel5Par) idle0 (fun t => t.ans.answer == 3) = true := by decide +kernel

/-- FRONT, which is its owner's alone, as ISS_DATA; a context with its window full, one that leases no tile, one under a debug halt. -/
def frontData : BitVec 256 := BitVec.ofNat 256 (0x601 + 2 ^ 56 + 0xC * 2 ^ 128)
def notOwner : State := { idle0 with front := { idle0.front with owner := 2 } }
def fullWindow : State := up0.setCtx 0 { runCtx (List.replicate 32 (ent trel5)) with accepted := 32 }
def noLease : State := idle0.upCtx 0 fun x => { x with tlease := 0 }
def haltedDebug : State := { idle0 with dbg := { idle0.dbg with halt := 1 } }

/-- The hypotheses of IssueAnswers on refusals: a reserved opcode and a HALT at test 4, a FRONT at 5, a tile at 6, and the two of BUSY. -/
theorem witness_issueRefused :
    (idle0.up = true ∧ idle0.openTo 0 0 = true ∧ idle0.korni.mode ≠ 2 ∧ parityGood (issued true 0) 0xF = true ∧
      idle0.malformed (issued true 0) = true) ∧
    (parityGood (issued false 6) 0xF = true ∧ idle0.malformed (issued false 6) = false ∧ (issued false 6).completesAtOnce = true) ∧
    (notOwner.openTo 0 0 = true ∧ parityGood (issued true frontData) 0xF = true ∧ notOwner.malformed (issued true frontData) = false ∧
      (issued true frontData).completesAtOnce = false ∧ notOwner.lacksPrivilege 0 (issued true frontData) = true) ∧
    (noLease.openTo 0 0 = true ∧ parityGood (issued true trel5Data) trel5Par = true ∧ noLease.malformed (issued true trel5Data) = false ∧
      (issued true trel5Data).completesAtOnce = false ∧ noLease.lacksPrivilege 0 (issued true trel5Data) = false ∧
      5 ∈ (issued true trel5Data).tiles ∧ (noLease.ctx 0).tlease.getLsbD 5 = false) ∧
    (∀ s ∈ [fullWindow, haltedDebug], s.openTo 0 0 = true ∧ s.malformed (issued true trel5Data) = false ∧
      s.lacksPrivilege 0 (issued true trel5Data) = false ∧ ∀ n ∈ (issued true trel5Data).tiles, (s.ctx 0).tlease.getLsbD n = true) ∧
    32 ≤ (fullWindow.ctx 0).window.length ∧ haltedDebug.debugHeld 0 = true := by decide +kernel

/-- An accepted issue is answered ACCEPT with sequence number 1; RUN follows (06 R176, R178). -/
theorem test_issue : after (.issue 0 0 true trel5Data trel5Par) idle0 (fun t => decide (t.ans = ⟨1, 0, 1⟩ ∧ (t.ctx 0).st = .run)) = true := by
  decide +kernel

/-- The hypotheses of IssueParity, clause by clause: bad parity at test 4, and the tests that come before it. -/
theorem witness_issueParity :
    (idle0.up = true ∧ idle0.korni.mode ≠ 2 ∧ parityGood (issued true trel5Data) 0xF = false ∧ (idle0.ctx 0).st = .idle ∧
      (idle0.ctx 0).prog = false ∧ 0 = (idle0.ctx 0).domain) ∧
    ((up0.ctx 0).st ≠ .idle ∧ (up0.ctx 0).st ≠ .run) ∧
    (((idle0.setCtx 0 { idle0.ctx 0 with prog := true }).ctx 0).st = .idle ∧
      ((idle0.setCtx 0 { idle0.ctx 0 with prog := true }).ctx 0).prog = true) ∧ (7 : BitVec 8) ≠ (idle0.ctx 0).domain := by
  decide +kernel

/-- A program at 0x200000, the first byte of working RAM (11 R351): its context fetches. -/
def program (q : Quad) : State :=
  { up0.setCtx 0 { runCtx [] with prog := true, fetching := true, pc := 0x200000 } with
    ram := putBytes [] 0 (leBytes 8 q.toNat) }
/-- The sequencer gets instruction `i` from sequencer space at its program counter. -/
def fetches (s : State) (i : Insn) : Bool :=
  decide ((s.ctx 0).pc.toNat + 8 < 0x40000000) &&
    match s.fetchAt 0 (s.ctx 0).pc.toNat .clean with
    | .insn j _ => decide (j = i)
    | _ => false
/-- A fetch from sequencer space changes nothing. -/
theorem fetches_eq {s : State} {i : Insn} (h : fetches s i = true) : s.fetchAt 0 (s.ctx 0).pc.toNat .clean = .insn i s := by
  have bytes : ∀ a n bs t, a < 0x40000000 → s.fetchBytes 0 a n .clean = .ok bs t → t = s := by
    intro a n bs t ha hb
    simp only [State.fetchBytes, ha, if_true] at hb
    split at hb <;> cases hb
    rfl
  simp only [fetches, Bool.and_eq_true, decide_eq_true_eq] at h
  obtain ⟨ha, h⟩ := h
  split at h
  · rename_i j t ht
    rw [ht, of_decide_eq_true h]
    unfold State.fetchAt at ht
    split at ht
    · cases ht
    · split at ht
      · cases ht
      · cases ht
      · rename_i bs s1 hb
        cases bytes (s.ctx 0).pc.toNat 8 _ _ (by omega) hb
        simp only at ht
        split at ht
        · cases ht; rfl
        · split at ht
          · cases ht
          · split at ht
            · cases ht
            · cases ht
            · rename_i bs2 s2 hb2
              cases bytes ((s.ctx 0).pc.toNat + 8) 24 _ _ ha hb2
              cases ht; rfl
  · cases h

/-- FENCE with tag 7; LOOP 1 set to 3, LOOP 1 counting down by 2 quads back; HALT. -/
def fence7 : Quad := word [(3, 0), (1, 12), (7, 16)]
def loopSet3 : Quad := word [(4, 0), (1, 12), (1, 14), (3, 32)]
def loopBack : Quad := word [(4, 0), (1, 12), (0xFFFFFFFE, 32)]
def haltQ : Quad := 6
def short (q : Quad) : Insn := ⟨false, [q]⟩

/-- The hypotheses of SequencerAccepts: a short instruction, and a program counter that is not a multiple of 8. -/
theorem witness_sequencerAccepts :
    ((program fence7).up = true ∧ (program fence7).mayFetch 0 = true ∧ fetches (program fence7) (short fence7) = true ∧
      (program fence7).acceptFault 0 (short fence7) 0x200000 = none ∧ (program fence7).roomFor 0 (short fence7) = true ∧
      (short fence7).completesAtOnce = false) ∧
    (((program 0).upCtx 0 fun x => { x with pc := 0x200004 }).mayFetch 0 = true ∧
      (((program 0).upCtx 0 fun x => { x with pc := 0x200004 }).ctx 0).pc.toNat % 8 ≠ 0) := by decide +kernel

/-- A context that fetches from chip memory, whose line the row cache holds. -/
def sFetch : State :=
  { up0.setCtx 0 { runCtx [] with prog := true, fetching := true, pc := 0x100000008 } with
    lines := [80], cache := putBytes [] (80 * 256 + 8) (leBytes 8 fence7.toNat)
    xlats := [⟨0, 0, 0, 0, 65536, 0x100000, false, some ⟨5, false, true⟩⟩] }
/-- The hypotheses of SequencerAccepts on a word of the row cache, its last byte. -/
theorem witness_fetchLine : sFetch.up = true ∧ sFetch.mayFetch 0 = true ∧ (sFetch.ctx 0).pc.toNat = 0x100000008 ∧
    inChip ((0x100000008 : Nat) : Int) = true ∧ 0x100000008 ≤ (0x10000000F : BitVec 48).toNat ∧
    (0x10000000F : BitVec 48).toNat < 0x100000008 + 8 := by decide +kernel
theorem witness_fetchReadable : sFetch.readable 0 65536 [run 0x100000008 8] = true := readable_of rfl
/-- A corrected word leaves the fetch its data; a double error drops the line (12 R391). -/
theorem test_fetchLine :
    after (.sequencerFetch 0 (.corrected .memory 3 0x10000000F)) sFetch (fun t => (t.ctx 0).window.length == 1 && t.err.corr == 1) = true ∧
    after (.sequencerFetch 0 (.uncorrectable .memory 3 0x10000000F)) sFetch
      (fun t => (t.ctx 0).window.isEmpty && t.err.uncorr == 1 && t.testing (.cacheSlice 3)) = true := by decide +kernel

/-- A program with counter 1 at `v`. -/
def counting (q : Quad) (v : BitVec 32) : State := (program q).upCtx 0 fun x => { x with lcnt := x.lcnt.set 1 v }

/-- The sequencer may accept a LOOP without SET whose counter is `v`. -/
def counts (v : BitVec 32) : Bool :=
  let s := counting loopBack v
  let i := short loopBack
  s.mayFetch 0 && fetches s i && (s.acceptFault 0 i 0x200000).isNone && s.roomFor 0 i && s.trailReady && i.op == some .loop && !i.loopSet &&
    (s.ctx 0).lcnt[i.loopCnt]? == some v

/-- The hypotheses of LoopAndHalt, clause by clause: a counter of 0, of 1 and of 2^32 - 1. -/
theorem witness_loopAndHalt :
    ((program loopSet3).mayFetch 0 = true ∧ fetches (program loopSet3) (short loopSet3) = true ∧
      (program loopSet3).acceptFault 0 (short loopSet3) 0x200000 = none ∧ (program loopSet3).roomFor 0 (short loopSet3) = true ∧
      (program loopSet3).trailReady = true ∧ (short loopSet3).op = some .loop ∧ (short loopSet3).loopSet = true) ∧
    (counts 0 = true ∧ counts 1 = true ∧ counts 0xFFFFFFFF = true) ∧
    ((program haltQ).mayFetch 0 = true ∧ fetches (program haltQ) (short haltQ) = true ∧
      (program haltQ).acceptFault 0 (short haltQ) 0x200000 = none ∧ (program haltQ).roomFor 0 (short haltQ) = true ∧
      (program haltQ).trailReady = true ∧ (short haltQ).op = some .halt) := by decide +kernel

/-- LOOP with SET loads its counter and goes on; LOOP without it counts down and branches back by 8 times its offset (07 R262). -/
theorem test_loopSet : after (.loopSet 0) (program loopSet3)
    (fun t => decide ((t.ctx 0).lcnt[1] = 3 ∧ (t.ctx 0).pc = 0x200008 ∧ (t.ctx 0).retired = 2)) = true := by decide +kernel
theorem test_loopCount : after (.loopCount 0) (counting loopBack 3)
    (fun t => decide ((t.ctx 0).lcnt[1] = 2 ∧ (t.ctx 0).pc = 0x1FFFF0)) = true := by decide +kernel

/-- BR on status bit 2 with sense 1, and always, 4 quads on. -/
def br2 : Quad := word [(5, 0), (2, 12), (1, 17), (4, 32)]
def brAll : Quad := word [(5, 0), (1, 18), (4, 32)]
/-- A context that waits at a BR. -/
def atBr (q : Quad) : State := up0.setCtx 0 { runCtx [] with prog := true, fetching := true, pc := 0x200000, brWait := some (short q) }

/-- The same in a secure context while a wipe is in progress. -/
def heldBr : State :=
  { (atBr br2).upCtx 0 (fun x => { x with secure := true }) with sec := { up0.sec with wiping := true, closed := true } }

/-- The hypotheses of BrResolves, without a wipe and during one. -/
theorem witness_brResolves :
    ((atBr br2).up = true ∧ ((atBr br2).ctx 0).brWait = some (short br2) ∧ ((atBr br2).ctx 0).st = .run ∧
      ((atBr br2).ctx 0).window.all (fun e => e.phase == .completed) = true ∧ (atBr br2).wipeHeld 0 = false) ∧
    (heldBr.up = true ∧ (heldBr.ctx 0).brWait = some (short br2) ∧ (heldBr.ctx 0).st = .run ∧
      (heldBr.ctx 0).window.all (fun e => e.phase == .completed) = true ∧ heldBr.wipeHeld 0 = true) := by decide +kernel

/-- A BR whose condition does not hold falls through; one with ALWAYS branches (07 R262). -/
theorem test_br : after (.br 0) (atBr br2) (fun t => decide ((t.ctx 0).pc = 0x200008)) = true ∧
    after (.br 0) (atBr brAll) (fun t => decide ((t.ctx 0).pc = 0x200020)) = true := by decide +kernel

/-! Every instruction of a window. -/

/-- Bytes 1, 2, 3, … -/
def count (n : Nat) : List Byte := (List.range n).map fun k => BitVec.ofNat 8 (k + 1)
/-- READY with bytes in the Vat. -/
def vatWith (ps : List (Nat × List Byte)) : State := { up0 with vat := ps.foldl (fun m p => putBytes m p.1 p.2) [] }
/-- A tile in use with a deckle and bytes. -/
def tileWith (s : State) (n : Nat) (word : Quad) (bs : List Byte) : State := s.commitTile n word bs
/-- 32-bit words as bytes. -/
def w4 (ws : List Nat) : List Byte := words4 ws

/-- A deckle of one line of 8 elements with one scale: two slots, the elements in the first and the scale in the second (03 R82). -/
def dk2 : Quad := dk 1 8 3 + word [(1, 29)]
/-- TST of tile 5 to offset 0x100, its scale 0x100 bytes on. -/
def tst2 : Insn := long (word [(0x103, 0), (5, 29)]) dk2 (word [(0x40000100, 0), (1, 48)]) (word [(8, 0), (0x100, 32)])
/-- The same with its scale in Vat region 1. -/
def tstLast : Insn := long (word [(0x103, 0), (5, 29)]) dk2 (word [(0x40000100, 0), (1, 48)]) (word [(8, 0), (0x100000, 32)])
/-- Tile 5 holds eight elements and their scale. -/
def scaledBytes : List Byte := count 8 ++ List.replicate 248 0 ++ [0x7F]
/-- Context 0 leases region 0 alone. -/
def sTst (i : Insn) (f : Entry → Entry) : State :=
  (at0 (tileWith up0 5 dk2 scaledBytes) (f (ent i))).upCtx 0 fun x => { x with vlease := 1 }

/-- The units an instruction has left all commit, and its trail record has room. -/
def allCommit (s : State) (e : Entry) : Bool :=
  ((partsOf e.insn).bind fun P => P.commits 0 (P.left s e) s e).any fun r => r.1.trailReady
/-- The units below `k` commit, and unit `k` of the instruction faults. -/
def commitsThenFaults (s : State) (e : Entry) (k : Nat) : Bool :=
  (partsOf e.insn).any fun P => decide (k < P.units s e) && (P.commits 0 (List.range' e.upTo (k - e.upTo)) s e).any fun r =>
    match P.unit 0 r.1 r.2 k with | .fault _ _ => true | _ => false

/-- A TST that has not begun, with a minority copy of CK_SPARE_RET still to be rewritten. -/
def sMinority : State := { sTst tst2 id with tab := { (sTst tst2 id).tab with spareRet := ⟨1, 0, 0⟩ } }

/-- The same of a TST that has begun; and a TMOV with REINT whose source records format 16, which it does not name, with one copy of the
entry's register different. -/
def sMinorityBegun : State := { sTst tst2 Entry.begun with tab := { (sTst tst2 Entry.begun).tab with spareRet := ⟨1, 0, 0⟩ } }
def reintI : Insn := long (word [(0x104, 0), (6, 20), (5, 29), (1, 17)]) (dk 8 8 3) 0 0
def sUnnamed : State :=
  let s := at0 (tileWith up0 5 (dk 8 8 16) (count 64)) (ent reintI)
  { s with tab := { s.tab with fmt := s.tab.fmt.set 0 ⟨0, 0x000C000703040801, 0x000C000703040801⟩ } }
/-- The instruction's checks, as it begins, fault nothing. -/
def begins (s : State) (e : Entry) : Bool :=
  (partsOf e.insn).any fun P => match State.startEntry P 0 s e with | .fault _ _ => false | _ => true
/-- A state with the registers compared that an instruction reads. -/
def compared (s : State) (i : Insn) : State := s.compareAll (s.mapRegs i)
/-- The TST's engine is under test. -/
def sBusy : State := { sTst tst2 Entry.begun with st := { up0.st with running := [.engine 0] } }

/-- The hypotheses of UnitsRunInOrder: both slots of a TST commit; its second slot lies outside the lease; it begins, with copies to
compare. -/
theorem witness_unitsRunInOrder :
    ((Instr.tst 0 1).runs = some (0, 1) ∧ (sTst tst2 Entry.begun).up = true ∧
      ((sTst tst2 Entry.begun).ctx 0).entry 1 = some (ent tst2).begun ∧ (Instr.tst 0 1).takes tst2 = true ∧
      ((sTst tst2 Entry.begun).ctx 0).mayRun (ent tst2).begun = true ∧ (sTst tst2 Entry.begun).unitsServe tst2 = true ∧
      (∀ r ∈ (sTst tst2 Entry.begun).mapRegs tst2, (sTst tst2 Entry.begun).agrees r = true) ∧
      (ent tst2).begun.started = true ∧ (ent tst2).begun.failed = none ∧ (ent tst2).begun.extra = [] ∧
      allCommit (sTst tst2 Entry.begun) (ent tst2).begun = true) ∧
    (((sTst tstLast Entry.begun).ctx 0).entry 1 = some (ent tstLast).begun ∧
      ((sTst tstLast Entry.begun).ctx 0).mayRun (ent tstLast).begun = true ∧ (sTst tstLast Entry.begun).unitsServe tstLast = true ∧
      (ent tstLast).begun.upTo ≤ 1 ∧ commitsThenFaults (sTst tstLast Entry.begun) (ent tstLast).begun 1 = true) ∧
    (sMinority.up = true ∧ (sMinority.ctx 0).entry 1 = some (ent tst2) ∧ (sMinority.ctx 0).mayRun (ent tst2) = true ∧
      (compared sMinority tst2).unitsServe tst2 = true ∧ (ent tst2).started = false ∧ sMinority.split (sMinority.mapRegs tst2) = false ∧
      sMinority.agrees .spareRet = false ∧ fmtRegs ((compared sMinority tst2).unnamedFmts tst2) = [] ∧
      begins (compared sMinority tst2) (ent tst2) = true) ∧
    (sBusy.up = true ∧ (sBusy.ctx 0).entry 1 = some (ent tst2).begun ∧ (sBusy.ctx 0).mayRun (ent tst2).begun = true ∧
      (compared sBusy tst2).unitsServe tst2 = false) := by decide +kernel
/-- The same of clause 3 on an instruction that has begun, and on one with a format entry that it does not name. -/
theorem witness_unitsMinority :
    ((sMinorityBegun.ctx 0).entry 1 = some (ent tst2).begun ∧ (sMinorityBegun.ctx 0).mayRun (ent tst2).begun = true ∧
      sMinorityBegun.split (sMinorityBegun.mapRegs tst2) = false ∧
      sMinorityBegun.agrees .spareRet = false) ∧
    ((Instr.tmov 0 1).takes reintI = true ∧ (sUnnamed.ctx 0).entry 1 = some (ent reintI) ∧ (sUnnamed.ctx 0).mayRun (ent reintI) = true ∧
      (compared sUnnamed reintI).unitsServe reintI = true ∧ sUnnamed.split (sUnnamed.mapRegs reintI) = false ∧
      fmtRegs ((compared sUnnamed reintI).unnamedFmts reintI) = [.fmt 0] ∧ sUnnamed.split [.fmt 0] = false ∧
      sUnnamed.agrees (.fmt 0) = false ∧ begins (compared sUnnamed reintI) (ent reintI) = true) := by decide +kernel

/-- The first slot of a TST that faults at its second is stored, and COUNT is 1 (03 R96; 06 R197). -/
theorem test_tstFaults : after (.tst 0 1) (sTst tstLast id) (fun t =>
    bytesAt t.vat 0x100 9 == count 8 ++ [0] && ((t.ctx 0).entry 1).any fun e => e.phase == .faulted && e.fault.map Prod.fst == some 1)
    = true := by decide +kernel

/-- The hypotheses of InstructionsStayInside and TilesNamedAlone: a TMOV of tile 5 to tile 6 runs; it names tile 7 not. -/
def tmov56 : Insn := long (word [(0x104, 0), (6, 20), (5, 29), (1, 18)]) (dk 8 8 3) 0 0
def sTmov : State := at0 (tileWith up0 5 (dk 8 8 3) (count 64)) (ent tmov56)
theorem witness_instructionsStayInside :
    (Instr.tmov 0 1).runs = some (0, 1) ∧ after (.tmov 0 1) sTmov (fun _ => true) = true ∧ Instr.tmov 0 1 ≠ .setpat 0 1 := by
  decide +kernel
theorem witness_tilesNamedAlone :
    after (.tmov 0 1) sTmov (fun _ => true) = true ∧ sTmov.poised 0 1 (ent tmov56) = true ∧
      (ent tmov56).insn.tiles.contains 7 = false := by decide +kernel

/-- The hypotheses of ScoreboardSeesEveryStore for a TST, whose first byte changes. -/
theorem witness_scoreboardSeesEveryStore :
    (sTst tst2 id).poised 0 1 (ent tst2) = true ∧
      after (.tst 0 1) (sTst tst2 id) (fun t => byteAt t.vat 0x100 != byteAt (sTst tst2 id).vat 0x100) = true := by decide +kernel

/-! Setup and control. -/

/-- SETPAT of register 3 from Vat offset 0x100; SETFMT of entry 16 from 0x200; FENCE with EVT and INV, tag 7. -/
def setpat3 : Insn := short (word [(1, 0), (3, 12), (0x400001, 17)])
def setfmt16 : Insn := short (word [(2, 0), (16, 12), (0x4000020, 17)])
def fenceInsn : Insn := short (word [(3, 0), (1, 12), (1, 13), (7, 16)])
def sSet (e : Entry) : State := at0 (vatWith [(0x100, leBytes 8 3), (0x200, leBytes 8 0x000C000703040801)]) e

/-- The hypotheses of SetupCompletes. -/
theorem witness_setupCompletes :
    ((sSet (ent setpat3)).poised 0 1 (ent setpat3) = true ∧ isOp .setpat setpat3 = true ∧ (ent setpat3).upTo = 0 ∧
      (sSet (ent setpat3)).vatReady 0 [run setpat3.setpatSrc 256] = true ∧ (sSet (ent setpat3)).trailReady = true) ∧
    ((sSet (ent setfmt16)).poised 0 1 (ent setfmt16) = true ∧ isOp .setfmt setfmt16 = true ∧ (ent setfmt16).upTo = 0 ∧ 16 ≤ setfmt16.setReg ∧
      (sSet (ent setfmt16)).vatReady 0 [run setfmt16.setfmtSrc 16] = true ∧
      setfmtFault ((sSet (ent setfmt16)).readBytes 0 1 [run setfmt16.setfmtSrc 16]) = none) ∧
    ((sSet (ent fenceInsn)).poised 0 1 (ent fenceInsn) = true ∧ isOp .fence fenceInsn = true ∧
      ((sSet (ent fenceInsn)).ctx 0).earlierDone 1 = true ∧ (sSet (ent fenceInsn)).acked 0 = true ∧ fenceInsn.fenceEvt = true ∧
      fenceInsn.fenceInv = true ∧ (sSet (ent fenceInsn)).fencesWaiting 0 < 4) := by decide +kernel
/-- The same for a SETPAT and a SETFMT that have begun and whose bytes have come. -/
theorem witness_setupReadable :
    ((sSet (ent setpat3).begun).underWay 0 1 (ent setpat3).begun = true ∧
      (sSet (ent setpat3).begun).readable 0 1 [run setpat3.setpatSrc 256] = true) ∧
    ((sSet (ent setfmt16).begun).underWay 0 1 (ent setfmt16).begun = true ∧
      (sSet (ent setfmt16).begun).readable 0 1 [run setfmt16.setfmtSrc 16] = true) :=
  ⟨⟨by decide +kernel, readable_vat _ (by decide +kernel)⟩, by decide +kernel, readable_vat _ (by decide +kernel)⟩

/-- SETPAT copies 256 bytes, 32 quads of eight (07 R259). -/
theorem test_setpat : after (.setpat 0 1) (sSet (ent setpat3)) (fun t => (t.ctx 0).pat 3 == 3 :: List.replicate 31 0) = true := by
  decide +kernel
/-- A FENCE with EVT puts its tag into the event queue (07 R261). -/
theorem test_fence : after (.fence 0 1) (sSet (ent fenceInsn)) (fun t => decide ((t.ctx 0).events = [.fence 7] ∧ (t.ctx 0).st = .idle)) = true := by
  decide +kernel
/-- SETFMT writes the entry's register. -/
theorem test_setfmt : after (.setfmt 0 1) (sSet (ent setfmt16)) (fun t => t.tabVal (.fmt 0) == 0x000C000703040801) = true := by decide +kernel

/-! Tiles. -/

/-- TREL of tile 5. -/
def sTrel : State := at0 (tileWith up0 5 (dk 8 8 3) (count 64)) (ent trel5)

/-- The hypotheses of TrelClearsInUse. -/
theorem witness_trelClearsInUse :
    (sTrel.poised 0 1 (ent trel5) = true ∧ isOp .trel trel5 = true ∧ sTrel.trailReady = true ∧ (sTrel.ctx 0).st = .run ∧
      after (.trel 0 1) sTrel (fun _ => true) = true) ∧
    ((at0 up0 (ent trel5)).poised 0 1 (ent trel5) = true ∧ ((at0 up0 (ent trel5)).tile trel5.td).inUse = false) ∧
    (trel5.op = some .trel ∧ up0.malformed trel5 = false ∧ (up0.ctx 0).tlease.getLsbD trel5.td = false) := by decide +kernel

/-- TREL clears IN_USE and keeps the bytes (03 R105). -/
theorem test_trel : after (.trel 0 1) sTrel (fun t => !(t.tile 5).inUse && t.tileBytes 5 0 64 == count 64) = true := by decide +kernel

/-- TLD of tile 5 and TLD.G of tile 5 of engines 0 and 1 from Vat offset 0x100, 8 lines of 8 bytes, 16 bytes apart; the same TLD after
slot 0; VLD of 2 lines of 2 words, 64 bytes apart. -/
def tld5 : Insn := long (word [(0x101, 0), (5, 20)]) (dk 8 8 3) 0x40000100 16
def tldG5 : Insn := long (word [(0x102, 0), (5, 20)]) (dk 8 8 3) (word [(0x40000100, 0), (16, 48)]) 3
def vld5 : Insn := long (word [(0x501, 0), (5, 20)]) (dk 2 2 0) 0x100 64
def sLoad (e : Entry) : State := at0 (vatWith [(0x100, count 120)]) e
/-- TLD of two slots that begins at slot 1. -/
def tldLate : Insn := long (word [(0x101, 0), (5, 20), (1, 56)]) dk2 (word [(0x40000100, 0), (1, 48)]) (word [(8, 0), (0x100, 32)])
def sLate : State := at0 (tileWith (vatWith [(0x100, count 8), (0x200, [0x7F])]) 5 dk2 []) (ent tldLate)
/-- A TLD.G of the same two slots to engines 0 and 1, and a VLD of 65 columns of one word in two slots, each from slot 1 on. -/
def tldGLate : Insn := long (word [(0x102, 0), (5, 20), (1, 56)]) dk2 (word [(0x40000100, 0), (1, 48)]) 3
def sGLate : State := at0 (tileWith (tileWith (vatWith [(0x100, count 40)]) 5 dk2 []) 13 dk2 []) (ent tldGLate)
def vldLate : Insn := long (word [(0x501, 0), (5, 20), (1, 56)]) (dk 1 65 0) 0x100 4
def sVLate : State := at0 (tileWith (vatWith [(0x100, count 64)]) 5 (dk 1 65 0) []) (ent vldLate)

/-- The hypotheses of LoadsFillTiles; one that begins at slot 1 is the boundary of its FIRST. -/
theorem witness_loadsFillTiles :
    ((sLoad (ent tld5)).poised 0 1 (ent tld5) = true ∧ isOp .tld tld5 = true ∧ tld5.port = 0 ∧
      (sLoad (ent tld5)).loadChecks (ent tld5) (ownWord (ent tld5)) [(tld5.td, 0)] = none ∧ (ent tld5).shape.slots = 1 ∧
      (sLoad (ent tld5)).vatReady 0 (tld5.image.slotRuns (ent tld5).shape 0) = true ∧ (sLoad (ent tld5)).trailReady = true) ∧
    (sLate.poised 0 1 (ent tldLate) = true ∧ (ent tldLate).upTo = 1 ∧ (ent tldLate).shape.slots = 2 ∧
      sLate.loadChecks (ent tldLate) (ownWord (ent tldLate)) [(tldLate.td, 0)] = none ∧
      sLate.vatReady 0 (tldLate.image.slotRuns (ent tldLate).shape 1) = true) ∧
    (sGLate.poised 0 1 (ent tldGLate) = true ∧ (ent tldGLate).upTo = 1 ∧ (ent tldGLate).shape.slots = 2 ∧
      sGLate.loadChecks (ent tldGLate) (ownWord (ent tldGLate)) tldGLate.receivers = none ∧
      sGLate.vatReady 0 (tldGLate.gustImage.slotRuns (ent tldGLate).shape 1) = true) ∧
    (sVLate.poised 0 1 (ent vldLate) = true ∧ (ent vldLate).upTo = 1 ∧ (ent vldLate).shape.slots = 2 ∧
      sVLate.loadChecks (ent vldLate) (columnCheck (ent vldLate)) [(vldLate.td, 0)] = none ∧
      sVLate.vatReady 0 ((ent vldLate).columnRuns 1) = true) ∧
    ((sLoad (ent tldG5)).poised 0 1 (ent tldG5) = true ∧ isOp .tldG tldG5 = true ∧
      (sLoad (ent tldG5)).loadChecks (ent tldG5) (ownWord (ent tldG5)) tldG5.receivers = none ∧ (ent tldG5).shape.slots = 1 ∧
      (sLoad (ent tldG5)).vatReady 0 (tldG5.gustImage.slotRuns (ent tldG5).shape 0) = true) ∧
    ((sLoad (ent vld5)).poised 0 1 (ent vld5) = true ∧ isOp .vld vld5 = true ∧
      (sLoad (ent vld5)).loadChecks (ent vld5) (columnCheck (ent vld5)) [(vld5.td, 0)] = none ∧ (ent vld5).shape.slots = 1 ∧
      (sLoad (ent vld5)).vatReady 0 ((ent vld5).columnRuns 0) = true) := by decide +kernel

/-- A read translation that has come: page 0x100000 is physical page 5; and the same for a write. -/
def xlatOf (w : Bool) : Xlat := ⟨0, 0, 0, 0, 1, 0x100000, w, some ⟨5, false, true⟩⟩
/-- The line of chip memory that page 5 begins with is in the row cache, with bytes, and the instruction has its translations. -/
def chipHeld (s : State) : State :=
  { s with lines := [80], cache := putBytes [] (80 * 256) (count 120), xlats := [xlatOf false, xlatOf true] }
/-- TLD of tile 5 from chip memory. -/
def tldChip : Insn := long (word [(0x101, 0), (5, 20)]) (dk 8 8 3) 0x100000000 16
def sChip : State := chipHeld (at0 up0 (ent tldChip).begun)

/-- The hypotheses of LoadsFillTiles slot by slot, in the Vat; -/
theorem witness_loadsUnderWay :
    ((sLoad (ent tld5).begun).underWay 0 1 (ent tld5).begun = true ∧ (ent tld5).begun.upTo < (ent tld5).begun.shape.slots) ∧
    ((sLoad (ent tldG5).begun).underWay 0 1 (ent tldG5).begun = true ∧ (ent tldG5).begun.upTo < (ent tldG5).begun.shape.slots) ∧
    ((sLoad (ent vld5).begun).underWay 0 1 (ent vld5).begun = true ∧ (ent vld5).begun.upTo < (ent vld5).begun.shape.slots) := by
  decide +kernel
theorem witness_tldReadable : (sLoad (ent tld5).begun).readable 0 1 (tld5.image.slotRuns (ent tld5).begun.shape 0) = true :=
  readable_vat _ (by decide +kernel)
theorem witness_tldGReadable : (sLoad (ent tldG5).begun).readable 0 1 (tldG5.gustImage.slotRuns (ent tldG5).begun.shape 0) = true :=
  readable_vat _ (by decide +kernel)
theorem witness_vldReadable : (sLoad (ent vld5).begun).readable 0 1 ((ent vld5).begun.columnRuns 0) = true :=
  readable_vat _ (by decide +kernel)
/-- and in chip memory. -/
theorem witness_chipUnderWay : sChip.underWay 0 1 (ent tldChip).begun = true ∧ inVat 0x100000000 = false := by decide +kernel
theorem witness_chipReadable : sChip.readable 0 1 (tldChip.image.slotRuns (ent tldChip).begun.shape 0) = true := readable_of rfl
theorem witness_chipRun : sChip.readable 0 1 [run 0x100000000 256] = true := readable_of rfl
/-- A slot of a TLD takes the row cache's bytes (11 R374). -/
theorem test_tldChip : after (.slotCommit 0 1 0 .clean) sChip (fun t => t.tileBytes 5 0 16 ==
    [1, 2, 3, 4, 5, 6, 7, 8, 17, 18, 19, 20, 21, 22, 23, 24]) = true := by decide +kernel

/-- A TLD lays its image's lines at the pitch (03 R80, R92). -/
theorem test_tld : after (.tld 0 1) (sLoad (ent tld5)) (fun t => t.tileBytes 5 0 16 ==
    [1, 2, 3, 4, 5, 6, 7, 8, 17, 18, 19, 20, 21, 22, 23, 24]) = true := by decide +kernel
/-- A TLD that begins at slot 1 leaves slot 0. -/
theorem test_tldLate : after (.tld 0 1) sLate (fun t => t.tileBytes 5 0 1 == [0] && t.tileBytes 5 256 2 == [0x7F, 0]) = true := by decide +kernel
/-- TLD.G fills the tile of the same place on each engine of its mask. -/
theorem test_tldG : after (.tldG 0 1) (sLoad (ent tldG5)) (fun t => t.tileBytes 13 0 9 == [1, 2, 3, 4, 5, 6, 7, 8, 17]) = true := by
  decide +kernel
/-- VLD takes word r of column j from base + 4 r + j STRIDE (07 R236). -/
theorem test_vld : after (.vld 0 1) (sLoad (ent vld5)) (fun t => t.tileBytes 5 0 8 == [1, 2, 3, 4, 65, 66, 67, 68]) = true := by decide +kernel

/-- VST of tile 5, and SCAT of its four lines by the list at 0x2000. -/
def vst5 : Insn := long (word [(0x502, 0), (5, 29)]) (dk 2 2 0) 0x100 64
def scat5 : Insn := long (word [(0x205, 0), (5, 29), (2, 47)]) (dk 4 8 3) 0x40000100 (word [(16, 0), (8, 32)])
def gath5 : Insn := long (word [(0x204, 0), (5, 20), (2, 47)]) (dk 4 8 3) (word [(0x40000100, 0), (1, 48)]) (word [(16, 0), (6, 32)])
/-- A pattern link of kind 3, an index list of `n` entries at `a`. -/
def listLinkAt (n a inv : Nat) : Link := ⟨2, [word [(3, 0), (inv, 2), (n - 1, 32)], word [(a, 0)]] ++ List.replicate 30 0⟩
def gatherEnt (i : Insn) : Entry := { ent i with chain := ⟨[listLinkAt 4 0x40002000 0], none⟩ }
/-- The list: rows 3, 0, a hole and 7. -/
def rowList : List Byte := w4 [3, 0, 0xFFFFFFFF, 7]
def sVst : State := at0 (tileWith up0 5 (dk 2 2 0) (count 16)) (ent vst5)
def sScat : State := at0 (tileWith (vatWith [(0x2000, rowList)]) 5 (dk 4 8 3) (count 32)) (gatherEnt scat5)
/-- An entry with what its list says. -/
def listed (s : State) (e : Entry) : Entry := { e with rcd := some (s.readBytes 0 1 e.gatherList) }

/-- The hypotheses of StoresWriteImages. -/
theorem witness_storesWriteImages :
    ((sTst tst2 id).poised 0 1 (ent tst2) = true ∧ tst2.port = 0 ∧
      (sTst tst2 id).srcChecks (ent tst2) (ownWord (ent tst2)) (fun _ => (sTst tst2 id).tstGroups (ent tst2)) = none ∧
      (∀ k, k < 2 → (sTst tst2 id).vatReady 0 (tst2.image.slotRuns (ent tst2).shape k) = true) ∧ (ent tst2).shape.slots = 2) ∧
    (sVst.poised 0 1 (ent vst5) = true ∧ sVst.srcChecks (ent vst5) (columnCheck (ent vst5)) (fun _ => none) = none ∧
      (ent vst5).shape.slots = 1 ∧ sVst.vatReady 0 ((ent vst5).columnRuns 0) = true) ∧
    (sScat.poised 0 1 (gatherEnt scat5) = true ∧ (gatherEnt scat5).pathReady = true ∧
      sScat.srcChecks (gatherEnt scat5) (ownWord (gatherEnt scat5)) (fun _ => gatherPattern (gatherEnt scat5)) = none ∧
      sScat.vatReady 0 (gatherEnt scat5).gatherList = true ∧
      entriesFault scat5 true 0 [] (listed sScat (gatherEnt scat5)).rows = none ∧ (gatherEnt scat5).shape.slots = 1 ∧
      sScat.vatReady 0 ((sScat.scatWrites (listed sScat (gatherEnt scat5)) 0).map Prod.fst) = true) := by decide +kernel

/-- TST of tile 5 to chip memory. -/
def tstChip : Insn := long (word [(0x103, 0), (5, 29)]) (dk 8 8 3) 0x100000000 16
def sStoreChip : State := chipHeld (at0 (tileWith up0 5 (dk 8 8 3) (count 64)) (ent tstChip).begun)
/-- The VST and the SCAT that have begun. -/
def sVstBegun : State := at0 (tileWith up0 5 (dk 2 2 0) (count 16)) (ent vst5).begun
def scatBegun : Entry := (listed sScat (gatherEnt scat5)).begun
def sScatBegun : State := at0 (tileWith (vatWith [(0x2000, rowList)]) 5 (dk 4 8 3) (count 32)) scatBegun
/-- The hypotheses of StoresWriteImages slot by slot, in the Vat; -/
theorem witness_storesUnderWay :
    ((sTst tst2 Entry.begun).underWay 0 1 (ent tst2).begun = true ∧ (ent tst2).begun.upTo < (ent tst2).begun.shape.slots) ∧
    (sVstBegun.underWay 0 1 (ent vst5).begun = true ∧ (ent vst5).begun.upTo < (ent vst5).begun.shape.slots) ∧
    (sScatBegun.underWay 0 1 scatBegun = true ∧ scatBegun.upTo < scatBegun.shape.slots) := by decide +kernel
theorem witness_tstWritable :
    (sTst tst2 Entry.begun).writable 0 1 (((sTst tst2 Entry.begun).tstWrites (ent tst2).begun 0).map Prod.fst) = true :=
  writable_vat _ (by decide +kernel)
theorem witness_vstWritable : sVstBegun.writable 0 1 ((sVstBegun.vstWrites (ent vst5).begun 0).map Prod.fst) = true :=
  writable_vat _ (by decide +kernel)
theorem witness_scatWritable : sScatBegun.writable 0 1 ((sScatBegun.scatWrites scatBegun 0).map Prod.fst) = true :=
  writable_vat _ (by decide +kernel)
/-- and in chip memory, where the last byte of an address decides what its line shows. -/
theorem witness_chipStores :
    sStoreChip.underWay 0 1 (ent tstChip).begun = true ∧ sStoreChip.xlatAns 0 1 true 0x100000 = some ⟨5, false, true⟩ ∧
      (5 * 4096) / 256 ∈ sStoreChip.lines ∧
      ∀ j : Fin 120, 0 < j.val → sStoreChip.physAddr 0 1 true (0x100000000 + j.val) ≠ 5 * 4096 := by decide +kernel
theorem witness_chipWritable : sStoreChip.writable 0 1 ((sStoreChip.tstWrites (ent tstChip).begun 0).map Prod.fst) = true := writable_of rfl
theorem witness_chipWrite : sStoreChip.writable 0 1 [run 0x100000000 120] = true := writable_of rfl

/-- VST stores word r of column j to base + 4 r + j STRIDE (07 R236). -/
theorem test_vst : after (.vst 0 1) sVst (fun t => bytesAt t.vat 0x140 4 == [5, 6, 7, 8]) = true := by decide +kernel
/-- SCAT stores line 0 to row 3, line 1 to row 0, line 3 to row 7, and line 2 nowhere (06 R214). -/
theorem test_scat : after (.scat 0 1) sScat (fun t => bytesAt t.vat 0x100 2 == [9, 10] && bytesAt t.vat 0x130 2 == [1, 2] &&
    bytesAt t.vat 0x170 2 == [25, 26] && bytesAt t.vat 0x120 2 == [0, 0]) = true := by decide +kernel

/-- The hypotheses of GathFillsRows: an entry at LIMIT or above with OOB, and a hole. -/
def sGath : State := at0 (vatWith [(0x100, count 120), (0x2000, rowList)]) (gatherEnt gath5)
theorem witness_gathFillsRows :
    sGath.poised 0 1 (gatherEnt gath5) = true ∧ isOp .gath gath5 = true ∧ (gatherEnt gath5).pathReady = true ∧
      (firstOf (ownWord (gatherEnt gath5)) fun _ => firstOf (if 0 < (gatherEnt gath5).first then
        sGath.laterCheck (gath5.q 1) [(gath5.td, 0)] else none) fun _ =>
        firstOf (gatherPattern (gatherEnt gath5)) fun _ => sGath.outCheck gath5.operandTiles) = none ∧
      sGath.vatReady 0 (gatherEnt gath5).gatherList = true ∧
      entriesFault gath5 false 0 [] (listed sGath (gatherEnt gath5)).rows = none ∧ (gatherEnt gath5).shape.slots = 1 ∧
      sGath.vatReady 0 ((listed sGath (gatherEnt gath5)).gathRuns 0) = true ∧ sGath.trailReady = true := by decide +kernel
/-- The same slot by slot, once it has begun. -/
def gathBegun : Entry := (listed sGath (gatherEnt gath5)).begun
def sGathBegun : State := at0 (vatWith [(0x100, count 120), (0x2000, rowList)]) gathBegun
theorem witness_gathReadable : sGathBegun.underWay 0 1 gathBegun = true ∧ isOp .gath gathBegun.insn = true ∧
    gathBegun.upTo < gathBegun.shape.slots ∧ sGathBegun.readable 0 1 (gathBegun.gathRuns gathBegun.upTo) = true :=
  ⟨by decide +kernel, by decide +kernel, by decide +kernel, readable_vat _ (by decide +kernel)⟩
/-- GATH takes line 0 from row 3 and line 1 from row 0; the hole and row 7, beyond LIMIT 6 with OOB, leave zeros (06 R214). -/
theorem test_gath : after (.gath 0 1) sGath (fun t => t.tileBytes 5 0 10 == [49, 50, 51, 52, 53, 54, 55, 56, 1, 2] &&
    t.tileBytes 5 16 16 == List.replicate 16 0) = true := by decide +kernel

/-- TLD of tile 5 from stream port 0, and TST to it. -/
def tldPort : Insn := long (word [(0x101, 0), (5, 20), (1, 52)]) (dk 8 8 3) 0 0
def tstPort : Insn := long (word [(0x103, 0), (5, 29), (1, 52)]) (dk 8 8 3) 0 0
def sTldPort (fail : Bool) : State := at0 (up0.upPort 0 fun p => { p with inq := count 66, fail := fail }) (ent tldPort)
def sTstPort (fail : Bool) : State :=
  at0 ((tileWith up0 5 (dk 8 8 3) (count 64)).upPort 0 fun p => { p with fail := fail }) (ent tstPort)

/-- The hypotheses of PortTransfers. -/
theorem witness_portTransfers :
    ((sTldPort false).poised 0 1 (ent tldPort) = true ∧ tldPort.port ≠ 0 ∧ (sTldPort false).korni.mode = 0 ∧
      (sTldPort false).loadChecks (ent tldPort) (ownWord (ent tldPort)) [(tldPort.td, 0)] = none ∧
      ((sTldPort false).port (portOf tldPort.port)).fail = false ∧
      (sTldPort false).pieceFree ((sTldPort false).port (portOf tldPort.port)).inPiece 0 = true ∧
      (((ent tldPort).unitsLeft (ent tldPort).shape.slots).map fun k => (slotImgBytes (ent tldPort).shape k).length).sum ≤
        ((sTldPort false).port (portOf tldPort.port)).inq.length) ∧
    (∀ fail : Bool, (sTstPort fail).poised 0 1 (ent tstPort) = true ∧ isOp .tst tstPort = true ∧ tstPort.port ≠ 0 ∧
      (sTstPort fail).srcChecks (ent tstPort) (ownWord (ent tstPort)) (fun _ => (sTstPort fail).tstGroups (ent tstPort)) = none ∧
      ((sTstPort fail).port (portOf tstPort.port)).fail = fail ∧ (sTstPort fail).trailReady = true ∧
      (sTstPort fail).pieceFree ((sTstPort fail).port (portOf tstPort.port)).outPiece 0 = true ∧
      (ent tstPort).upTo < (ent tstPort).shape.slots) ∧
    ((sTldPort true).poised 0 1 (ent tldPort) = true ∧ ((sTldPort true).port (portOf tldPort.port)).fail = true ∧
      (sTldPort true).loadChecks (ent tldPort) (ownWord (ent tldPort)) [(tldPort.td, 0)] = none ∧
      (sTldPort true).pieceFree ((sTldPort true).port (portOf tldPort.port)).inPiece 0 = true ∧
      (ent tldPort).upTo < (ent tldPort).shape.slots) := by decide +kernel
/-- A TLD takes the 64 bytes of its image from its port and leaves the rest (06 R207). -/
theorem test_tldPort : after (.tld 0 1) (sTldPort false) (fun t => t.tileBytes 5 0 64 == count 64 && (t.port 0).inq == [65, 66]) = true := by
  decide +kernel

/-- TSAVE of tiles 0 and 2 of engine group 0 to offset 0, and TRESTORE of it. -/
def tsave : Insn := long (word [(0x106, 0)]) 0 0x40000000 5
def trestore : Insn := long (word [(0x107, 0)]) 0 0x40000000 5
def sTsave : State := at0 (tileWith (tileWith up0 0 (dk 8 8 3) (count 64)) 2 (dk 4 4 3) (count 16)) (ent tsave)
/-- The same TSAVE from FIRST 5 on, its last unit. -/
def tsaveLate : Insn := long (word [(0x106, 0)]) 0 (word [(0x40000000, 0), (5, 48)]) 5
def sTsaveLate : State := at0 (tileWith (tileWith up0 0 (dk 8 8 3) (count 64)) 2 (dk 4 4 3) (count 16)) (ent tsaveLate)
/-- An area whose header says of tile 0 what R101 lays out (a legal deckle, in use, one slot), and of tile 2 nothing. -/
def sTrestore : State := at0 (vatWith [(0, leBytes 8 (dk 8 8 3).toNat ++ leBytes 8 0x101), (0x400, count 64)]) (ent trestore)
def restored : Entry :=
  { ent trestore with rcd := some (sTrestore.readBytes 0 1 ((List.range 4).map (areaRun trestore))), fmts := sTrestore.fmtProg }

/-- The hypotheses of MoveSaveRestore. -/
theorem witness_moveSaveRestore :
    (sTmov.poised 0 1 (ent tmov56) = true ∧ isOp .tmov tmov56 = true ∧ (ent tmov56).upTo = 0 ∧
      sTmov.srcChecks (ent tmov56) (ownWord (ent tmov56)) (fun _ => none) = none ∧ sTmov.trailReady = true) ∧
    (sTsave.poised 0 1 (ent tsave) = true ∧ isOp .tsave tsave = true ∧ (ent tsave).upTo = 0 ∧
      sTsave.entriesBad (sTsave.savedFmts tsave) = none ∧ sTsave.saveCheck tsave = none ∧
      (saveData (sTsave.saveHeader { ent tsave with fmts := sTsave.fmtProg })).length = 2 ∧
      ∀ k, k < 6 → sTsave.vatReady 0 [areaRun tsave k] = true) ∧
    (sTsaveLate.poised 0 1 (ent tsaveLate) = true ∧ (ent tsaveLate).upTo = 5 ∧ sTsaveLate.saveCheck tsaveLate = none ∧
      (saveData (sTsaveLate.saveHeader { ent tsaveLate with fmts := sTsaveLate.fmtProg })).length = 2 ∧
      sTsaveLate.vatReady 0 [areaRun tsaveLate 5] = true) ∧
    (sTrestore.poised 0 1 (ent trestore) = true ∧ isOp .trestore trestore = true ∧ trestore.td % 64 = 0 ∧
      sTrestore.vatReady 0 ((List.range 4).map (areaRun trestore)) = true ∧
      sTrestore.entriesBad restored.restoredFmts = none ∧
      headerCheck sTrestore.fmtProg trestore restored.header = none ∧ sTrestore.outCheck trestore.operandTiles = none ∧
      (saveData restored.header).length = 1 ∧ sTrestore.vatReady 0 [areaRun trestore 4] = true ∧ sTrestore.trailReady = true) := by
  decide +kernel

/-- TMOV copies the footprint slots, and a source with LAST_A is no longer in use. -/
theorem test_tmov : after (.tmov 0 1) sTmov (fun t => t.tileBytes 6 0 64 == count 64 && (t.tile 6).deckle == dk 8 8 3 && !(t.tile 5).inUse)
    = true := by decide +kernel

/-! Press, patterns, Vat and digests. -/

/-- COMMIT; WMARK folding four UINT8 elements at 0x100 as weights and as inputs; WMARK writing its digest to 0x200 and clearing. -/
def commit : Insn := long 0x506 0 0 0
def foldW : Insn := long 0x602 (dk 1 4 12) 0x40000100 0
def foldI : Insn := long (word [(0x602, 0), (1, 56)]) (dk 1 4 12) 0x40000100 0
def watermark : Insn := long (word [(0x602, 0), (2, 56)]) 0 0x40000200 0
def clearDig : Insn := long (word [(0x602, 0), (3, 56)]) 0 0 0
def sMark (e : Entry) : State := (at0 (vatWith [(0x100, count 4)]) e).upCtx 0 fun x => { x with digW := 5, digI := 6 }

/-- The hypotheses of CommitAndWatermark. -/
theorem witness_commitAndWatermark :
    ((sMark (ent commit)).poised 0 1 (ent commit) = true ∧ isOp .commit commit = true ∧ (sMark (ent commit)).trailReady = true) ∧
    ((sMark (ent foldW)).poised 0 1 (ent foldW) = true ∧ (ent foldW).upTo = 0 ∧ streamCheck (ent foldW).fmts (foldW.q 1) = none ∧
      (sMark (ent foldW)).vatReady 0 [(ent foldW).foldRun] = true ∧ isWmark 0 foldW = true) ∧
    ((sMark (ent foldI)).poised 0 1 (ent foldI) = true ∧ streamCheck (ent foldI).fmts (foldI.q 1) = none ∧
      (sMark (ent foldI)).vatReady 0 [(ent foldI).foldRun] = true ∧ isWmark 1 foldI = true) ∧
    ((sMark (ent watermark)).poised 0 1 (ent watermark) = true ∧ isWmark 2 watermark = true ∧
      (sMark (ent watermark)).vatReady 0 [run watermark.base 32] = true) ∧
    ((sMark (ent clearDig)).poised 0 1 (ent clearDig) = true ∧ isWmark 3 clearDig = true) := by decide +kernel

/-- COMMIT sets SEALED; WMARK OP 3 clears the weight and input digests (07 R246; 10 R338). -/
theorem test_commit : after (.commit 0 1) (sMark (ent commit)) (fun t => (t.ctx 0).sealedGen) = true := by decide +kernel
theorem test_clearDigests : after (.clearDigests 0 1) (sMark (ent clearDig)) (fun t => (t.ctx 0).digW == 0 && (t.ctx 0).digI == 0) = true := by
  decide +kernel

/-- CONV of four FP32 elements to E4M3, multiplied by the scale at 0x200, with NFS and LAST_A. -/
def conv56 : Insn := long (word [(0x301, 0), (6, 20), (5, 29), (1, 18), (5, 56)]) (dk 1 4 3) (dk 1 4 0 + word [(1, 38)]) 0
/-- 1, 2, -3 and a NaN in FP32; 2 in FP32. -/
def floats : List Byte := w4 [0x3F800000, 0x40000000, 0xC0400000, 0x7FC00000]
def sConv : State := at0 (tileWith (vatWith [(0x200, w4 [0x40000000]), (0x20C, [1])]) 5 (dk 1 4 0) floats) (ent conv56)

/-- The hypotheses of ConvConverts. -/
theorem witness_convConverts :
    sConv.poised 0 1 (ent conv56) = true ∧ isOp .conv conv56 = true ∧ (ent conv56).upTo = 0 ∧ sConv.convChecks (ent conv56) = none ∧
      conv56.smode ≠ 0 ∧ sConv.vatReady 0 [scaleRun conv56.srec] = true ∧
      scaleRecordFault (sConv.readBytes 0 1 [scaleRun conv56.srec]) = none ∧ sConv.trailReady = true := by decide +kernel

/-- CONV multiplies by its scale and rounds to E4M3: 2, 4, -6 and NaN are 0x40, 0x48, 0xCC and 0x7F (02 R43, R46); NFS sees the NaN. -/
theorem test_conv : after (.conv 0 1) sConv (fun t => t.tileBytes 6 0 4 == [0x40, 0x48, 0xCC, 0x7F] && (t.ctx 0).nonfinite) = true := by
  decide +kernel

/-- PRESS of tiles 5 and 6 into tile 7: mode `m`, with destination, A and B deckles. -/
def press (m : Nat) (d a b : Quad) : Insn :=
  long (word [(0x302, 0), (7, 20), (5, 29), (if m = 2 then 0 else 6, 38), (m, 56)]) d a b
def sPress (i : Insn) (a b : Quad) (x y : List Byte) : State := at0 (tileWith (tileWith up0 5 a x) 6 b y) (ent i)
/-- MAT8 of a row of eight by the 8 × 8 matrix, ROT2 of a pair, TRANS8 of an 8 × 8 block, MATMUL of 2 × 2 matrices. -/
def mat8I : Insn := press 0 (dk 1 8 3) (dk 1 8 3) (dk 8 8 3)
def rot2I : Insn := press 1 (dk 1 2 0) (dk 1 2 0) (dk 1 2 0)
def trans8I : Insn := press 2 (dk 8 8 3) (dk 8 8 3) 0
def matmulI : Insn := press 3 (dk 2 2 0) (dk 2 2 0) (dk 2 2 0)
def sMat8 : State := sPress mat8I (dk 1 8 3) (dk 8 8 3) [0x38] (0x38 :: List.replicate 7 0 ++ [0x40])
def sRot2 : State := sPress rot2I (dk 1 2 0) (dk 1 2 0) (w4 [0x3F800000, 0x40000000]) (w4 [0x40400000, 0x40800000])
def sTrans8 : State := sPress trans8I (dk 8 8 3) 0 (count 64) []
def sMatmul : State := sPress matmulI (dk 2 2 0) (dk 2 2 0) (w4 [0x3F800000, 0x40000000, 0x40400000, 0x40800000])
  (w4 [0x3F800000, 0x3F800000, 0, 0x3F800000])

/-- The hypotheses of PressComputes, mode by mode. -/
theorem witness_pressComputes :
    (sMat8.poised 0 1 (ent mat8I) = true ∧ (Instr.mat8 0 1).takes mat8I = true ∧ sMat8.pressChecks (ent mat8I) = none) ∧
    (sRot2.poised 0 1 (ent rot2I) = true ∧ (Instr.rot2 0 1).takes rot2I = true ∧ sRot2.pressChecks (ent rot2I) = none ∧
      rot2I.mode = 1 ∧ 0 < (ent rot2I).shape.d.rows ∧ 2 * 0 < (ent rot2I).shape.d.cols) ∧
    (sTrans8.poised 0 1 (ent trans8I) = true ∧ (Instr.trans8 0 1).takes trans8I = true ∧ sTrans8.pressChecks (ent trans8I) = none) ∧
    (sMatmul.poised 0 1 (ent matmulI) = true ∧ (Instr.matmul 0 1).takes matmulI = true ∧ sMatmul.pressChecks (ent matmulI) = none ∧
      (ent matmulI).upTo = 0 ∧ sMatmul.trailReady = true) := by decide +kernel

/-- MAT8: element k is row k of the matrix times the block, 1 and 2 here (07 R229). -/
theorem test_mat8 : after (.mat8 0 1) sMat8 (fun t => t.tileBytes 7 0 3 == [0x38, 0x40, 0]) = true := by decide +kernel
/-- ROT2 of (1, 2) by cosine 3 and sine 4: 3 - 8 and 4 + 6 (07 R229). -/
theorem test_rot2 : after (.rot2 0 1) sRot2 (fun t => t.tileBytes 7 0 8 == w4 [0xC0A00000, 0x41200000]) = true := by decide +kernel
/-- TRANS8 transposes the block. -/
theorem test_trans8 : after (.trans8 0 1) sTrans8 (fun t => t.tileBytes 7 0 9 == [1, 9, 17, 25, 33, 41, 49, 57, 2]) = true := by decide +kernel
/-- MATMUL: rows (1, 2) and (3, 4) by columns (1, 0) and (1, 1). -/
theorem test_matmul : after (.matmul 0 1) sMatmul (fun t => t.tileBytes 7 0 16 == w4 [0x3F800000, 0x40400000, 0x40400000, 0x40E00000]) = true := by
  decide +kernel

/-- HROT of the eight elements of tile 5 into tile 6. -/
def hrot56 : Insn := long (word [(0x303, 0), (6, 20), (5, 29), (3, 56)]) (dk 1 8 0) 1 0
def sHrot : State := at0 (tileWith up0 5 (dk 1 8 0) (w4 [0x3F800000])) (ent hrot56)

/-- The hypotheses of HrotRotates. -/
theorem witness_hrotRotates :
    sHrot.poised 0 1 (ent hrot56) = true ∧ isOp .hrot hrot56 = true ∧ (ent hrot56).upTo = 0 ∧ sHrot.hrotChecks (ent hrot56) = none ∧
      sHrot.trailReady = true := by decide +kernel
/-- A rotation of one element of value 1 gives ±1 times 2^-2 everywhere (07 R234). -/
theorem test_hrot : after (.hrot 0 1) sHrot
    (fun t => (List.range 8).all fun k => numAt (t.tileBytes 6 0 32) (4 * k) 4 % 2 ^ 31 == 0x3E800000) = true := by decide +kernel

/-- A bit-matrix link over four elements that reverses them: the identity and CPL 3. -/
def reversal : Chain := ⟨[⟨2, [word [(2, 0), (2, 16), (3, 32)], word [(1, 0), (2, 32)]] ++ List.replicate 15 0 ++ [3] ++ List.replicate 14 0⟩], none⟩
/-- PERM of tile 5 into 6 by the reversal and by the list at 0x2000; PERM.X of tiles 5 and 13 into 6 and 14. -/
def perm56 : Insn := long (word [(0x201, 0), (6, 20), (5, 29), (2, 47)]) (dk 1 4 3) 0 0
def permX56 : Insn := long (word [(0x202, 0), (6, 20), (5, 29), (2, 47)]) (dk 1 2 3) 3 3
def permEnt (i : Insn) (c : Chain) : Entry := { ent i with chain := c }
def byList : Entry := permEnt perm56 ⟨[listLinkAt 4 0x40002000 0], none⟩
def sPerm (e : Entry) : State := at0 (tileWith (vatWith [(0x2000, w4 [2, 0, 3, 1])]) 5 (dk 1 4 3) (count 4)) e
def sPermX : State := at0 (tileWith (tileWith up0 5 (dk 1 2 3) [1, 2]) 13 (dk 1 2 3) [3, 4]) (permEnt permX56 reversal)
/-- What stands between a PERM's checks and its result. -/
def permits (s : State) (e : Entry) (os : List Operand) : Bool :=
  let n := os.length * e.insn.deckle.count
  let es := listEntries n (s.readBytes 0 1 (e.chain.listRuns n))
  (s.permChecks e os).isNone && s.vatReady 0 (e.chain.listRuns n) && (listFault e.chain n es).isNone &&
    (s.permuteReam e.fmts e.chain e.shape os es).isSome && s.trailReady

/-- The hypotheses of PermMoves, for a PERM by an index list and a PERM.X by a matrix. -/
theorem witness_permMoves :
    ((sPerm byList).poised 0 1 byList = true ∧ isOp .perm perm56 = true ∧ byList.upTo = 0 ∧
      permits (sPerm byList) byList [perm56.srcA (perm56.q 1)] = true) ∧
    (sPermX.poised 0 1 (permEnt permX56 reversal) = true ∧ isOp .permX permX56 = true ∧
      permits sPermX (permEnt permX56 reversal) permX56.permXSources = true) := by decide +kernel
/-- PERM by a list pulls: element d is the source element that entry d names (04 R120). -/
theorem test_perm : after (.perm 0 1) (sPerm byList) (fun t => t.tileBytes 6 0 4 == [3, 1, 4, 2]) = true := by decide +kernel
/-- PERM.X reverses the four elements of the ream. -/
theorem test_permX : after (.permX 0 1) sPermX (fun t => t.tileBytes 6 0 2 == [4, 3] && t.tileBytes 14 0 2 == [2, 1]) = true := by decide +kernel

/-- SPERM of four bytes at 0x100 to 0x200 through the ream of tile 5, by the reversal. -/
def sperm5 : Insn := long (word [(0x203, 0), (5, 20), (2, 47)]) (word [(12, 20)]) (word [(0x400001, 0), (0x400002, 40)]) (word [(0x400004, 16)])
def spermEnt : Entry := permEnt sperm5 reversal
def sSperm : State := at0 (tileWith (vatWith [(0x100, count 4)]) 5 (dk 1 4 3) []) spermEnt

/-- The hypotheses of SpermDelivers. -/
theorem witness_spermDelivers :
    sSperm.poised 0 1 spermEnt = true ∧ isOp .sperm sperm5 = true ∧ spermEnt.upTo = 0 ∧ streamCheck spermEnt.fmts (sperm5.q 1) = none ∧
      chainFault spermEnt.chain .pushOnly none = none ∧ sSperm.outCheck sperm5.operandTiles = none ∧ spermEnt.spermN ≤ spermEnt.spermZ ∧
      spermEnt.spermOverlap = false ∧
      sSperm.vatReady 0 (spermEnt.chain.listRuns spermEnt.spermN ++ [spermEnt.spermFrom, spermEnt.spermTo] ++ spermEnt.spermEdges) = true ∧
      sSperm.trailReady = true := by decide +kernel
theorem test_sperm : after (.sperm 0 1) sSperm (fun t => bytesAt t.vat 0x200 4 == [4, 3, 2, 1] && !(t.tile 5).inUse) = true := by decide +kernel

/-- VOP of operation `op` on FP32 images of one element: A at 0x200, B or the scale at 0x400, D at 0x600. -/
def vop (op : Nat) : Insn :=
  long (word [(0x503, 0), (op, 56)]) (dk 1 1 0)
    (word [(0x18, 0), (if op = 10 then 0 else 8, 21), (if op = 0 then 0 else if op = 10 then 3 else 16, 42)]) 0
/-- A is 3, B is 4, D is 1. -/
def sVop (op : Nat) : State :=
  at0 (vatWith [(0x200, w4 [0x40400000]), (0x400, w4 [0x40800000]), (0x40C, [1]), (0x600, w4 [0x3F800000])]) (ent (vop op))
/-- Operation `op` stands where its command runs it. -/
def vopStands (i : Instr) (op : Nat) : Bool :=
  (sVop op).poised 0 1 (ent (vop op)) && i.takes (vop op) && (vopChecks (ent (vop op))).isNone && !(ent (vop op)).vopOverlap &&
    decide (unitsIn (vop op).deckle.count = 1) && (sVop op).vopReady 0 (ent (vop op)) 0 && (sVop op).trailReady &&
    (op != 7 || ((sVop op).vatReady 0 [scaleRun (vatAddr (vop op).vopSrcB)] &&
      (scaleRecordFault ((sVop op).readBytes 0 1 [scaleRun (vatAddr (vop op).vopSrcB)])).isNone))

/-- The hypotheses of VopComputes, for one operation of each shape. -/
theorem witness_vopComputes :
    (vopStands (.copy 0 1) 0 && vopStands (.fma 0 1) 4 && vopStands (.scale 0 1) 7 && vopStands (.rand 0 1) 10) = true := by decide +kernel

/-- What operation `op` leaves at D. -/
def vopGives (i : Instr) (op : Nat) (x : Nat) : Bool := after i (sVop op) fun t => bytesAt t.vat 0x600 4 == w4 [x]
/-- The operations of 07 R237 on 3 and 4. -/
theorem test_vop :
    (vopGives (.copy 0 1) 0 0x40400000 && vopGives (.add 0 1) 1 0x40E00000 && vopGives (.sub 0 1) 2 0xBF800000 &&
      vopGives (.mul 0 1) 3 0x41400000) = true := by decide +kernel
theorem test_vopMore :
    (vopGives (.fma 0 1) 4 0x41500000 && vopGives (.min 0 1) 5 0x40400000 && vopGives (.max 0 1) 6 0x40800000 &&
      vopGives (.scale 0 1) 7 0x41400000 && vopGives (.cmplt 0 1) 8 0x3F800000 && vopGives (.cmpeq 0 1) 9 0) = true := by decide +kernel
/-- RAND lies in [0, 1) (07 R239). -/
theorem test_rand : after (.rand 0 1) (sVop 10) (fun t => decide (numAt (bytesAt t.vat 0x600 4) 0 4 < 0x3F800000)) = true := by decide +kernel

/-- AMAX with FINAL and NFS over two FP32 elements at 0x100 into the record at 0x400: LEN 1, curve 0 as the boot ROM has it. -/
def amaxI : Insn := long (word [(0x504, 0), (3, 56)]) (dk 1 2 0) 0x100 0x400
def sAmax : State :=
  at0 { (vatWith [(0x100, w4 [0x3F800000, 0xC0400000]), (0x40C, [1])]) with tab := up0.applyBoot.tab } (ent amaxI)

/-- The hypotheses of AmaxFolds. -/
theorem witness_amaxFolds :
    sAmax.poised 0 1 (ent amaxI) = true ∧ isOp .amax amaxI = true ∧ (ent amaxI).upTo = 0 ∧
      streamCheck (ent amaxI).fmts (amaxI.q 1) = none ∧ sAmax.vatReady 0 [(ent amaxI).recRun] = true ∧
      scaleRecordFault (sAmax.readBytes 0 1 [(ent amaxI).recRun]) = none ∧
      sAmax.curveFault (sAmax.amaxCurve 0 (ent amaxI)) = none ∧ sAmax.vatReady 0 [(ent amaxI).amaxRun] = true := by decide +kernel

/-- UPD of one FP32 weight, 3, with gradient 2: constants chosen so that the moments are 2 and 4 and the step is -1. -/
def updI : Insn := long 0x505 (dk 1 1 0) 0x40000800 0
def updDesc : List Byte :=
  (List.range 9).flatMap (fun k => leBytes 8 (0x40001000 + 0x100 * k)) ++
    w4 [0x3F800000, 0, 0x3F800000, 0, 0x3F800000, 0x3F800000, 0x3F800000, 0, 0, 0xBF800000]
def sUpd : State := at0 (vatWith [(0x800, updDesc), (0x1000, w4 [0x40000000]), (0x1100, leBytes 2 0x4040)]) (ent updI)
def updEnt : Entry := sUpd.withDesc 0 (ent updI)

/-- The hypotheses of UpdSteps. -/
theorem witness_updSteps :
    sUpd.poised 0 1 (ent updI) = true ∧ isOp .upd updI = true ∧ streamCheck (ent updI).fmts (updI.q 1) = none ∧
      (fmtAt (ent updI).fmts updI.deckle.fmt).kind = .float ∧ sUpd.vatReady 0 [run updI.base 128] = true ∧
      updDescFault (sUpd.readBytes 0 1 [run updI.base 128]) = none ∧ updEnt.updOverlap = false ∧ unitsIn updI.deckle.count = 1 ∧
      sUpd.segmentBusy 0 = false ∧ sUpd.vatReady 0 (updEnt.updRuns 0) = true ∧ sUpd.trailReady = true := by decide +kernel

/-- A context with SEALED, a TREL and behind it an UPD that has begun and written nothing. -/
def sSealed : State := up0.setCtx 0 { runCtx [ent trel5, { (ent updI).begun with seq := 2 }] with sealedGen := true }
/-- The hypotheses of UpdSteps on SEALED: an UPD that has begun, and none; one that an earlier fault cancels. -/
theorem witness_sealedReads :
    (∃ e ∈ (sSealed.ctx 0).window, e.insn.op = some .upd ∧ (e.phase = .ready ∨ e.phase = .active)) ∧
    (∀ e ∈ (up0.ctx 0).window, e.insn.op = some .upd → e.phase ≠ .ready ∧ e.phase ≠ .active) ∧
    ((sSealed.ctx 0).window = [] ++ ent trel5 :: { (ent updI).begun with seq := 2 } :: [] ∧ (2 : Seq) ≠ (ent trel5).seq ∧
      (ent trel5).insn.op ≠ some .upd ∧ ({ (ent updI).begun with seq := 2 } : Entry).insn.op = some .upd ∧
      (ent updI).begun.phase = .active ∧ (ent updI).begun.wrote = false) := by decide +kernel
/-- SEALED reads clear while the UPD is at work, and as before once it is cancelled (06 R197; 07 R245). -/
theorem test_sealedCancel : ((sSealed.ctx 0).fstat.getLsbD 17 = false) ∧
    ((sSealed.faultEntry 0 (ent trel5) 0 (uncorrectable 0 0 0)).ctx 0).fstat.getLsbD 17 = true := by decide +kernel
/-- The current images of an UPD are reads of it, and the staged ones writes (07 R245). -/
theorem test_updUses : (updEnt.uses 0).writes.any (·.1 == 0x40001100) = false ∧ (updEnt.uses 1).writes.any (·.1 == 0x40001100) = true := by
  decide +kernel

/-- UPD stages 3 - 1 = 2 as HIGH 0x4000 and LOW 0, and the moments 2 and 4 (07 R244). -/
theorem test_upd : after (.upd 0 1) sUpd (fun t => bytesAt t.vat 0x1200 2 == leBytes 2 0x4000 && bytesAt t.vat 0x1600 4 == w4 [0x40000000] &&
    bytesAt t.vat 0x1800 4 == w4 [0x40800000]) = true := by decide +kernel

/-! The Screen. -/

/-- A Screen descriptor at 0x800: COUNT, choice, formats, experts, flags, CAP, addresses, strides, WORK (07 R247). -/
def screenDesc (n choice : Nat) (fs : List Nat) (experts flags cap : Nat) (as : List Nat) (s0 s1 work : Nat) : List Byte :=
  leBytes 4 n ++ leBytes 1 choice ++ fs.flatMap (leBytes 1) ++ leBytes 2 experts ++ leBytes 2 flags ++ leBytes 4 cap ++
    as.flatMap (leBytes 8) ++ leBytes 4 s0 ++ leBytes 4 s1 ++ leBytes 4 work
def screenInsn (op : Nat) : Insn := long (word [(op, 0)]) 0 0x40000800 0
def granted (i : Insn) : Entry := { ent i with granted := true }
/-- SORT of four UINT8 keys at 0x100, payloads the positions, keys written to 0x200 and payloads to 0x300. -/
def sSort : State := at0 (vatWith [(0x800, screenDesc 4 0 [12, 0, 0] 0 6 0 [0x40000100, 0, 0x40000200, 0x40000300, 0, 0] 0 0 0x400),
  (0x100, [7, 3, 7, 1])]) (granted (screenInsn 0x401))
/-- DISP of two tokens, one choice each, to two experts of capacity 1, with a spill list: both choose expert 1, weights 1 and 2. -/
def sDisp : State := at0 (vatWith [(0x800, screenDesc 2 1 [0, 0, 0] 1 1 1
  [0x40000100, 0x40000180, 0x40000200, 0x40000280, 0x40000300, 0x40000380] 0 0 0x400), (0x100, w4 [1, 1]),
  (0x180, w4 [0x3F800000, 0x40000000])]) (granted (screenInsn 0x402))
/-- COMB of one token and two choices, rows of one FP32 element: weights 1 and 2, rows 0 and 1 of values 1 and 3. -/
def sComb : State := at0 (vatWith [(0x800, screenDesc 1 2 [0, 0, 0] 0 0 1 [0x40000100, 0x40000180, 0x40000200, 0x40000300, 0, 0] 4 4 0),
  (0x100, w4 [0x3F800000, 0x40000000]), (0x180, w4 [0, 1]), (0x200, w4 [0x3F800000, 0x40400000])]) (granted (screenInsn 0x403))
def sortEnt : Entry := sSort.withDesc 0 (granted (screenInsn 0x401))
def dispEnt : Entry := sDisp.withDesc 0 (granted (screenInsn 0x402))
def combEnt : Entry := sComb.withDesc 0 (granted (screenInsn 0x403))

/-- The hypotheses of ScreenWrites. -/
theorem witness_sortWrites :
    sSort.poised 0 1 (granted (screenInsn 0x401)) = true ∧ isOp .sort (screenInsn 0x401) = true ∧
      sSort.screenReady 0 (granted (screenInsn 0x401)) = true ∧ sortDescBad sortEnt = none ∧ sortEnt.sortKeys = true ∧
      sSort.vatReady 0 (sortEnt.workRun sortEnt.scCount :: (sortEnt.sortIns ++ sortEnt.sortOuts)) = true ∧
      groupsMeet ((sortEnt.sortIns ++ sortEnt.sortOuts ++ [sortEnt.workRun sortEnt.scCount, sortEnt.descRun]).map fun r => [r]) = false ∧
      sSort.trailReady = true := by decide +kernel
theorem witness_dispWrites :
    sDisp.poised 0 1 (granted (screenInsn 0x402)) = true ∧ isOp .disp (screenInsn 0x402) = true ∧
      sDisp.screenReady 0 (granted (screenInsn 0x402)) = true ∧ dispDescBad dispEnt = none ∧ dispEnt.policy = 1 ∧
      sDisp.vatReady 0 (dispEnt.workRun dispEnt.scEntries :: (dispEnt.dispIns ++ dispEnt.dispOuts)) = true ∧
      groupsMeet ((dispEnt.dispIns ++ dispEnt.dispOuts ++ [dispEnt.workRun dispEnt.scEntries, dispEnt.descRun]).map fun r => [r]) = false ∧
      dispFault dispEnt (sDisp.readBytes 0 1 dispEnt.dispIns) = none := by decide +kernel
theorem witness_combWrites :
    sComb.poised 0 1 (granted (screenInsn 0x403)) = true ∧ isOp .comb (screenInsn 0x403) = true ∧
      sComb.screenReady 0 (granted (screenInsn 0x403)) = true ∧ combDescBad combEnt = none ∧
      sComb.vatReady 0 (combEnt.combIns ++ combEnt.combOuts) = true ∧
      sComb.vatReady 0 ((sComb.combNamed 0 combEnt).map combEnt.combRow) = true ∧
      groupsMeet ((combEnt.combIns.map fun r => [r]) ++ [(sComb.combNamed 0 combEnt).map combEnt.combRow, combEnt.combOuts, [combEnt.descRun]])
        = false := by decide +kernel

/-- The hypotheses of ScoreboardSeesEveryStore for a COMB, with a byte of its row that changes. -/
theorem witness_scoreboardSeesRecord :
    sComb.poised 0 1 (granted (screenInsn 0x403)) = true ∧
      after (.comb 0 1) sComb (fun t => byteAt t.vat 0x303 != byteAt sComb.vat 0x303) = true := by decide +kernel

/-- SORT: positions in ascending key, equal keys in input order (08 R267). The working area's open bytes keep a whole step from being
evaluated, here and for DISP. -/
theorem test_sort : (sSort.sortedOf 0 sortEnt).2.map SortRec.payload = [3, 1, 0, 2] := by decide +kernel
/-- DISP keeps the heavier token 1 in expert 1's one slot; token 0 overflows and is spilled (07 R250, R251). -/
theorem test_disp : (fun d : Dispatched => (d.gather, d.combine, d.counts, d.spill)) (sDisp.dispatchedOf 0 dispEnt) =
    ([0xFFFFFFFF, 1], [0xFFFFFFFF, 0 + 1], [0, 1, 1], [0]) := by decide +kernel
/-- COMB: 1 times 1 and 2 times 3, 7 (07 R252). -/
theorem test_comb : after (.comb 0 1) sComb (fun t => bytesAt t.vat 0x300 4 == w4 [0x40E00000]) = true := by decide +kernel

/-- The hypotheses of SortIsStable, keys at the ends of their range. -/
theorem witness_sortIsStable :
    12 ∈ [0, 1, 2, 8, 9, 10, 12, 13] ∧ [255, 0, 255].length = [1, 2, 3].length ∧ ∀ x ∈ [255, 0, 255], x < 2 ^ (fmtAt [] 12).width := by
  decide +kernel

/-! Fronts. -/

/-- FRONT with CMT and status bits 2 and 3; the owner's context runs it. -/
def frontI : Insn := long (word [(0x601, 0), (1, 56)]) 0 0xC 0
def sFront (g : Front → Front) : State := { at0 up0 (ent frontI) with front := g up0.front }

/-- The hypotheses of FrontBegins: solitary, domain, recording at the first page of chip memory, and held. -/
theorem witness_frontBegins :
    ((sFront id).poised 0 1 (ent frontI) = true ∧ isOp .front frontI = true ∧ (sFront id).frontReady 0 (ent frontI) = true ∧
      (sFront id).frontKind ≠ .domain ∧ (sFront id).front.recEn = false) ∧
    ((sFront fun f => { f with enable := true }).frontReady 0 (ent frontI) = true ∧
      (sFront fun f => { f with enable := true }).frontKind = .domain ∧ (sFront fun f => { f with enable := true }).front.held = false ∧
      ((sFront fun f => { f with enable := true }).ctx 0).en = true) ∧
    ((sFront fun f => { f with recEn := true, reca := 0x100000000 }).frontReady 0 (ent frontI) = true ∧
      (sFront fun f => { f with recEn := true, reca := 0x100000000 }).frontKind ≠ .domain ∧
      2 ^ 32 ≤ (sFront fun f => { f with recEn := true, reca := 0x100000000 }).front.reca.toNat) ∧
    ((sFront fun f => { f with enable := true, held := true }).frontReady 0 (ent frontI) = true ∧
      (sFront fun f => { f with enable := true, held := true }).frontKind = .domain) := by decide +kernel
/-- A recording front's translation port has a free tag, whichever port the implementation gives its page. -/
theorem witness_frontAsks (p : Fin 16) : ((sFront fun f => { f with recEn := true, reca := 0x100000000 }).freeTtag p).isSome = true := rfl

/-- A solitary front completes with its own vote word: CMT with both bits set commits the generation (07 R255). -/
theorem test_front : after (.front 0 1) ((sFront id).upCtx 0 fun x => { x with sealedGen := true })
    (fun t => decide ((t.ctx 0).fronts = 1 ∧ t.front.num = 1 ∧ (t.ctx 0).sealedGen = false)) = true := by decide +kernel

/-- The front in progress, its record's translation, and states that hold them. -/
def front0 (p : FrontPhase) : FrontAct :=
  { ctx := 0, seq := 1, kind := .domain, phase := p, cmt := true, voteOut := 3, word := 0, recEn := true, limit := 1, num := 1,
    genBefore := 0, steps := Vector.replicate 8 0 }
def recXlat : Xlat := ⟨0, 0, 0, 0, 65537, 0x100000, true, some ⟨5, false, true⟩⟩
def sActing (p : FrontPhase) (g : Front → Front) : State :=
  { at0 up0 { ent frontI with phase := .active, started := true } with
    front := g { up0.front with enable := true, act := some (front0 p), reca := 0x100000000 }, xlats := [recXlat] }
/-- A record's write request. -/
def recWrite0 : MemWrite := ⟨0, some 0, 0x50, []⟩
/-- The ARRIVED record of a front of kind `k` is on its way, with that translation. -/
def sRecording (k : FrontKind) (x : XlatAns) : State :=
  { sActing .recording (fun f => { f with act := some { front0 .recording with kind := k }, sent := if x.wperm then some recWrite0 else none }) with
    xlats := [{ recXlat with ans := some x }] }
/-- A DONE record is on its way. -/
def sDone (x : XlatAns) : State :=
  { sActing .recording (fun f =>
      { f with act := none, doneRec := some (0, 0x100000000, []), sent := if x.wperm then some recWrite0 else none }) with
    xlats := [{ recXlat with ans := some x }] }
/-- What the record's write has come to, once the record has been asked for. -/
def recordCame (s : State) (ok : Bool) : Option Bool :=
  ((s.askXlat 0 recordAccess true (recaPage 0x100000000)).recordStep).recordWritten 0 0x100000000 ok
/-- Tracing in record mode with no room left in the ring. -/
def ringFull (s : State) : State :=
  { s with korni := { s.korni with mode := 1, trail := true, head := 0x10000, log2size := 16 } }

/-- The hypotheses of FrontCompletes, clause by clause; FRONT_GO is counted at the first moment that R318 admits. -/
theorem witness_frontCompletes :
    ((sRecording .domain ⟨5, false, true⟩).up = true ∧ ((sRecording .domain ⟨5, false, true⟩).ctx 0).en = true ∧
      (((sRecording .domain ⟨5, false, true⟩).ctx 0).entry 1).isSome = true ∧
      recordCame (sRecording .domain ⟨5, false, true⟩) true = some true ∧ recordCame (sRecording .domain ⟨5, false, true⟩) false = some false ∧
      recordCame (sRecording .domain ⟨5, false, false⟩) true = some false ∧
      recordCame { sRecording .domain ⟨5, false, true⟩ with xlats := [{ recXlat with ans := none }] } true = none) ∧
    (recordCame (sRecording .forced ⟨5, false, true⟩) true = some true ∧
      (sRecording .forced ⟨5, false, true⟩).front.act = some { front0 .recording with kind := .forced } ∧
      (sRecording .forced ⟨5, false, true⟩).frontTrailReady = true ∧ (ringFull (sRecording .forced ⟨5, false, true⟩)).frontTrailReady = false) ∧
    ((sActing (.arrived 0) id).up = true ∧ (sActing (.arrived 0) id).front.calBusy = false ∧
      (sActing (.arrived 0) id).front.act = some (front0 (.arrived 0)) ∧ 8 ≤ 8 ∧
      (sActing (.arrived 0) fun f => { f with lastCount := some 0 }).countFree (1 + 8) = true ∧
      (sActing (.arrived 0) id).countFree (0 + 8) = true ∧ 8 ≤ waitLimit (front0 (.arrived 0)).limit) ∧
    ((sActing (.arrived 0) fun f => { f with calBusy := true, act := none }).front.calBusy = true ∧ 2 ^ 16 - 1 < 2 ^ 16 ∧
      (sActing (.arrived 0) fun f => { f with calBusy := true, act := none }).countFree (0 + (2 ^ 16 - 1)) = true) ∧
    ((sActing (.counted 40 3) id).front.act = some (front0 (.counted 40 3)) ∧ (sActing (.counted 40 3) id).frontTrailReady = true ∧
      (((sActing (.counted 40 3) id).ctx 0).entry 1).isSome = true) ∧
    ((sDone ⟨5, false, true⟩).front.doneRec = some (0, 0x100000000, []) ∧ recordCame (sDone ⟨5, false, true⟩) true = some true ∧
      recordCame (sDone ⟨5, false, true⟩) false = some false ∧ recordCame (sDone ⟨5, true, false⟩) true = some false ∧
      recordCame { sDone ⟨5, false, true⟩ with xlats := [{ recXlat with ans := none }] } true = none) := by
  decide +kernel

/-- FRONT_GO counted 8 cycles after the arrival fixes the exit DELAY later (10 R318, R319); the exit commits with word 3. -/
theorem test_frontGoCount : after (.frontGoCount 8 3 (oddParity 3)) (sActing (.arrived 0) fun f => { f with delay := 5 })
    (fun t => decide (t.front.act = some (front0 (.counted 13 3)))) = true := by decide +kernel
theorem test_frontExit : after .frontExit (sActing (.counted 40 3) id)
    (fun t => decide ((t.ctx 0).vote = 3 ∧ (t.ctx 0).gen = 1 ∧ (t.ctx 0).committed = true ∧ t.clock = 40)) = true := by decide +kernel

/-- The hypotheses of FrontSignals. -/
theorem witness_frontSignals :
    (up0.up = true ∧ up0.front.arrive = false) ∧
    (({ up0 with front := { up0.front with lastCount := some 7 } } : State).front.lastCount = some 7) ∧
    ((sActing (.arrived 0) id).front.act = some (front0 (.arrived 0)) ∧ (front0 (.arrived 0)).limit ≠ 0 ∧
      (((sActing (.arrived 0) id).ctx 0).entry 1).isSome = true) := by decide +kernel
theorem test_strayFrontGo : after .strayFrontGo up0 (fun t => t.front.stray && t.front.strays == 1) = true := by decide +kernel

/-! Events of a window. -/

/-- Two TRELs of tile 5: the second conflicts with the first until the first has ended. -/
def sTwo (p : Phase) : State :=
  up0.setCtx 0 (runCtx [{ ent trel5 with phase := p }, { ent trel5 with seq := 2, phase := .waiting }])
def second : Entry := { ent trel5 with seq := 2, phase := .waiting }
/-- A TMOV that has begun. -/
def moving : Entry := (ent tmov56).begun
def sMoving (f : Entry → Entry) : State := at0 (tileWith up0 5 (dk 8 8 3) (count 64)) (f moving)
/-- Unit `k` of the instruction is open and runs. -/
def unitRuns (s : State) (e : Entry) (k : Nat) : Bool :=
  (partsOf e.insn).any fun P => unitOpen P s e k && match P.unit 0 s e k with | .ok _ _ => true | _ => false
/-- The check value that unit 0 of the TMOV gives (05 R147). -/
def movedCheck : Quad := slotCheck 0 ((sMoving id).tileBytes 5 0 256)

/-- The span of unit 0 has failed `n` times, the last time on plane 0. -/
def failedSpan (n : Nat) : Entry := { moving with spanFails := [(0, n)], spanPlanes := [(0, 0)] }
def sFailed (n : Nat) : State := sMoving fun _ => failedSpan n
/-- A substitution has lost words of the span of unit 0 (05 R165). -/
def lostSpan : Entry := { moving with spanLost := [0] }

/-- The hypotheses of WindowEvents, clause by clause. -/
theorem witness_windowEvents :
    (((sTwo .completed).ctx 0).entry 2 = some second ∧ second.phase = .waiting ∧ ((sTwo .completed).ctx 0).works = true ∧
      ((sTwo .completed).ctx 0).free second = true ∧ ((sTwo .ready).ctx 0).free second = false) ∧
    ((sMoving id).up = true ∧ ((sMoving id).ctx 0).entry 1 = some moving ∧ ((sMoving id).ctx 0).mayRun moving = true ∧
      (sMoving id).unitsServe moving.insn = true ∧ moving.started = true ∧ moving.failed = none ∧ unitRuns (sMoving id) moving 0 = true ∧
      (∀ r ∈ (sMoving id).mapRegs moving.insn, (sMoving id).agrees r = true) ∧ moving.insn.op ≠ some .trestore) ∧
    (moving.insn.op = some .tmov ∧ Op.crossesPlane .tmov = true ∧ (1 : BitVec 5) ≠ 0 ∧ (planesOf 1).all (sMoving id).planeActive = true ∧
      (∀ p : Fin 5, (sMoving id).testing (.plane p) = false) ∧ totalsAgree moving.insn movedCheck [movedCheck] = true ∧
      totalsAgree moving.insn movedCheck [movedCheck + 1] = false ∧ countAt moving.spanFails 0 < 2 ∧ 0 ∉ moving.spanLost ∧
      (sMoving id).avoids moving 0 (planesOf 1) = true) ∧
    (∀ e ∈ [lostSpan, failedSpan 2], unitRuns (sMoving fun _ => e) e 0 = true ∧ ((sMoving fun _ => e).ctx 0).entry 1 = some e ∧
      e.crosses = true) ∧
    (0 ∈ lostSpan.spanLost ∧ (sMoving fun _ => lostSpan).avoids lostSpan 0 (planesOf 1) = true ∧
      (sMoving fun _ => lostSpan).avoids lostSpan 0 [1] = true ∧ (sFailed 2).avoids (failedSpan 2) 0 [0] = false ∧
      (sFailed 2).planeActive 0 = true) ∧
    (unitRuns (sFailed 2) (failedSpan 2) 0 = true ∧ ((sFailed 2).ctx 0).entry 1 = some (failedSpan 2) ∧
      (sFailed 2).avoids (failedSpan 2) 0 (planesOf 1) = false ∧ (sFailed 2).avoids (failedSpan 2) 0 (planesOf 2) = true ∧
      (planesOf 2).all (sFailed 2).planeActive = true ∧ 2 ≤ countAt (failedSpan 2).spanFails 0 ∧ (failedSpan 2).failed = none ∧
      0 = (failedSpan 2).upTo) ∧
    (moving.crosses = true ∧ (1 : Fin 128).val < 5 ∧ (sMoving id).planeActive 1 = true ∧ (sMoving id).avoids moving 0 [1] = true) := by
  decide +kernel

/-- What an instruction does as it begins succeeds. -/
def starts (s : State) (e : Entry) : Bool := (partsOf e.insn).any fun P => match P.start 0 s e with | .ok _ _ => true | _ => false
/-- The same where the first event begins an instruction: a TMOV, clean and with an error; and a TRESTORE with an error in the last unit of its
header. -/
theorem witness_windowBegins :
    (sTmov.poised 0 1 (ent tmov56) = true ∧ starts sTmov (ent tmov56) = true ∧
      starts (sTmov.putEntry 0 { ent tmov56 with hit := .uncorrectable .tileFile 0 5 }) (ent tmov56) = true) ∧
    (sTrestore.poised 0 1 (ent trestore) = true ∧ isOp .trestore trestore = true ∧ sTrestore.vatReady 0 (headerRuns trestore) = true ∧
      (areaRun trestore 3).addr ≤ (0x400003FF : BitVec 48).toNat ∧
      ((0x400003FF : BitVec 48).toNat : Int) < (areaRun trestore 3).addr + 256 ∧ 0 ≤ (ent trestore).upTo) := by decide +kernel
/-- A header that cannot be read whole leaves the tiles as they were (03 R103; 12 R391). -/
theorem test_trestoreHeader : after (.slotCommit 0 1 0 (.uncorrectable .vatOrLane 0 0x40000000)) sTrestore
    (fun t => decide ((t.tile 0).inUse = false) && ((t.ctx 0).entry 1).any fun e => e.fault.any fun f => f.2.code == 0x0A) = true := by
  decide +kernel

/-- An instruction begins when the one before it that it conflicts with has ended (06 R191). -/
theorem test_scoreboardBegin :
    after (.scoreboardBegin 0 2) (sTwo .completed) (fun t => ((t.ctx 0).entry 2).any fun e => e.phase == .ready) = true ∧
    after (.scoreboardBegin 0 2) (sTwo .ready) (fun t => ((t.ctx 0).entry 2).any fun e => e.phase == .waiting) = true := by decide +kernel
/-- An uncorrectable word of the tile file faults the slot, with WHERE 0 (12 R396). -/
theorem test_slotCommit : after (.slotCommit 0 1 0 (.uncorrectable .tileFile 0 5)) (sMoving id)
    (fun t => ((t.ctx 0).entry 1).any fun e => e.fault.any fun f => f.2.code == 0x0A && f.2.finfo.bits 2 0 == 0) = true := by decide +kernel
/-- A span whose totals differ has its plane tested (05 R159, R163). -/
theorem test_spanCheck : after (.spanCheck 0 1 0 1 [0]) (sMoving id)
    (fun t => t.testing (.plane 0) && ((t.ctx 0).entry 1).any fun e => e.spanFails == [(0, 1)]) = true := by decide +kernel

/-- Contexts 0 and 1 offer a SORT, a long GATH each; context 1 has the higher QOS. -/
def sortWaits : Entry := ent (screenInsn 0x401)
def gathLong : Entry := ent (long (word [(0x204, 0), (5, 20), (2, 47)]) (dk 65 1 3) 0x40000100 (word [(16, 0), (80, 32)]))
def sOffers (e : Entry) : State := (at0 up0 e).setCtx 1 { runCtx [e] with qos := 1 }

/-- The hypotheses of ScreenGrants. -/
theorem witness_screenGrants :
    ((sOffers sortWaits).up = true ∧ (sOffers sortWaits).testing .screen = false ∧ (sOffers sortWaits).screen.owner = none ∧
      (((sOffers sortWaits).ctx 0).offer usesSorter).isSome = true) ∧
    ((sOffers gathLong).screen.paths.length < 4 ∧ (((sOffers gathLong).ctx 1).offer usesPath).isSome = true) := by decide +kernel
/-- The higher QOS is served first (08 R263, R264). -/
theorem test_screenGrant : after .screenGrant (sOffers sortWaits) (fun t => t.screen.owner == some (1, 1)) = true := by decide +kernel
theorem test_addressPathGrant : after .addressPathGrant (sOffers gathLong) (fun t => t.screen.paths == [(1, 1)]) = true := by decide +kernel

/-- A SORT that has begun and holds the sorter; a VOP that has begun. -/
def sorting (k : Nat) : Entry := { sortEnt.begun with screenFail := k }
def adding (k : Nat) : Entry := { (ent (vop 1)).begun with laneFails := [(0, k)] }

/-- The hypotheses of UnitErrors, at the last error that repeats and the first that faults. -/
theorem witness_unitErrors :
    (∀ k ∈ [1, 2], (((at0 sSort (sorting k)).ctx 0).entry 1 = some (sorting k) ∧ (partsOf (sorting k).insn).isSome = true ∧
      (sorting k).started = true ∧ ((at0 sSort (sorting k)).ctx 0).mayRun (sorting k) = true ∧ (sorting k).failed = none ∧
      (sorting k).granted = true ∧ (at0 sSort (sorting k)).testing .screen = false)) ∧
    ((sorting 1).screenFail < 2 ∧ 2 ≤ (sorting 2).screenFail) ∧
    (∀ k ∈ [1, 2], (((at0 (sVop 1) (adding k)).ctx 0).entry 1 = some (adding k) ∧ (adding k).started = true ∧ (adding k).failed = none ∧
      (adding k).laneSegment 0 = some 0 ∧ 0 < unitsIn (adding k).insn.deckle.count ∧ (adding k).laneUnit 0 = (adding k).upTo ∧
      ((partsOf (adding k).insn).any fun P => unitOpen P (at0 (sVop 1) (adding k)) (adding k) 0) = true ∧
      (at0 (sVop 1) (adding k)).unitsServe (adding k).insn = true ∧
      ∀ r ∈ (at0 (sVop 1) (adding k)).mapRegs (adding k).insn, (at0 (sVop 1) (adding k)).agrees r = true)) ∧
    (countAt (adding 1).laneFails 0 < 2 ∧ 2 ≤ countAt (adding 2).laneFails 0) := by decide +kernel
theorem test_screenError : after (.screenError 0 1) (at0 sSort (sorting 2))
    (fun t => ((t.ctx 0).entry 1).any fun e => e.fault.any fun f => f.2.finfo.bits 2 0 == 5) = true := by decide +kernel
/-- The same in the first unit of a VOP that begins with it. -/
theorem witness_laneErrorBegins :
    (sVop 1).poised 0 1 (ent (vop 1)) = true ∧ (ent (vop 1)).laneSegment 0 = some 0 ∧ 0 < unitsIn (vop 1).deckle.count ∧
      ((partsOf (vop 1)).any fun P => match P.start 0 (sVop 1) (ent (vop 1)) with
        | .ok s1 e1 => unitOpen P (s1.forget 0 e1) e1.begun (e1.laneUnit 0)
        | _ => false) = true := by decide +kernel
theorem test_laneErrorBegins : after (.laneParityError 0 1 0) (sVop 1)
    (fun t => t.testing (.macroOf 0 15) && ((t.ctx 0).entry 1).any fun e => e.laneFails == [(0, 1)] && e.started) = true := by decide +kernel
theorem test_laneParityError : after (.laneParityError 0 1 0) (at0 (sVop 1) (adding 0))
    (fun t => t.testing (.macroOf 0 15) && ((t.ctx 0).entry 1).any fun e => e.laneFails == [(0, 1)]) = true := by decide +kernel

/-- A context that drains after its one instruction faulted, and one that drains without a fault. -/
def faulted1 : Entry := { ent tst2 with phase := .faulted, fault := some (1, ⟨0x08, 0x40100000⟩) }
def sDrain (w : List Entry) (en : Bool) : State := up0.setCtx 0 { runCtx w with st := .draining, en := en }

/-- One of program mode without ENABLE, whose next instruction has completed. -/
def sDrainOff : State := up0.setCtx 0 { runCtx [{ faulted1 with addr := 0x200000 }, { faulted1 with seq := 2, phase := .completed, fault := none }] with
  st := .draining, en := false, prog := true, pc := 0x200040 }

/-- The hypotheses of DrainEnds. -/
theorem witness_drainEnds :
    ((sDrain [faulted1] true).up = true ∧ ((sDrain [faulted1] true).ctx 0).st = .draining ∧
      ((sDrain [faulted1] true).ctx 0).allEnded = true ∧
      ((sDrain [faulted1] true).ctx 0).recorded = some (1, 1, ⟨0x08, 0x40100000⟩, 0)) ∧
    ((sDrainOff.ctx 0).st = .draining ∧ (sDrainOff.ctx 0).allEnded = true ∧ (sDrainOff.ctx 0).en = false ∧ (sDrainOff.ctx 0).prog = true ∧
      (sDrainOff.ctx 0).recorded = some (1, 1, ⟨0x08, 0x40100000⟩, 0x200000)) ∧
    (((sDrain [] true).ctx 0).allEnded = true ∧ ((sDrain [] true).ctx 0).recorded = none) := by decide +kernel
/-- The fault record takes the fault, the context stops, and the fault's event waits (06 R198; 11 R380). -/
theorem test_drainEnd : after (.drainEnd 0) (sDrain [faulted1] true) (fun t => decide ((t.ctx 0).st = .stopped ∧ (t.ctx 0).code = 8 ∧
    (t.ctx 0).count = 1 ∧ (t.ctx 0).events = [.fault 8])) = true := by decide +kernel
/-- A drain that ends in DISABLED sets the program counter to FPC, and CK_CTX_DONE shows what has completed (06 R178, R199). -/
theorem test_drainOff : after (.drainEnd 0) sDrainOff
    (fun t => decide ((t.ctx 0).st = .disabled ∧ (t.ctx 0).pc = 0x200000 ∧ (t.ctx 0).doneBits = 1)) = true := by decide +kernel

/-! Register writes. -/

/-- READY with context 0 as given. -/
def ctl (x : Ctx) : State := up0.setCtx 0 x
/-- A write from domain 0, which is the supervisor's and context 0's, is taken at an offset. -/
def taken (s : State) (off : Nat) : Bool := s.opens (.eddy 0) 0 off && s.superSrc (.eddy 0) && s.ownerSrc 0 (.eddy 0)

/-- Context 0 stopped by a fetch fault at 0x200004. -/
def fetchStopped : Ctx :=
  { runCtx [] with st := .stopped, prog := true, valid := true, fpc := 0x200004, fetchFault := some ⟨0x0C, 0x200004⟩ }

/-- The hypotheses of ContextControl, clause by clause. -/
theorem witness_contextControl :
    (taken up0 (ctlOff 0) = true ∧ (up0.ctx 0).en = false ∧ up0.glob.bu = 5 ∧ up0.korni.startOwed = false) ∧
    (taken (ctl (runCtx [])) (ctlOff 0) = true ∧ ((ctl (runCtx [])).ctx 0).en = true) ∧
    (taken (ctl { runCtx [] with st := .idle, prog := true }) (ctlOff 0) = true ∧
      ((ctl { runCtx [] with st := .idle, prog := true }).ctx 0).st = .idle ∧
      (ctl { runCtx [] with st := .idle, prog := true }).shut 0 = false) ∧
    (taken (ctl { runCtx [faulted1] with st := .stopped, valid := true }) (ctlOff 0) = true ∧
      (ctl { runCtx [faulted1] with st := .stopped, valid := true }).shut 0 = false) ∧
    (taken (ctl fetchStopped) (ctlOff 0) = true ∧ (ctl fetchStopped).shut 0 = false ∧
      (((ctl fetchStopped).ctx 0).prog && ((ctl fetchStopped).ctx 0).fetchRecorded) = true) := by decide +kernel

/-- ENABLE set leaves DISABLED for IDLE; START runs; RESUME runs the faulted instruction again from its count; ABORT drops it (06 R178). -/
theorem test_ctxEnable : after (.ctxEnable (.eddy 0) 0) up0 (fun t => decide ((t.ctx 0).en = true ∧ (t.ctx 0).st = .idle)) = true := by
  decide +kernel
theorem test_ctxDisable : after (.ctxDisable (.eddy 0) 0) (ctl (runCtx [faulted1])) (fun t => decide ((t.ctx 0).st = .draining)) = true := by
  decide +kernel
theorem test_start : after (.start (.eddy 0) 0) (ctl { runCtx [] with st := .idle, prog := true }) (fun t => (t.ctx 0).fetching) = true := by
  decide +kernel
theorem test_resume : after (.resume (.eddy 0) 0) (ctl { runCtx [faulted1] with st := .stopped, valid := true, fseq := 1, count := 1 })
    (fun t => decide ((t.ctx 0).st = .run) && (t.ctx 0).window.all fun e => e.upTo == 1 && e.fault.isNone) = true := by decide +kernel
theorem test_abort : after (.abort (.eddy 0) 0) (ctl { runCtx [faulted1] with st := .stopped, valid := true })
    (fun t => decide ((t.ctx 0).st = .idle ∧ (t.ctx 0).window = [] ∧ (t.ctx 0).retired = 1)) = true := by decide +kernel

/-- Tile 0 owned by domain 0, tile 1 by domain 9. -/
def owned : State :=
  { tileWith up0 1 (dk 8 8 3) (count 64) with tileOwner := (up0.tileOwner.set 0 (some ⟨0, false⟩)).set 1 (some ⟨9, false⟩) }
/-- A lease write waits for its clears. -/
def leaseWaiting : State := { owned with leaseWaits := [⟨.eddy 0, 0, 0, .tile 0, .whole, 3⟩] }

/-- The same of the low half, while the high half of the register has been written under another identifier. -/
def halfWaiting : State :=
  { owned.upCtx 0 (fun x => { x with tlease := 0x700000000 }) with leaseWaits := [⟨.eddy 0, 0, 0, .tile 0, .low, 3⟩] }

/-- Security locked by domain 0, which is the security manager's. -/
def locked : State := { up0 with sec := { up0.sec with locked := true } }

/-- The hypotheses of DomainsAndLeases: a lease that clears nothing and one that clears tile 1; a waiting half beside a half written since. -/
theorem witness_domainsAndLeases :
    (taken up0 (ctlOff 0) = true ∧ (up0.ctx 0).st = .disabled ∧ (9 : BitVec 8) ≠ (up0.ctx 0).domain) ∧
    (taken locked (ctlOff 0) = true ∧ locked.srcDomain (.eddy 0) = locked.sec.secdom ∧ (locked.ctx 0).st = .disabled ∧
      true ≠ (locked.ctx 0).secure ∧ locked.maySecure = true) ∧
    (owned.takesWrite (.eddy 0) 0 (leaseOff 0 (.tile 0)) .whole 3 = true ∧ owned.superSrc (.eddy 0) = true ∧ (owned.ctx 0).st = .disabled ∧
      owned.grantRefused 0 (.tile 0) 1 = false ∧ owned.grantClears 0 (.tile 0) 1 = [] ∧ owned.grantRefused 0 (.tile 0) 3 = false ∧
      owned.grantClears 0 (.tile 0) 3 ≠ []) ∧
    (leaseWaiting.up = true ∧ (leaseWaiting.ctx 0).st = .disabled ∧ leaseWaiting.grantRefused 0 (.tile 0) 3 = false) ∧
    (halfWaiting.up = true ∧ (halfWaiting.ctx 0).st = .disabled ∧
      Access.merge ⟨none, .low, 3, true⟩ ((halfWaiting.ctx 0).leaseReg (.tile 0)) = 0x700000003 ∧
      halfWaiting.grantRefused 0 (.tile 0) 0x700000003 = false) := by decide +kernel

theorem test_domainWrite : after (.domainWrite (.eddy 0) 0 9) up0 (fun t => (t.ctx 0).domain == 9) = true := by decide +kernel
theorem test_secureWrite : after (.secureWrite (.eddy 0) 0 true) locked (fun t => (t.ctx 0).secure) = true := by decide +kernel
/-- A lease of a tile that another owner used waits for its clear, and then the tile is zero and tagged (14 R443). -/
theorem test_leaseWrite : after (.leaseWrite (.eddy 0) 0 (.tile 0) .whole 3) owned (fun t => t.leaseWaits.length == 1 && (t.ctx 0).tlease == 0)
    = true := by decide +kernel
theorem test_leaseClearDone : after .leaseClearDone leaseWaiting (fun t => (t.ctx 0).tlease == 3 && t.tileBytes 1 0 2 == [0, 0] &&
    t.ownerOf (.tile 0) 1 == some ⟨0, false⟩) = true ∧
    after .leaseClearDone halfWaiting (fun t => (t.ctx 0).tlease == 0x700000003) = true := by decide +kernel

/-- READY with the boot values in the tables. -/
def booted : State := up0.applyBoot

/-- READY with bits 31:0 of format entry 16 staged. -/
def stagedFmt : State := { up0 with tab := { up0.tab with staged := [(TabReg.offset (.fmt 0), 6)] } }

/-- READY with bits 31:0 of the second register of curve 0 staged. -/
def stagedCurve : State := { up0 with tab := { up0.tab with staged := [(TabReg.offset (.scurve 1), 6)] } }

/-- The hypotheses of TableWrites, clause by clause: the last fixed entry and the first programmable one. -/
theorem witness_tableWrites :
    (up0.takesWrite (.eddy 0) 0 (0x4000 + 16 * 15) .whole 1 = true ∧ up0.takesWrite (.eddy 0) 0 (0x4000 + 16 * 16) .whole 1 = true ∧
      up0.tableDomain (up0.srcDomain (.eddy 0)) = true ∧ Access.reservedFmt ⟨none, .whole, 1, false⟩ = false) ∧
    (up0.takesWrite (.eddy 0) 0 (0x4000 + 16 * 16) .whole 7 = true ∧ Access.reservedFmt ⟨none, .whole, 7, false⟩ = true ∧
      up0.takesWrite (.eddy 0) 0 (0x4000 + 16 * 16) .low 6 = true ∧ Access.reservedFmt ⟨none, .low, 6, false⟩ = false ∧
      stagedFmt.takesWrite (.eddy 0) 0 (0x4000 + 16 * 16) .high 0x400000000 = true ∧
      Access.reservedFmt ⟨none, .high, 0x400000000, false⟩ = false ∧ stagedFmt.stagedLow (.fmt 0) = some 6) ∧
    (up0.takesWrite (.eddy 0) 0 0x5008 .whole 0xF4 = true ∧ up0.takesWrite (.eddy 0) 0 0x5008 .low 6 = true ∧
      stagedCurve.takesWrite (.eddy 0) 0 0x5008 .high 0x700000000 = true ∧ up0.stagedLow (.scurve 1) = none ∧
      stagedCurve.stagedLow (.scurve 1) = some 6 ∧ stagedCurve.tableDomain (stagedCurve.srcDomain (.eddy 0)) = true) ∧
    (regAt (tcurveOff 0) = .curve (.tcls 0) ∧ booted.takesWrite (.eddy 0) 0 (tcurveOff 0) .whole 0x00000010E55F2800 = true ∧
      booted.superSrc (.eddy 0) = true ∧ booted.throttleRefused (.tcls 0) ⟨none, .whole, 0x00000010E55F2800, false⟩ = false ∧
      booted.takesWrite (.eddy 0) 0 (tcurveOff 0) .high 0x800000000 = true ∧ booted.stagedLow (.tcls 0) = none ∧
      booted.throttleRefused (.tcls 0) ⟨none, .high, 0x800000000, false⟩ = false ∧
      booted.takesWrite (.eddy 0) 0 (tcurveOff 0) .low 0xE55F2800 = true ∧
      booted.throttleRefused (.tcls 0) ⟨none, .low, 0xE55F2800, false⟩ = false ∧
      booted.takesWrite (.eddy 0) 0 (tcurveOff 0) .whole 0 = true ∧ booted.throttleRefused (.tcls 0) ⟨none, .whole, 0, false⟩ = true) ∧
    (up0.takesWrite (.eddy 0) 0 0x10000 .whole 2 = true ∧ up0.ownerSrc 0 (.eddy 0) = true ∧ patKind ((up0.ctx 0).patQuad 0 0) = 0) := by
  decide +kernel

/-- A fixed format entry takes no write; a programmable one keeps its reserved bits zero (02 R50). -/
theorem test_fmtWrite : after (.fmtWrite (.eddy 0) 16 .whole 0xFFF0001) up0 (fun t => t.tabVal (.fmt 0) == 0xF0F0001) = true := by decide +kernel
theorem test_scurveWrite : after (.scurveWrite (.eddy 0) 0 true .whole 0xFFF4) up0 (fun t => t.tabVal (.scurve 1) == 0xF4) = true := by decide +kernel
/-- An ENVELOPE above the boot value stores the boot value (13 R431). -/
theorem test_tcurveWrite : after (.tcurveWrite (.eddy 0) 0 .whole 0x00000010E55FFFFF) booted
    (fun t => t.tabVal (.tcls 0) == 0x00000010E55F2800) = true := by decide +kernel
theorem test_patQuadWrite : after (.patQuadWrite (.eddy 0) 0 0 0 .whole 2) up0 (fun t => patKind ((t.ctx 0).patQuad 0 0) == 2) = true := by
  decide +kernel

/-- The hypotheses of BoundaryRegisters, clause by clause; MODE as it stands, replay, and record. -/
theorem witness_boundaryRegisters :
    (taken up0 0x1000 = true ∧ up0.mayRemap = true) ∧ taken up0 0x1048 = true ∧
    (let s : State := { up0 with front := { up0.front with enable := true } }
     taken s 0x6010 = true ∧ s.front.calBusy = false ∧ s.front.act = none) ∧
    (taken up0 0x6100 = true ∧ up0.allDisabled = true ∧ (0 : BitVec 2) = up0.korni.mode ∧ 16 ≤ up0.korni.log2size.toNat ∧
      up0.korni.log2size.toNat ≤ 36 ∧ (2 : BitVec 2) ≠ up0.korni.mode ∧ (1 : BitVec 2) ≠ up0.korni.mode ∧ up0.glob.bu = 5 ∧ up0.sec.lc ≠ 2) ∧
    (taken up0 0x6110 = true ∧ up0.takesWrite (.eddy 0) 0 0x6118 .whole 64 = true ∧ up0.korni.dropped = 0 ∧
      up0.recordsWrite (.eddy 0) = false) := by decide +kernel

theorem test_remapWrite : after (.remapWrite (.eddy 0) true) up0 (fun t => t.felt.remap) = true := by decide +kernel
theorem test_portReturn : after (.portReturn (.eddy 0) 1 0) (up0.upPort 0 fun p => { p with fail := true }) (fun t => !(t.port 0).fail) = true := by
  decide +kernel
theorem test_korniHeadWrite : after (.korniHeadWrite (.eddy 0) 64) { up0 with korni := { up0.korni with mode := 2 } }
    (fun t => t.korni.head == 64) = true := by
  decide +kernel
theorem test_korniTailWrite : after (.korniTailWrite (.eddy 0) 64) { up0 with korni := { up0.korni with mode := 1 } }
    (fun t => t.korni.tail == 64) = true := by
  decide +kernel

/-- The hypotheses of GlobalRegisters. -/
theorem witness_globalRegisters :
    (taken (bring 2) 0x0020 = true ∧ (bring 2).allDisabled = true ∧ (bring 2).glob.bu = 2) ∧
    (taken up0 0x0020 = true ∧ up0.glob.bu ≠ 2) ∧ taken up0 0x7000 = true ∧ (taken up0 0x8A00 = true ∧ unitOf 0 67 = some (.engine 67)) := by
  decide +kernel

theorem test_go : after (.go (.eddy 0)) (bring 2) (fun t => t.glob.bu == 3 && t.pwr.qpwrEn == 1) = true := by decide +kernel
theorem test_stStart : after (.stStart (.eddy 0) 0 67) up0 (fun t => t.testing (.engine 67)) = true := by decide +kernel

/-- The hypotheses of SecurityAndDebugRegisters; SSIZE at the end of its range. -/
theorem witness_securityAndDebugRegisters :
    (taken up0 0x9000 = true ∧ up0.sec.locked = false ∧ up0.secureSize ≤ 32) ∧
    ((32 : BitVec 6).toNat ≤ 32 ∧ up0.sec.lc ≠ 3 ∧ (32 : BitVec 6) ≠ up0.sec.ssize ∧ (0 : BitVec 6) = up0.sec.ssize) ∧
    (locked.opens (.eddy 0) 0 0x9000 = true ∧ locked.sec.locked = true ∧ locked.srcDomain (.eddy 0) = locked.sec.secdom ∧ locked.allDisabled = true) ∧
    (taken up0 0x0100 = true ∧ up0.tel.freeze = false) ∧ taken up0 0x0200 = true := by decide +kernel

theorem test_lock : after (.lock (.eddy 0)) up0 (fun t => t.sec.locked) = true := by decide +kernel
theorem test_ssizeWrite : after (.ssizeWrite (.eddy 0) 32) up0 (fun t => t.sec.ssize == 32 && t.sec.wiping) = true := by decide +kernel

/-! Accesses. -/

/-- The write of register `r` is carried out. -/
def carriedOut (s : State) (r : Reg) (a : Access) : Bool := match s.writeReg r a with | .ok _ => true | _ => false
def writeRefused (s : State) (r : Reg) (a : Access) : Bool := match s.writeReg r a with | .refused => true | _ => false

/-- The hypotheses of RegisterAccess: a write that is carried out, one from a domain that may not, and reads of both kinds. -/
theorem witness_registerAccess :
    (up0.takesWrite (.eddy 0) 0 0x1008 .high 5 = true ∧ regAt 0x1008 ≠ .korniCtl ∧
      carriedOut (up0.readFor 0x1008 ⟨some (up0.srcDomain (.eddy 0)), .high, 5, false⟩) (regAt 0x1008)
        ⟨some (up0.srcDomain (.eddy 0)), .high, 5, false⟩ = true) ∧
    (up0.takesWrite (.eddy 9) 0 0x7000 .whole 1 = true ∧
      writeRefused (up0.readFor 0x7000 ⟨some (up0.srcDomain (.eddy 9)), .whole, 1, false⟩) (regAt 0x7000)
        ⟨some (up0.srcDomain (.eddy 9)), .whole, 1, false⟩ = true) ∧
    (up0.up = true ∧ up0.idWaits (.eddy 0) 0 = false ∧ 0x3008 % 8 = 0 ∧ up0.mayRead (regAt (ctlOff 0)) 9 = false ∧ ctlOff 0 % 8 = 0 ∧
      up0.mayRead (regAt 0x0028) 0 = true ∧
      regAt 0x0028 = .gstat) ∧
    (up0.mayRead (regAt 0x0110) 0 = true ∧ regAt 0x0110 = .tel 1 ∧ up0.tel.freeze = false ∧ 1 ∉ up0.timesDue) := by decide +kernel
/-- The registers without a row of their own whose effect hangs on a condition: each takes a write from READY. -/
theorem witness_ordinaryRegisters :
    up0.superSrc (.eddy 0) = true ∧ (∀ c : CtxId, up0.ownerSrc c (.eddy 0) = true) ∧
    (∀ o ∈ [0x0200, 0x1000, 0x1008, 0x6000, 0x6020, 0x6028, 0x6030, 0x6108, 0x8808, 0x8818, 0x8C00, 0x9000, 0x6408, 0x2008, 0x20C0],
      up0.takesWrite (.eddy 0) 0 o .whole 0 = true) ∧
    (regAt 0x1000 = .feltCtl ∧ (0 : Quad).bit 0 = up0.felt.remap) ∧ (regAt 0x0200 = .dbgCtl ∧ coversLow .whole = true) ∧
    (regAt 0x6000 = .frontCfg ∧ up0.quiet up0.owner = true ∧ up0.quiet (ctxOf ((0 : Quad).bits 3 1)) = true) ∧
    (regAt 0x6020 = .frontReca ∧ (0 : Quad).bits 5 0 = 0) ∧ (regAt 0x6108 = .korniBase ∧ up0.allDisabled = true) ∧
    (regAt 0x8808 = .spare .spareRet ∧ up0.glob.bu = 5) ∧ (regAt 0x8818 = .spare .host ∧ up0.tabVal .hosted = 0) ∧
    (regAt 0x8C00 = .spare (.colmap 0) ∧ up0.elementTaken 0 0 = false) ∧
    (regAt 0x9000 = .secCtl ∧ up0.sec.locked = false ∧ (0 : Quad).bits 5 0 = up0.secureSize ∧ up0.secureSize ≤ 32) ∧
    (regAt 0x6408 = .gen 0 ∧ regAt 0x2008 = .ctx 0 .pc ∧ regAt 0x20C0 = .ctx 0 (.lcnt 0) ∧ (up0.ctx 0).settled = true) := by decide +kernel

/-- A write of bits 63:32 leaves bits 31:0 (00 R10); a read returns the register (BU of CK_GSTAT is 5). -/
theorem test_registerWrite : after (.registerWrite (.eddy 0) 0x1008 .high 0x500000000 false) up0
    (fun t => t.felt.park[0] == 0x00000005FFFFFFFF) = true := by decide +kernel
theorem test_rscRead : after (.rscRead (.eddy 0) 0x0028 .low) up0
    (fun t => t.resp.any fun r => !r.err && r.beats.length == 1 && (r.beats.flatMap EddyBeat.data).take 1 == [5])
    = true := by decide +kernel

/-- Context 0 of domain 0 leases Vat region 0 and owns it. -/
def holder : State :=
  { vatWith [(0x100, count 8)] with
    ctxs := up0.ctxs.set 0 { st := .idle, en := true, vlease := 1 }, regionOwner := up0.regionOwner.set 0 (some ⟨0, false⟩) }

/-- `n` lease writes wait on the eddy port, one for each identifier from 0. -/
def leases (n : Nat) : State := { up0 with leaseWaits := (List.range n).map fun k => ⟨.eddy 0, BitVec.ofNat 4 k, 0, .tile 0, .whole, 3⟩ }
/-- The tile file of engine 20 has moved to slot 2 of the hosting reserve, regions 5 to 8; context 0 holds region 5. -/
def hosting : State :=
  { holder with
    ctxs := up0.ctxs.set 0 { st := .idle, en := true, vlease := 0x20 }, regionOwner := up0.regionOwner.set 5 (some ⟨0, false⟩)
    tab := { up0.tab with host := .all 0x501 }, st := { up0.st with hosts := [(20, 3, 2)] } }

/-- The same in replay mode. -/
def replaying0 (s : State) : State := { s with korni := { s.korni with mode := 2 } }

/-- The hypotheses of EddyCommands, at the ends of the address ranges. -/
theorem witness_eddyCommands :
    holder.up = true ∧ (12 ≤ (12 : BitVec 4).toNat ∧ 64 < 57 % 64 + (7 + 1) ∧ 2 ^ 32 ≤ 2 ^ 32) ∧
    ((11 : BitVec 4).toNat < 12 ∧ 56 % 64 + (7 + 1) ≤ 64 ∧ 0x48000000 ≤ 0x48000000 ∧ 0x7FFFFFF8 < 0x80000000) ∧
    (0x40000000 ≤ 0x40000100 ∧ 0x47FFFFF8 < 0x48000000 ∧ holder.vatFrom 9 0x100 = false ∧ holder.vatFrom 0 0x100 = true ∧
      holder.segmentBusy (vatSegment 0x100) = false ∧ holder.korni.mode = 0 ∧ eddyBeats 0x40000104 3 = 8 ∧
      holder.eddyFull = false ∧ holder.hostedAt 0x100 = none) ∧
    ((leases 12).eddyFull = true ∧ (leases 11).eddyFull = false ∧ (leases 11).idWaits (.eddy 0) 10 = true ∧
      (leases 11).idWaits (.eddy 0) 11 = false) ∧
    (hosting.up = true ∧ hosting.eddyFull = false ∧ hosting.vatFrom 0 0x580010 = true ∧ hosting.segmentBusy (vatSegment 0x580010) = false ∧
      hosting.korni.mode = 0 ∧ hosting.hostedAt 0x580010 = some (tileBase 160 + 16)) ∧ (count 64).length = 64 ∧ 0 < 64 ∧
    (0x80000000 ≤ 0x80FFFFF8 ∧ 0x80FFFFF8 < 0x81000000 ∧ (leases 12).idWaits (.eddy 0) 11 = true) ∧
    (holder.seqPlace 0x100008 = .rom 8 ∧ holder.seqPlace 0x10FFF8 = .rom 0xFFF8 ∧ holder.seqPlace 0x23FFF8 = .ram 0x3FFF8 ∧
      holder.fromSuper 9 = false ∧ holder.fromSuper 0 = true ∧ eddyBeats 0x200008 7 = 8 ∧
      (replaying0 holder).fromSuper 0 = true ∧ (replaying0 holder).korni.mode = 2) := by
  decide +kernel

/-- The same with all copies of the register of segment 0's first column different, and with one of them different. -/
def columnSplit : State := { holder with tab := { holder.tab with colmap := holder.tab.colmap.set 0 ⟨1, 2, 3⟩ } }
def columnMinority : State := { holder with tab := { holder.tab with colmap := holder.tab.colmap.set 0 ⟨1, 0, 0⟩ } }
/-- A write of four bytes at byte 4 of a beat, its first byte not enabled, with no ring and with a full one. -/
def partialBe : List Bool := [false, false, false, false, false, true, true, true]
def partialWrite : EddyCmd := ⟨true, 0x40000104, 4, 2, 0, count 8, partialBe, false, .clean⟩

/-- The hypotheses of EddyCommands in the Vat and in sequencer space: registers that agree, that have a majority and that have none; a word
with an error in the last byte of a read; a write of some bytes; and a miss in sequencer space. -/
theorem witness_eddyStores :
    (∀ r ∈ TabReg.host :: segmentRegs (vatSegment 0x100), holder.agrees r = true ∧ hosting.agrees r = true) ∧
    (∀ r ∈ TabReg.host :: segmentRegs (vatSegment 0x580010), hosting.agrees r = true) ∧
    (columnSplit.vatMapBad (vatSegment 0x100) = true ∧ columnSplit.vatFrom 0 0x100 = true ∧ columnSplit.segmentBusy (vatSegment 0x100) = false) ∧
    ((∀ r ∈ TabReg.host :: segmentRegs (vatSegment 0x100), ((r.get columnMinority.tab).vote).isSome = true) ∧
      columnMinority.agrees (.colmap 0) = false ∧ columnMinority.vatFrom 0 0x100 = true) ∧
    ((⟨false, 0x40000104, 4, 2, 0, [], [], false, .uncorrectable .vatOrLane 0 0x40000107⟩ : EddyCmd).hits .vatOrLane 0x40000107 = true ∧
      (⟨false, 0x40000104, 4, 2, 0, [], [], false, .uncorrectable .vatOrLane 0 0x40000108⟩ : EddyCmd).hits .vatOrLane 0x40000108 = false) ∧
    (partialWrite.pieces = [(0x40000105, [6, 7, 8])] ∧ (holder.recordAll partialWrite.pieces).isSome = true ∧
      (ringFull holder).recordAll partialWrite.pieces = none ∧ (hosting.recordAll partialWrite.pieces).isSome = true ∧
      (ringFull holder).korni.mode ≠ 2) ∧
    holder.seqPlace 0x110000 = .miss := by decide +kernel

/-- The hypotheses of EddyCommands in the control window: a read of half a register, one that is not allowed, and one of two bytes; a write of
half a register, one refused to its domain, and one of three bytes and of none. -/
theorem witness_eddyWindow :
    (holder.up = true ∧ holder.idWaits (.eddy 0) 2 = false ∧ holder.idWaits (.eddy 9) 2 = false ∧ windowAddr 0x1008 .high = 0x8000100C ∧
      partSize .high = 4 ∧ holder.mayRead (regAt 0x1008) 0 = true ∧ holder.mayRead (regAt (ctlOff 0)) 9 = false) ∧
    ((⟨true, 0x8000100C, 4, 2, 0, count 8, List.replicate 8 true, false, .clean⟩ : EddyCmd).pieces = [(0x8000100C, [5, 6, 7, 8])] ∧
      holder.takesWrite (.eddy 0) 2 0x1008 .high (partValue .high [5, 6, 7, 8]) = true ∧
      (match (holder.readFor 0x1008 ⟨some 0, .high, partValue .high [5, 6, 7, 8], false⟩).writeReg (regAt 0x1008)
        ⟨some 0, .high, partValue .high [5, 6, 7, 8], false⟩ with | .ok _ => true | _ => false) = true) ∧
    (holder.takesWrite (.eddy 9) 2 0x7000 .whole 1 = true ∧
      (match (holder.readFor 0x7000 ⟨some 9, .whole, 1, false⟩).writeReg (regAt 0x7000) ⟨some 9, .whole, 1, false⟩ with
        | .refused => true | _ => false) = true ∧
      (⟨true, 0x80007000, 8, 2, 9, [1, 0, 0, 0, 0, 0, 0, 0], List.replicate 8 true, false, .clean⟩ : EddyCmd).pieces =
        [(0x80007000, [1, 0, 0, 0, 0, 0, 0, 0])] ∧ partValue .whole [1, 0, 0, 0, 0, 0, 0, 0] = 1) ∧
    (⟨true, 0x8000100C, 4, 2, 0, count 8, partialBe, false, .clean⟩ : EddyCmd).pieces = [(0x8000100D, [6, 7, 8])] ∧
    (⟨true, 0x8000100C, 4, 2, 0, count 8, List.replicate 8 false, false, .clean⟩ : EddyCmd).pieces = [] := by decide +kernel
/-- An access whose segment's registers have no majority fails, and a word that cannot be corrected gives a read no data (12 R391, R406). -/
theorem test_eddyFails :
    after (.eddyCommand false 0x40000104 3 2 0 [] [] ⟨false, .clean⟩) columnSplit (fun t => t.resp.all EddyResp.err && t.resp.length == 1) = true ∧
    after (.eddyCommand false 0x40000104 3 2 0 [] [] ⟨false, .uncorrectable .vatOrLane 0 0x40000107⟩) holder
      (fun t => t.resp.all EddyResp.err && t.resp.length == 1 && t.err.uncorr == 1) = true := by decide +kernel
/-- A write of half a register and one of three bytes of it through the eddy port (00 R10). -/
theorem test_eddyWindow :
    after (.eddyCommand true 0x8000100C 3 2 0 (count 8) (List.replicate 8 true) ⟨false, .clean⟩) holder
      (fun t => t.felt.park[0] == 0x08070605FFFFFFFF && t.resp == [⟨2, false, ackBeat⟩]) = true ∧
    after (.eddyCommand true 0x8000100C 3 2 0 (count 8) partialBe ⟨false, .clean⟩) holder (fun t => t.resp.all EddyResp.err) = true := by
  decide +kernel

/-- A write of four bytes at byte 4 of a beat, and a read (11 R381). -/
theorem test_eddyWrite : after (.eddyCommand true 0x40000104 3 2 0 (count 8) (List.replicate 8 true) ⟨false, .clean⟩) holder
    (fun t => bytesAt t.vat 0x100 9 == [1, 2, 3, 4, 5, 6, 7, 8, 0] && t.resp == [⟨2, false, ackBeat⟩]) = true := by decide +kernel
theorem test_eddyRead : after (.eddyCommand false 0x40000104 3 2 0 [] [] ⟨false, .clean⟩) holder (fun t => t.resp.any fun r => r.id == 2 &&
    !r.err && r.beats.all EddyBeat.last && r.beats.map (fun b => b.data.drop 4) == [[5, 6, 7, 8]]) = true := by
  decide +kernel
/-- Working RAM takes a write from the supervisor's domain alone. -/
theorem test_eddyRam :
    after (.eddyCommand true 0x200008 7 2 0 (count 8) (List.replicate 8 true) ⟨false, .clean⟩) holder (fun t => bytesAt t.ram 8 2 == [1, 2]) = true ∧
    after (.eddyCommand true 0x200008 7 2 9 (count 8) (List.replicate 8 true) ⟨false, .clean⟩) holder
      (fun t => bytesAt t.ram 8 2 == [0, 0] && t.resp.all EddyResp.err) = true := by decide +kernel

/-- Replay with 160 bytes of trace, and records that lie whole below HEAD. -/
def replaying (x : Ctx) : State := { ctl x with korni := { up0.korni with mode := 2, head := 160 } }
def recOf (typ : BitVec 8) (len : BitVec 16) (arg : BitVec 32) (payload : List Quad) : KorniRec := ⟨typ, 0, len, arg, 0, payload⟩
def recIssue : KorniRec := recOf 2 3 0x00010001 [word [(0x105, 0), (5, 20)], 0, 0, 0]
def recWrite : KorniRec := recOf 3 2 4 [0x40000100, 0x04030201]

/-- WRITE records of working RAM, of the boot ROM, and of CK_PWR_CTL: whole, and of bits 63:32. -/
def ramWrite : KorniRec := recOf 3 2 4 [0x200008, 0x04030201]
def romWrite : KorniRec := recOf 3 2 4 [0x100008, 0x04030201]
def regWrite : KorniRec := recOf 3 2 8 [0x80007000, 1]
def highWrite : KorniRec := recOf 3 2 4 [0x80001004, 5]
/-- The same of lease register 0 of context 0, where tile 1 has another owner. -/
def leaseRec : KorniRec := recOf 3 2 8 [0x80002100, 3]
def owningReplay : State := { owned with korni := { (replaying {}).korni with mode := 2 } }
/-- In the state `s` the write of a record of the control window is carried out. -/
def recWrites (s : State) (r : KorniRec) (off : Nat) (p : Part) : Bool :=
  r.typ == 3 && s.korni.words.isEmpty && recQuad r 0 == windowAddr off p && decide (((recBytes r 1).take (recCount r)).length = partSize p) &&
    !s.phaseBars (regAt off)
/-- How it ends. -/
def recWriteEnds (s : State) (r : KorniRec) (off : Nat) (p : Part) : Wrote :=
  let w : Access := ⟨none, p, partValue p ((recBytes r 1).take (recCount r)), true⟩
  (s.readFor off w).writeReg (regAt off) w

/-- A front has still to take its replayed word. -/
def owing : State := { replaying {} with korni := { (replaying {}).korni with words := [3] } }

/-- The secure region is region 0, and tamper holds it closed. -/
def closedReplay : State := { replaying {} with sec := { up0.sec with ssize := 1, closed := true }, sb := { up0.sb with tamper := true } }

/-- The hypotheses of ReplayConsumes, by record type. -/
theorem witness_replayConsumes :
    ((replaying {}).up = true ∧ (replaying {}).mayConsume (recOf 5 10 3 []) = true ∧ (replaying {}).mayConsume (recOf 7 2 1 [0, 0]) = true) ∧
    ((replaying { runCtx [] with st := .idle }).mayConsume recIssue = true ∧ recIssue.typ = 2 ∧
      (replaying { runCtx [] with st := .idle }).replayAccepts recIssue.ctx (recTag recIssue) (recInsn recIssue) = true ∧
      (replaying { runCtx [] with st := .idle }).roomFor recIssue.ctx (recInsn recIssue) = true ∧
      (replaying { runCtx [] with st := .idle }).debugHeld recIssue.ctx = false ∧
      (replaying { runCtx [] with st := .idle }).korni.words = []) ∧
    (owing.mayConsume recWrite = true ∧ recWrite.typ = 3 ∧ owing.korni.words ≠ []) ∧ (replaying {}).mayConsume (recOf 4 2 4 [0, 0]) = true ∧
    ((replaying {}).mayConsume recWrite = true ∧ recQuad recWrite 0 = 0x40000000 + 0x100 ∧
      (replaying {}).segmentBusy (vatSegment 0x100) = false ∧ (replaying {}).hostedAt 0x100 = none ∧
      (∀ q ∈ TabReg.host :: segmentRegs (vatSegment 0x100), (replaying {}).agrees q = true) ∧ (replaying {}).vatShut 0x100 = false) ∧
    (closedReplay.mayConsume recWrite = true ∧ closedReplay.segmentBusy (vatSegment 0x100) = false ∧ closedReplay.sec.closed = true ∧
      0x100 / 0x100000 < closedReplay.secureSize ∧ closedReplay.vatShut 0x100 = true) ∧
    (replaying {}).mayConsume (recOf 6 2 0 [0, 0]) = true ∧
    ((replaying {}).mayConsume ramWrite = true ∧ recQuad ramWrite 0 < 0x40000000 ∧ (replaying {}).seqPlace (recQuad ramWrite 0) = .ram 8) ∧
    ((replaying {}).mayConsume romWrite = true ∧ recQuad romWrite 0 < 0x40000000 ∧
      (replaying {}).seqPlace (recQuad romWrite 0) = .rom 8) ∧
    ((replaying {}).mayConsume regWrite = true ∧ recWrites (replaying {}) regWrite 0x7000 .whole = true ∧
      (match recWriteEnds (replaying {}) regWrite 0x7000 .whole with | .ok _ => true | _ => false) = true) ∧
    ((replaying {}).mayConsume highWrite = true ∧ recWrites (replaying {}) highWrite 0x1000 .high = true) ∧
    (owningReplay.mayConsume leaseRec = true ∧ recWrites owningReplay leaseRec 0x2100 .whole = true ∧
      (match recWriteEnds owningReplay leaseRec 0x2100 .whole with | .held _ _ _ _ => true | _ => false) = true) := by decide +kernel
/-- A hosted tile takes a replayed write of its bytes. -/
theorem witness_replayHosted :
    let s : State := { hosting with korni := (replaying {}).korni }
    s.mayConsume (recOf 3 2 4 [0x40580010, 7]) = true ∧ s.segmentBusy (vatSegment 0x580010) = false ∧ 0x580010 < 0x8000000 ∧
      s.hostedAt 0x580010 = some (tileBase 160 + 16) ∧ s.vatShut 0x580010 = false ∧
      ∀ q ∈ TabReg.host :: segmentRegs (vatSegment 0x580010), s.agrees q = true := by decide +kernel
/-- A trail record that no digest has met stays; one whose digest differs diverges. -/
def trailing (d : Quad) : Korni := { (replaying {}).korni with trails := [(0, 1, 5)], trailsGot := [(0, 2, 5), (0, 1, d)] }
theorem witness_trailsCompared :
    (trailing 6).diverged = false ∧ (trailing 6).compareTrail.diverged = true ∧ (trailing 5).compareTrail.diverged = false ∧
      ((0, 1, 5) : Nat × Seq × Quad) ∈ { trailing 5 with trailsGot := [] }.trails := by decide +kernel
theorem test_korniReplayRecord : after (.korniReplayRecord recWrite) (replaying {})
    (fun t => bytesAt t.vat 0x100 5 == [1, 2, 3, 4, 0] && t.korni.tail == 32) = true := by decide +kernel
/-- A replayed write of the secure region has no effect while tamper holds (14 R453). -/
theorem test_closedReplay : after (.korniReplayRecord recWrite) closedReplay
    (fun t => bytesAt t.vat 0x100 4 == [0, 0, 0, 0] && t.korni.tail == 32) = true := by decide +kernel

/-! The boundary. -/

/-- A write, a read and a translation that wait for their answers. -/
def waits : State :=
  { up0 with
    unacked := [⟨0, 1, .port 0 64, some 0⟩, ⟨0, 1, .vat, none⟩], reads := [{ port := 3, tag := 0, line := 7, wants := [(0, 1)] }],
    xlats := [⟨2, 0, 0, 0, 1, 0x100000, false, none⟩, ⟨2, 1, 0, 0, korniAccess, 0x100000, true, none⟩]
    korni := { up0.korni with out := [(0x100000000, count 64)] } }
/-- Context 7 has an event. -/
def eventful : State := up0.setCtx 7 { events := [.fence 9] }

/-- Context 7's event stands on the channel. -/
def held : State := { up0 with evtHeld := some (7, (7, 0, 9)) }

/-- The hypotheses of BoundaryResponses. -/
theorem witness_boundaryResponses :
    (waits.up = true ∧ waits.outWrites.find? (fun u => u.byTarget 0 1) = some ⟨0, 1, .vat, none⟩) ∧
    (waits.reads.find? (fun r => r.port == 3 && r.tag == 0) = some { port := 3, tag := 0, line := 7, wants := [(0, 1)] } ∧ (1 : BitVec 2).toNat < 2 ∧
      2 ≤ (2 : BitVec 2).toNat ∧ (List.replicate 512 (0 : Byte)).length = 512 ∧
      waits.reads.find? (fun r => r.port == 4 && r.tag == 0) = none) ∧
    (∃ x ∈ waits.xlats, x.ctx = 0 ∧ x.who = 1) ∧ (∃ x ∈ waits.xlats, x.port = 2 ∧ x.ttag = 0 ∧ x.ans = none) ∧
    (waits.korni.out = (0x100000000, count 64) :: [] ∧ inChip ((0x100000000 : Nat) : Int) = true ∧
      waits.xlats.find? (fun x => x.who == korniAccess) = some ⟨2, 1, 0, 0, korniAccess, 0x100000, true, none⟩) ∧
    (up0.korni.out = []) ∧ (held.up = true ∧ held.evtHeld = some (7, (7, 0, 9))) ∧
    (eventful.evtHeld = none ∧ 7 < 9 ∧ (eventful.eventOf ((eventful.evtPtr.val + 7) % 9)).isSome = true ∧
      ∀ j, j < 7 → eventful.eventOf ((eventful.evtPtr.val + j) % 9) = none) := by decide +kernel
/-- A port whose 256 TAGs are taken, one by a write and the others by reads; a second write waits in front of it. -/
def crowded : State :=
  { up0 with
    reads := (List.range 255).map fun k => { port := 3, tag := BitVec.ofNat 8 (k + 1), line := k, wants := [] }
    unacked := [⟨0, 1, .memory ⟨3, some 0, 9, []⟩, some 1⟩, ⟨0, 2, .memory ⟨3, none, 10, []⟩, some 1⟩], korni := { up0.korni with sent := [⟨5, some 0, 11, []⟩] } }
/-- The hypotheses of BoundaryResponses on the requests of a memory port: one that holds a TAG, none free, and one that is. -/
theorem witness_portRequests :
    crowded.outWrites.find? (fun u => u.byTarget 0 1) = some ⟨0, 1, .memory ⟨3, some 0, 9, []⟩, some 1⟩ ∧
    crowded.korni.sent = ⟨5, some 0, 11, []⟩ :: [] ∧ crowded.freeTag 3 = none ∧
    (∀ u ∈ crowded.marked, u.1 = true → ∀ w ∈ u.2.tgt.request, w.port = 5 → w.tag ≠ none) ∧
    (let s : State := { crowded with unacked := [⟨0, 2, .memory ⟨3, none, 10, []⟩, some 1⟩] }
     s.freeTag 3 = some 0 ∧ s.marked = [] ++ (true, ⟨0, 2, .memory ⟨3, none, 10, []⟩, some 1⟩) :: []) := by decide +kernel
/-- Engine 0 has `n` writes of the Vat unacknowledged, and behind them the bytes that port 0 has to send. -/
def manyWrites (n : Nat) : State :=
  (up0.upPort 0 fun p => { p with outq := count 4 }).setCtx 0 (runCtx [ent tst2]) |>
    fun s => { s with unacked := List.replicate n ⟨0, 1, .vat, some 0⟩ ++ [⟨0, 2, .port 0 4, some 0⟩] }
/-- The hypotheses of BoundaryResponses on identifiers: an access of engine 0 while its six are taken, and one write fewer. -/
theorem witness_identifiers : (manyWrites 6).masterOf 0 1 = some 0 ∧
    identifiers 0 ≤ ((manyWrites 6).unacked.filter fun u => u.master == some 0).length + (manyWrites 6).readsBy 0 ∧
    ((manyWrites 5).unacked.filter fun u => u.master == some 0).length + (manyWrites 5).readsBy 0 ≤ identifiers 0 := by decide +kernel
/-- Six writes of an engine are outstanding at most, and the next waits until one is acknowledged (11 R357). -/
theorem test_identifiers : (manyWrites 6).outWrites.length = 6 ∧ (manyWrites 6).atPort 0 = 0 ∧
    after (.writeAck 0 (.insn 1)) (manyWrites 6) (fun t => t.outWrites.length == 6 && t.atPort 0 == 4) = true := by decide +kernel
/-- A piece of the ring goes out as a write request on the port of its line, whichever that is; while no slice serves it waits. -/
theorem witness_ownWrite : (∃ m, up0.ownWrite 0x5000 (count 64) = some m) ∧
    ({ up0 with st := { up0.st with running := (List.finRange 16).map TestUnit.cacheSlice } } : State).ownWrite 0x5000 (count 64) = none :=
  ⟨⟨_, rfl⟩, by
    have h : ({ up0 with st := { up0.st with running := (List.finRange 16).map TestUnit.cacheSlice } } : State).sliceBusy (0x5000 / 256) = true := by
      simp only [State.sliceBusy, List.any_map, List.any_eq_true]
      exact ⟨_, List.mem_finRange _, beq_self_eq_true (Config.stackOf (0x5000 / 256))⟩
    unfold State.ownWrite
    rw [h, Bool.true_or, if_pos rfl]⟩
theorem test_writeAck : after (.writeAck 0 (.insn 1)) waits (fun t => decide (t.unacked = [⟨0, 1, .port 0 64, some 0⟩])) = true ∧
    after (.writeAck 0 (.insn 1)) crowded (fun t => decide (t.unacked = [⟨0, 2, .memory ⟨3, some 0, 10, []⟩, some 1⟩])) = true := by decide +kernel
/-- An acknowledgement of the ring's ends the oldest of its writes. -/
theorem test_ringAck : after (.writeAck 0 .ring) crowded (fun t => t.korni.sent.isEmpty && t.unacked.length == 2) = true := by decide +kernel
theorem test_memoryReadResponse : after (.memoryReadResponse 3 0 (count 512) 0) waits
    (fun t => t.lines == [7] && bytesAt t.cache 0x700 2 == [1, 2] && t.reads.isEmpty) = true := by decide +kernel
theorem test_translationResponse : after (.translationResponse 2 0 5 false true) waits
    (fun t => t.xlats.any fun x => x.who == 1 && x.ans == some ⟨5, false, true⟩) = true := by decide +kernel
theorem test_eventTransfer : after .eventTransfer eventful (fun t => (t.ctx 7).events.isEmpty && t.evtPtr == 8) = true ∧
    after .eventTransfer held (fun t => t.evtHeld.isNone && t.evtOut == some (7, 0, 9) && t.evtPtr == 8) = true := by decide +kernel

/-- A port with bytes to send, a beat sent, `k` beats refused each way. -/
def beats (k : Nat) (resend : Bool) : State :=
  up0.upPort 0 fun p => { p with outq := count 4, last := [9, 9], resend := resend, inRef := k, outRef := k }

/-- The same port with VALID raised for a beat of `k` bytes. -/
def raised (k : Nat) : State := (beats 0 false).upPort 0 fun p => { p with shown := some k }
/-- Two responses of the eddy port, the first a read of two beats. -/
def responding : State :=
  { up0 with resp := [⟨1, false, [⟨count 8, false⟩, ⟨List.replicate 8 0, true⟩]⟩, ⟨2, true, [⟨List.replicate 8 0, true⟩]⟩] }

/-- The hypotheses of PortBeats, at the second and the third refusal; a beat raised and one that is not; the responses of the eddy port. -/
theorem witness_portBeats :
    ((beats 1 false).up = true ∧ ((beats 1 false).port 0).fail = false ∧ count 2 ≠ [] ∧ (count 1024).length ≤ beatMax 0 ∧
      ((beats 1 false).port 0).inRef < 2 ∧ 2 ≤ ((beats 2 false).port 0).inRef ∧ ((beats 1 false).port 0).resend = false ∧
      ((beats 1 false).port 0).outq.take (count 2).length = count 2 ∧ count 2 = Beat.bytes ⟨2, count 4⟩ ∧
      (beats 1 false).port 0 = { (beats 1 false).port 0 with shown := none } ∧ (raised 3).port 0 = { (raised 3).port 0 with shown := some 3 } ∧
      (count 2).length ≠ 3 ∧ (count 3).length = 3 ∧ [true, true, false].take 2 = parBits (count 2) ∧ [true, false].take 2 ≠ parBits (count 2)) ∧
    (((beats 1 true).port 0).resend = true ∧ [9, 9] = ((beats 1 true).port 0).last ∧ [false, false].take 2 = parBits [9, 9]) ∧
    (((beats 1 false).port 0).last ≠ [] ∧ ((beats 1 false).port 0).outRef < 2 ∧ 2 ≤ ((beats 2 false).port 0).outRef ∧
      0 < (beats 2 false).atPort 0 ∧ ((raised 3).port 0).shown ≠ none ∧ 0 < min (beatMax 0) 4 ∧ ((beats 2 false).port 0).fail = false ∧
      ((beats 2 false).port 0).resend = false ∧ ((beats 2 false).port 0).outq ≠ []) ∧
    ((count 2).length ≤ (beats 1 false).atPort 0 ∧ ((manyWrites 6).port 0).shown = none ∧ ((manyWrites 6).port 0).resend = false ∧
      (manyWrites 6).atPort 0 < (count 2).length ∧ ∀ u ∈ (manyWrites 5).marked, u.1 = true) ∧
    (responding.up = true ∧
      responding.resp = ⟨1, false, ⟨count 8, false⟩ :: [⟨List.replicate 8 0, true⟩]⟩ :: [⟨2, true, [⟨List.replicate 8 0, true⟩]⟩] ∧
      (⟨8, count 8⟩ : Beat).bytes = count 8 ∧ (⟨8, List.replicate 8 0⟩ : Beat).bytes ≠ count 8) := by decide +kernel
/-- Bytes enter in order; the third refusal in succession fails the port; a stall is noted (11 R371, R372, R376). -/
theorem test_beatTransfer :
    after (.beatTransfer (.port 0) true ⟨3, count 4⟩ [true, true, false, true]) up0 (fun t => (t.port 0).inq == count 3) = true ∧
    after (.beatTransfer (.port 0) true ⟨3, count 4⟩ [true, false, false, true]) (beats 2 false) (fun t => (t.port 0).fail) = true := by
  decide +kernel
/-- A beat that the port has raised transfers whole, and no other does; a response's last beat ends it (11 R369). -/
theorem test_beatOut :
    after (.beatTransfer (.port 0) false ⟨2, count 2⟩ [true, true]) (raised 3) (fun t => (t.port 0).outq == count 4) = true ∧
    after (.beatTransfer (.port 0) false ⟨3, count 3⟩ [true, true, false]) (raised 3)
      (fun t => (t.port 0).outq == [4] && (t.port 0).shown.isNone) = true ∧
    after (.beatTransfer .eddy false ⟨8, count 8⟩ []) responding (fun t => t.resp.map (fun r => r.beats.length) == [1, 1]) = true := by
  decide +kernel
theorem test_portNak : after (.portNak 0) (beats 1 false) (fun t => (t.port 0).resend && !(t.port 0).fail) = true := by decide +kernel
theorem test_portStall : after (.portStall 0) (beats 0 false) (fun t => (t.port 0).stall) = true := by decide +kernel

/-! Sideband, security, power. -/

/-- The hypotheses of SidebandInputs; the sixteenth and the seventeenth glitch. -/
def noisyThrottle : State := { up0 with sb := { up0.sb with thnoisy := true, win := up0.sb.win.set 4 16 } }
/-- Every input at its sixteenth glitch, COOL_CLASS and LC_STATE noisy already, all quadrants powered. -/
def noisyInputs : State :=
  { up0 with
    sb := { up0.sb with win := Vector.replicate 9 16, ccnoisy := true, lcnoisy := true }, pwr := { up0.pwr with qpwrEn := 15, qpwrOk := 15 } }
/-- READY with every copy of the throttle tables different. -/
def splitTable : State := { booted with tab := { booted.tab with tcls := Vector.replicate 3 ⟨1, 2, 3⟩, tcrit := ⟨1, 2, 3⟩ } }
theorem witness_sidebandInputs :
    (up0.up = true ∧ up0.sb.win[4]? = some 0 ∧ noisyThrottle.sb.win[4]? = some 16 ∧ noisyThrottle.sb.thnoisy = true ∧ up0.sb.thnoisy = false) ∧
    (up0.sb.ccnoisy = false ∧ (1 : BitVec 2) ≠ up0.pwr.ccount) ∧
    (∀ i : Fin 9, noisyInputs.sb.win[i.val]? = some 16) ∧ noisyInputs.tamperOn = false ∧
    ({ noisyInputs with sb := { noisyInputs.sb with tamper := true } } : State).tamperOn = true ∧ noisyInputs.sb.ccnoisy = true ∧
    noisyInputs.sb.lcnoisy = true ∧ (noisyInputs.pwr.qpwrEn.getLsbD 3 = true ∧ noisyInputs.qpwrGood 3 = true) ∧
    noisyInputs.split engineRegs = false ∧ (splitEngines noisyInputs).split engineRegs = true ∧
    up0.pwr.qpwrEn.getLsbD 3 = false ∧
    ((splitTable.tab.tcls[(Fin.ofNat 3 (coolOf 1).toNat : Fin 3)]).vote = none ∧
      (booted.tab.tcls[(Fin.ofNat 3 (coolOf 1).toNat : Fin 3)]).vote ≠ none ∧
      (booted.tab.tcls[(Fin.ofNat 3 booted.pwr.cls.toNat : Fin 3)]).vote ≠ none) := by decide +kernel
/-- The seventeenth glitch of TAMPER starts a wipe (14 R451). -/
theorem test_sidebandGlitch : after (.sidebandGlitch .tamper) noisyInputs (fun t => t.sb.tnoisy && t.sec.wiping && t.sec.closed) = true := by
  decide +kernel
/-- THROTTLE 15 holds LVL at 31 (13 R422). -/
theorem test_throttleChange : after (.throttleChange 15) { up0 with pwr := { up0.pwr with lvl := 3 } }
    (fun t => t.pwr.lvl == 31 && t.pwr.emerg) = true := by
  decide +kernel
theorem test_coolClassChange : after (.coolClassChange 1) booted (fun t => t.pwr.ccpend && t.pwr.cls == 0) = true := by decide +kernel

/-- A wipe in progress; a secure context; tile 3 of a secure owner. -/
def wiping : State :=
  { (tileWith (ctl { secure := true, finfo := 7 }) 3 (dk 8 8 3) (count 64)) with
    sec := { up0.sec with wiping := true, closed := true, ssize := 1 }, vat := putBytes [] 0x10 (count 4)
    tileOwner := up0.tileOwner.set 3 (some ⟨5, true⟩) }

/-- A TMOV at work in a secure context. -/
def secureMoving : State := (sMoving id).upCtx 0 fun x => { x with secure := true }

/-- The hypotheses of TamperAndWipe; a wipe of the longest time R452 gives. -/
theorem witness_tamperAndWipe :
    (up0.up = true ∧ up0.sb.tamper = false ∧ up0.sec.wiping = false) ∧
    (secureMoving.up = true ∧ secureMoving.sb.tamper = false ∧ secureMoving.sec.wiping = false ∧ (secureMoving.ctx 0).secure = true ∧
      (secureMoving.ctx 0).entry 1 = some moving ∧ moving.phase.ended = false ∧ secureMoving.frontCounted 0 1 = false ∧
      (secureMoving.ctx 0).st = .run ∧ moving.insn.op ≠ some .sperm) ∧
    (({ up0 with sb := { up0.sb with tamper := true } } : State).sb.tamper = true) ∧
    (wiping.up = true ∧ wiping.sec.wiping = true ∧ 8000 ≤ 8000 ∧ wiping.ownerOf (.tile 0) 3 = some ⟨5, true⟩) ∧
    (up0.sb.lcnoisy = false ∧ up0.sb.lcIn ≠ 1) := by decide +kernel
theorem test_tamperAssert : after (.tamperAssert false) up0 (fun t => t.sec.wiping && t.sec.closed) = true := by decide +kernel
/-- The instructions of a secure context stop with SECURE_VIOLATION (14 R451, R452). -/
theorem test_tamperStops : after (.tamperAssert false) secureMoving (fun t => decide ((t.ctx 0).st = .draining) &&
    ((t.ctx 0).entry 1).any fun e => e.fault == some (0, ⟨0x09, 0x40000000⟩)) = true := by decide +kernel

/-- All quadrants powered. -/
def powered (s : State) : State := { s with pwr := { s.pwr with qpwrEn := 15, qpwrOk := 15 } }

/-- The hypotheses of PowerLoop: a step an island is changing to, a temperature at TCRIT. -/
def stepping (off : Bool) : State := booted.upIsland 0 fun x => { x with target := some 4, stopped := off }
theorem witness_powerLoop :
    ((stepping false).up = true ∧ ((stepping false).island 0).target = some 4 ∧ (stepping false).clockStopped 0 = false ∧
      (stepping true).clockStopped 0 = true ∧ (stepping true).spareIdle 0 = false ∧ (stepping true).spareIdle 64 = true) ∧
    (booted.clockStopped 0 = false ∧ (booted.island 0).target = none) ∧
    (({ booted with pwr := { booted.pwr with qpwrEn := 15, qpwrOk := 15 } } : State).islandPowered 0 = true ∧
      [(0x73 : BitVec 8)][0]? = some 0x73 ∧
      degrees (BitVec.ofNat 8 ((booted.tabVal .tcrit).bits 7 0)) ≤ degrees 0x73 ∧ booted.tab.tcrit.vote ≠ none) ∧
    (splitTable.throttleBad = true ∧ (powered splitTable).islandPowered 0 = true ∧ booted.throttleBad = false ∧
      splitTable.tab.tcrit.vote = none ∧ (powered splitTable).sec.wiping = false) := by decide +kernel
/-- Where the copies of TCRIT all differ the power manager halts (12 R406); otherwise a temperature at TCRIT makes its island critical. -/
theorem test_splitTcrit : after (.temperatureSample (List.replicate 121 0x73)) (powered splitTable) (fun t => t.pwr.tchalt) = true ∧
    after (.temperatureSample (List.replicate 121 0x73)) (powered booted) (fun t => (t.island 0).crit) = true := by decide +kernel
/-- No managed island goes faster than MINSTEP when its step is given anew, as at WIPE_END and at CLEAR_DONE (13 R433). -/
def slow : State := { up0 with pwr := { up0.pwr with qpwrEn := 15, qpwrOk := 15, en := true, minstep := 25 } }
theorem test_minstep : (slow.restSteps.island 0).goal = 25 := by decide +kernel
theorem test_islandClockChange : after (.islandClockChange 0) (stepping false) (fun t => (t.island 0).step == 4) = true := by decide +kernel
theorem test_islandClockStart : after (.islandClockStart 0) (stepping true) (fun t => !(t.island 0).stopped) = true := by decide +kernel

/-- A TREL of a tile of quadrant 0 at work. -/
def sReleasing : State := at0 up0 (ent trel5).begun
/-- The TMOV's engine is hosted on engine 17, of quadrant 1. -/
def hostedMove : State := { powered (sMoving id) with st := { up0.st with hosts := [(0, 17, 0)] } }
/-- The hypotheses of QuadrantLoss. -/
theorem witness_quadrantLoss :
    ((powered (sMoving id)).up = true ∧ (powered (sMoving id)).pwr.qpwrEn.getLsbD 0 = true ∧
      (powered (sMoving id)).qpwrGood 0 = true ∧ ((powered (sMoving id)).ctx 0).entry 1 = some moving ∧ moving.phase = .active ∧
      ((powered (sMoving id)).tileIn moving.insn 0).isSome = true ∧ moving.insn.isTrel = false ∧ (powered (sMoving id)).st.hosts = []) ∧
    ((powered sReleasing).up = true ∧ ((powered sReleasing).ctx 0).entry 1 = some (ent trel5).begun ∧ (ent trel5).begun.phase = .active ∧
      trel5.isTrel = true) ∧
    (hostedMove.ctx 0).entry 1 = some moving ∧ (hostedMove.tileIn moving.insn 1).isSome = true ∧ hostedMove.qpwrGood 1 = true ∧
    up0.pwr.qpwrEn.getLsbD 3 = false ∧
    (let s : State := { powered up0 with sb := { up0.sb with qpnoisy := 8 } }
     s.pwr.qpwrEn.getLsbD 3 = true ∧ s.qpwrGood 3 = false) ∧
    ((powered up0).split engineRegs = false ∧ (splitEngines (powered up0)).split engineRegs = true) ∧
    (let s : State := { up0 with st := { up0.st with lossDue := [2] } }
     s.split engineRegs = false ∧ s.st.lossDue = [2] ∧
       ∀ r ∈ [TabReg.spareEng, .spareRet, .host], (match s.writeSpare r ⟨none, .whole, 0, true⟩ with | .ok _ => true | _ => false) = true) := by
  decide +kernel
/-- Where the copies of CK_SPARE_ENG all differ, the loss waits (12 R406), and a write that ends that lets it happen (12 R407). -/
theorem test_quadrantLossDue : after (.quadrantLost 2) (splitEngines (powered up0)) (fun t => t.st.lossDue == [2] && (t.tile 256).lost) = true ∧
    (let s : State := { up0 with st := { up0.st with lossDue := [2] } }
     s.repairDue.qlost 2 = true ∧ s.repairDue.outE 32 = true) := by decide +kernel
/-- The tiles of a lost quadrant take LOST, and what works on them faults with TILE_LOST (12 R404). -/
theorem test_quadrantLost : after (.quadrantLost 0) (powered (sMoving id)) (fun t => (t.tile 127).lost && !(t.tile 128).lost &&
    ((t.ctx 0).entry 1).any fun e => e.fault.any fun f => f.2.code == 0x0B) = true := by decide +kernel

/-! Tables, repair, trace. -/

/-- A unit under test. -/
def testingUnit (u : TestUnit) : State := { up0 with st := { up0.st with running := [u] } }
/-- Plane 0 in its self-test. -/
def planeTest : State := { (testingUnit (.plane 0)).setPlane 0 2 with err := { up0.err with thrashN := 0 } }
def copying : State := { up0 with st := { up0.st with copies := [(63, false)] } }

/-- The hypotheses of TestsAndSpares, clause by clause. -/
theorem witness_testsAndSpares :
    (up0.up = true ∧ up0.err.scrubEn = true) ∧
    (planeTest.testing (.plane 0) = true ∧ planeTest.planeState 0 = 2 ∧ (0 : Fin 5) ∉ planeTest.st.wasSpare ∧ planeTest.err.thrashN = 0 ∧
      planeTest.split [.sparePlane] = false) ∧
    ((splitEngines (testingUnit (.engine 63))).testing (.engine 63) = true ∧
      (splitEngines (testingUnit (.engine 63))).split (testRegs (.engine 63)) = true ∧ (splitEngines copying).split engineRegs = true ∧
      (splitEngines copying).st.copies.find? (fun k => k.1 == 63) = some (63, false) ∧ copying.split engineRegs = false ∧
      (testingUnit (.engine 63)).split engineRegs = false ∧ (testingUnit (.macroOf 15 0)).split (testRegs (.macroOf 15 0)) = false) ∧
    ((testingUnit (.engine 63)).testing (.engine 63) = true ∧ (testingUnit (.engine 63)).logicalOf 63 = some 63 ∧
      (testingUnit (.engine 63)).spareFree 3 = true) ∧
    (copying.st.copies.find? (fun k => k.1 == 63) = some (63, false) ∧ copying.physical 63 < 64 ∧ copying.qlost (63 / 16) = false) ∧
    (Where.vatOrLane ≠ .memory ∧ up0.testUnitOf .vatOrLane 3 0x100 = some (.macroOf 3 0)) ∧
    ((testingUnit (.macroOf 15 0)).testing (.macroOf 15 0) = true ∧ ((testingUnit (.macroOf 15 0)).freeElement 15 false).isSome = true ∧
      ((testingUnit (.macroOf 15 0)).freeEntry 15).isSome = true) := by decide +kernel
theorem test_scrubRow : after (.scrubRow [.corrected .tileFile 3 0]) up0 (fun t => t.err.corr == 1 && t.testing (.engine 3)) = true := by
  decide +kernel
theorem test_selfTestEnd : after (.selfTestEnd (.engine 63) .fail) (testingUnit (.engine 63)) (fun t => t.st.copies == [(63, false)]) = true := by
  decide +kernel
theorem test_spareCopyDone : after (.spareCopyDone 63 false) copying (fun t => t.physical 63 == 67 && t.retired 63) = true := by decide +kernel
theorem test_vatRebuildDone : after (.vatRebuildDone 3) { up0 with st := { up0.st with rebuilds := [3, 4] } }
    (fun t => t.st.rebuilds == [4]) = true := by
  decide +kernel

/-- Tracing with a queue of `n` records. -/
def tracing (n : Nat) : State := { up0 with dbg := { up0.dbg with traceEn := true, queue := List.replicate n (none, 0) } }
/-- An empty queue, `n` records having been lost. -/
def lossy (n : Nat) : State := { tracing 0 with dbg := { (tracing 0).dbg with lostNow := n } }
/-- The hypotheses of TraceRecords: room for one more record, and none. -/
theorem witness_traceRecords :
    (up0.up = true ∧ up0.dbg.traceEn = false) ∧
    (tracing 64).dbg.lostNow = 0 ∧ ((tracing 63).dbg.traceEn = true ∧ (tracing 63).dbg.queue.length < 64) ∧
    64 ≤ (tracing 64).dbg.queue.length ∧ 0 < (lossy 1).dbg.lostNow ∧ (lossy 1).dbg.queue.length < 64 ∧
    ((lossy 1).tracePush 5).dbg.queue = (some 0x108, 5) :: [] ∧ (tracing 1).dbg.queue = (none, 0) :: [] ∧ (tracing 0).dbg.queue = [] := by
  decide +kernel
theorem test_traceSync : after .traceSync (tracing 0) (fun t => t.clock == 2 ^ 21 && t.dbg.queue.length == 1) = true := by decide +kernel
theorem test_traceRecordOut : after .traceRecordOut (tracing 1) (fun t => t.dbg.out == some 0 && t.dbg.queue.isEmpty) = true := by
  decide +kernel
/-- The DROP record of lost records goes out before the record queued behind them (15 R473, R474). -/
theorem test_traceDrop : after .traceRecordOut ((lossy 65537).tracePush 5)
    (fun t => t.dbg.out == some 0x108 && t.dbg.queue == [(none, 5)] && t.dbg.lostNow == 0) = true := by decide +kernel

end Sys2Proof.Tests
end

section
/-! The step and the commands as a whole: every command has a next state, and every step keeps the stores canonical. -/

namespace Sys2Proof.Machine

/-- Every command keeps the stores canonical. -/
theorem exec_canon : ∀ (i : Instr) (s : State), s.Canon → OutCanon (exec i s)
  | .issue .., _, h => execIssue_canon _ _ _ _ _ h
  | .sequencerFetch .., _, h => execSequencerFetch_canon _ _ h
  | .setpat .., _, h => execSetpat_canon _ _ h
  | .setfmt .., _, h => execSetfmt_canon _ _ h
  | .fence .., _, h => execFence_canon _ _ h
  | .loopSet .., _, h => execLoopSet_canon _ h
  | .loopCount .., _, h => execLoopCount_canon _ h
  | .br .., _, h => execBr_canon _ h
  | .halt .., _, h => execHalt_canon _ h
  | .tld .., _, h => execTld_canon _ _ h
  | .tldG .., _, h => execTldG_canon _ _ h
  | .tst .., _, h => execTst_canon _ _ h
  | .tmov .., _, h => execTmov_canon _ _ h
  | .trel .., _, h => execTrel_canon _ _ h
  | .tsave .., _, h => execTsave_canon _ _ h
  | .trestore .., _, h => execTrestore_canon _ _ h
  | .perm .., _, h => execPerm_canon _ _ h
  | .permX .., _, h => execPermX_canon _ _ h
  | .sperm .., _, h => execSperm_canon _ _ h
  | .gath .., _, h => execGath_canon _ _ h
  | .scat .., _, h => execScat_canon _ _ h
  | .conv .., _, h => execConv_canon _ _ h
  | .mat8 .., _, h => execMat8_canon _ _ h
  | .rot2 .., _, h => execRot2_canon _ _ h
  | .trans8 .., _, h => execTrans8_canon _ _ h
  | .matmul .., _, h => execMatmul_canon _ _ h
  | .hrot .., _, h => execHrot_canon _ _ h
  | .vld .., _, h => execVld_canon _ _ h
  | .vst .., _, h => execVst_canon _ _ h
  | .copy .., _, h => execCopy_canon _ _ h
  | .add .., _, h => execAdd_canon _ _ h
  | .sub .., _, h => execSub_canon _ _ h
  | .mul .., _, h => execMul_canon _ _ h
  | .fma .., _, h => execFma_canon _ _ h
  | .min .., _, h => execMin_canon _ _ h
  | .max .., _, h => execMax_canon _ _ h
  | .scale .., _, h => execScale_canon _ _ h
  | .cmplt .., _, h => execCmplt_canon _ _ h
  | .cmpeq .., _, h => execCmpeq_canon _ _ h
  | .rand .., _, h => execRand_canon _ _ h
  | .amax .., _, h => execAmax_canon _ _ h
  | .upd .., _, h => execUpd_canon _ _ h
  | .commit .., _, h => execCommit_canon _ _ h
  | .sort .., _, h => execSort_canon _ _ h
  | .disp .., _, h => execDisp_canon _ _ h
  | .comb .., _, h => execComb_canon _ _ h
  | .front .., _, h => execFront_canon _ _ h
  | .foldWeight .., _, h => execFoldWeight_canon _ _ h
  | .foldInput .., _, h => execFoldInput_canon _ _ h
  | .writeWatermark .., _, h => execWriteWatermark_canon _ _ h
  | .clearDigests .., _, h => execClearDigests_canon _ _ h
  | .scoreboardBegin .., _, h => execScoreboardBegin_canon _ _ h
  | .slotCommit .., _, h => execSlotCommit_canon _ _ _ _ h
  | .drainEnd .., _, h => execDrainEnd_canon _ h
  | .spanCheck .., _, h => execSpanCheck_canon _ _ _ _ _ h
  | .screenGrant, _, h => execScreenGrant_canon h
  | .addressPathGrant, _, h => execAddressPathGrant_canon h
  | .screenError .., _, h => execScreenError_canon _ _ h
  | .laneParityError .., _, h => execLaneParityError_canon _ _ _ h
  | .ctxEnable .., _, h => execCtxEnable_canon _ _ h
  | .ctxDisable .., _, h => execCtxDisable_canon _ _ h
  | .start .., _, h => execStart_canon _ _ h
  | .resume .., _, h => execResume_canon _ _ h
  | .abort .., _, h => execAbort_canon _ _ h
  | .domainWrite .., _, h => execDomainWrite_canon _ _ _ h
  | .secureWrite .., _, h => execSecureWrite_canon _ _ _ h
  | .leaseWrite .., _, h => execLeaseWrite_canon _ _ _ _ _ h
  | .leaseClearDone, _, h => execLeaseClearDone_canon h
  | .fmtWrite .., _, h => execFmtWrite_canon _ _ _ _ h
  | .scurveWrite .., _, h => execScurveWrite_canon _ _ _ _ _ h
  | .tcurveWrite .., _, h => execTcurveWrite_canon _ _ _ _ h
  | .patQuadWrite .., _, h => execPatQuadWrite_canon _ _ _ _ _ _ h
  | .remapWrite .., _, h => execRemapWrite_canon _ _ h
  | .portReturn .., _, h => execPortReturn_canon _ _ _ h
  | .frontCalStart .., _, h => execFrontCalStart_canon _ h
  | .korniModeSet .., _, h => execKorniModeSet_canon _ _ h
  | .korniTailWrite .., _, h => execKorniTailWrite_canon _ _ h
  | .korniHeadWrite .., _, h => execKorniHeadWrite_canon _ _ h
  | .korniReplayRecord .., _, h => execKorniReplayRecord_canon _ h
  | .go .., _, h => execGo_canon _ h
  | .superWrite .., _, h => execSuperWrite_canon _ _ h
  | .pwrEnWrite .., _, h => execPwrEnWrite_canon _ _ h
  | .ccack .., _, h => execCcack_canon _ h
  | .stStart .., _, h => execStStart_canon _ _ _ h
  | .lock .., _, h => execLock_canon _ h
  | .ssizeWrite .., _, h => execSsizeWrite_canon _ _ h
  | .freeze .., _, h => execFreeze_canon _ _ h
  | .clear .., _, h => execClear_canon _ h
  | .debugHalt .., _, h => execDebugHalt_canon _ _ h
  | .debugStep .., _, h => execDebugStep_canon _ _ h
  | .registerWrite .., _, h => execRegisterWrite_canon _ _ _ _ _ h
  | .rscRead .., _, h => execRscRead_canon _ _ _ h
  | .eddyCommand .., _, h => execEddyCommand_canon _ _ _ _ _ _ _ _ h
  | .writeAck .., _, h => execWriteAck_canon _ _ h
  | .memoryReadResponse .., _, h => execMemoryReadResponse_canon _ _ _ _ h
  | .translationResponse .., _, h => execTranslationResponse_canon _ _ _ _ _ h
  | .beatTransfer .., _, h => execBeatTransfer_canon _ _ _ _ h
  | .portNak .., _, h => execPortNak_canon _ h
  | .portStall .., _, h => execPortStall_canon _ h
  | .eventTransfer, _, h => execEventTransfer_canon h
  | .frontArrivedWritten .., _, h => execFrontArrivedWritten_canon _ h
  | .frontGoCount .., _, h => execFrontGoCount_canon _ _ _ h
  | .frontExit, _, h => execFrontExit_canon h
  | .frontDoneWritten .., _, h => execFrontDoneWritten_canon _ h
  | .strayFrontGo, _, h => execStrayFrontGo_canon h
  | .frontGoHeld, _, h => execFrontGoHeld_canon h
  | .frontWaitTimeout, _, h => execFrontWaitTimeout_canon h
  | .sidebandGlitch .., _, h => execSidebandGlitch_canon _ h
  | .glitchWindowEnd, _, h => execGlitchWindowEnd_canon h
  | .tamperAssert .., _, h => execTamperAssert_canon _ h
  | .tamperRelease, _, h => execTamperRelease_canon h
  | .wipeEnd .., _, h => execWipeEnd_canon _ h
  | .lifeCycleChange .., _, h => execLifeCycleChange_canon _ _ h
  | .coolClassChange .., _, h => execCoolClassChange_canon _ h
  | .throttleChange .., _, h => execThrottleChange_canon _ h
  | .quadrantLost .., _, h => execQuadrantLost_canon _ h
  | .quadrantPowerTimeout .., _, h => execQuadrantPowerTimeout_canon _ h
  | .powerInterval .., _, h => execPowerInterval_canon _ h
  | .islandClockChange .., _, h => execIslandClockChange_canon _ h
  | .islandClockStart .., _, h => execIslandClockStart_canon _ h
  | .temperatureSample .., _, h => execTemperatureSample_canon _ h
  | .tablePatrol, _, h => execTablePatrol_canon h
  | .scrubRow .., _, h => execScrubRow_canon _ h
  | .selfTestEnd .., _, h => execSelfTestEnd_canon _ _ h
  | .spareCopyDone .., _, h => execSpareCopyDone_canon _ _ h
  | .vatRebuildDone .., _, h => execVatRebuildDone_canon _ h
  | .traceSync, _, h => execTraceSync_canon h
  | .reset .., _, h => execReset_canon _ h
  | .resetRelease .., _, h => execResetRelease_canon _ _ h
  | .fuseDone .., _, h => execFuseDone_canon _ h
  | .tableDone .., _, h => execTableDone_canon _ h
  | .testDone .., _, h => execTestDone_canon _ h
  | .clearDone .., _, h => execClearDone_canon _ h
  | .powerLoss, _, h => execPowerLoss_canon h
  | .quadrantPowerGood .., _, h => execQuadrantPowerGood_canon _ h
  | .traceRecordOut, _, h => execTraceRecordOut_canon h

/-- A step keeps the stores canonical: taking a command off the queue touches no store. -/
theorem step_canon (s : State) (h : s.Canon) : OutCanon (step s) := by
  unfold step
  split
  · exact tick_canon h
  · exact exec_canon _ _ ⟨h.vat, h.ram, h.tiles, h.cache, h.pats⟩

/-- A command that waits for the block to be up has a next state whether it is or not. -/
theorem whenUp_total (s t : State) : ∃ u, whenUp s t = .next u := by
  unfold whenUp
  split
  · exact ⟨_, rfl⟩
  · exact ⟨_, rfl⟩

/-- The release of reset answers with a state in reset and out of it (11 R384). -/
theorem execResetRelease_total (lc cool : BitVec 2) (s : State) : ∃ t, execResetRelease lc cool s = .next t := by
  unfold execResetRelease
  split
  · exact ⟨_, rfl⟩
  · exact ⟨_, rfl⟩

/-- Every command has a next state; all but those of reset and power wait for the block to be up. -/
theorem exec_total (i : Instr) (s : State) : ∃ t, exec i s = .next t := by
  cases i
  case reset cycles => exact ⟨_, rfl⟩
  case powerLoss => exact ⟨_, rfl⟩
  case resetRelease lc cool => exact execResetRelease_total lc cool s
  all_goals exact whenUp_total _ _

/-- Settles O4, by the command at the front of the queue. -/
theorem stepKeepsCanon : Obligations.StepKeepsCanon := by
  unfold Obligations.StepKeepsCanon
  intro s t h ht
  have hs : OutCanon (step s) := step_canon s h
  rwa [ht] at hs

/-- Settles O1, by the two cases of the queue. -/
theorem stepRunsFront : Obligations.StepRunsFront := by
  unfold Obligations.StepRunsFront
  intro c r s
  constructor
  · intro h
    rw [step, h]
  · intro h
    rw [step, h]

/-- Settles O5, by the constructors of the commands. -/
theorem everyCommandRuns : Obligations.EveryCommandRuns := by
  unfold Obligations.EveryCommandRuns
  exact exec_total

end Sys2Proof.Machine
end

section
/-! The triplicated tables (12 R405): what a register holds after a write and after a comparison. -/

namespace Sys2Proof.Machine

/-! The copies of one register. -/

theorem Trip.vote_all (q : Quad) : (Trip.all q).vote = some q := by simp [Trip.all, Trip.vote]

@[simp] theorem Trip.vote_mend (t : Trip) : t.mend.vote = t.vote := by
  unfold Trip.mend
  split
  · rename_i q h
    rw [h, vote_all]
  · rfl

/-- Mending changes no value: where there is a majority it is the value, and where there is none nothing changes. -/
@[simp] theorem Trip.val_mend (t : Trip) : t.mend.val = t.val := by
  unfold Trip.mend
  split
  · rename_i q h
    simp [Trip.val, h, vote_all]
  · rfl

/-- Copies that are equal have nothing to mend. -/
theorem Trip.mend_of_equal {t : Trip} (hab : t.a = t.b) (hbc : t.b = t.c) : t.mend = t := by
  obtain ⟨a, b, c⟩ := t
  dsimp only at hab hbc
  subst hab hbc
  simp [Trip.mend, Trip.vote, Trip.all]

/-! One register among the tables. -/

theorem TabReg.get_put_same (r : TabReg) (t : Tables) (v : Trip) : r.get (r.put t v) = v := by
  cases r <;> simp [TabReg.get, TabReg.put]

theorem TabReg.get_put_other {q r : TabReg} (h : q ≠ r) (t : Tables) (v : Trip) : q.get (r.put t v) = q.get t := by
  cases r <;> cases q <;> simp_all [TabReg.get, TabReg.put, Fin.ext_iff, eq_comm]

theorem tabVal_putTab_same {s : State} (r : TabReg) (q : Quad) : (s.putTab r q).tabVal r = q := by
  simp [State.tabVal, State.putTab, TabReg.get_put_same, Trip.val, Trip.vote_all]

theorem tabVal_putTab_other {s : State} {p r : TabReg} (h : p ≠ r) (q : Quad) : (s.putTab r q).tabVal p = s.tabVal p := by
  rw [State.tabVal, State.putTab, TabReg.get_put_other h, ← State.tabVal]

/-! Comparison. -/

section Compare
variable {s : State}

@[simp] theorem logTable_tab (code : Nat) (r : TabReg) : (s.logTable code r).tab = s.tab := by
  obtain ⟨l, d, h⟩ := logErr_spec (s := s) ⟨code, 7, r.table, 0, r.offset⟩
  rw [State.logTable, h]

/-- A comparison mends the register's copies. -/
theorem get_compare_same (r : TabReg) : r.get (s.compare r).tab = (r.get s.tab).mend := by
  unfold State.compare
  dsimp only
  split
  · rename_i hv
    simp [Trip.mend, hv]
  · rename_i q hv
    split
    · simp [Trip.mend, hv, TabReg.get_put_same]
    · rename_i hm
      simp only [Trip.minority, hv, Option.isSome_some, Bool.true_and, Bool.not_eq_true, Bool.not_eq_false', Bool.and_eq_true,
        beq_iff_eq] at hm
      exact (Trip.mend_of_equal hm.1 hm.2).symm

theorem get_compare_other {q r : TabReg} (h : q ≠ r) : q.get (s.compare r).tab = q.get s.tab := by
  unfold State.compare
  dsimp only
  split
  · rw [logTable_tab]
  · split
    · rw [logTable_tab]
      exact TabReg.get_put_other h _ _
    · rfl

/-- Of every register a comparison leaves the majority and the value, and copies that agree stay. -/
theorem vote_compare (q r : TabReg) : (q.get (s.compare r).tab).vote = (q.get s.tab).vote := by
  by_cases h : q = r
  · rw [h, get_compare_same, Trip.vote_mend]
  · rw [get_compare_other h]

theorem tabVal_compare (q r : TabReg) : (s.compare r).tabVal q = s.tabVal q := by
  unfold State.tabVal
  by_cases h : q = r
  · rw [h, get_compare_same, Trip.val_mend]
  · rw [get_compare_other h]

theorem agrees_compare {q : TabReg} (r : TabReg) (h : s.agrees q = true) : (s.compare r).agrees q = true := by
  by_cases hq : q = r
  · rw [← hq, compare_agrees h, h]
  · unfold State.agrees at h ⊢
    rw [get_compare_other hq, h]

/-- A register with a majority agrees once it has been compared. -/
theorem agrees_compare_same {r : TabReg} (h : (r.get s.tab).vote.isSome = true) : (s.compare r).agrees r = true := by
  obtain ⟨q, hq⟩ := Option.isSome_iff_exists.1 h
  simp [State.agrees, get_compare_same, Trip.mend, hq, Trip.all]

theorem vote_compareAll (q : TabReg) (rs : List TabReg) : (q.get (s.compareAll rs).tab).vote = (q.get s.tab).vote := by
  induction rs generalizing s with
  | nil => rfl
  | cons r t ih => exact ih.trans (vote_compare q r)

theorem tabVal_compareAll (q : TabReg) (rs : List TabReg) : (s.compareAll rs).tabVal q = s.tabVal q := by
  induction rs generalizing s with
  | nil => rfl
  | cons r t ih => exact ih.trans (tabVal_compare q r)

theorem agrees_compareAll {q : TabReg} (rs : List TabReg) (h : s.agrees q = true) : (s.compareAll rs).agrees q = true := by
  induction rs generalizing s with
  | nil => exact h
  | cons r t ih => exact ih (agrees_compare r h)

/-- Registers with a majority all agree once they have been read. -/
theorem agrees_compareAll_mem {rs : List TabReg} (h : ∀ r ∈ rs, (r.get s.tab).vote.isSome = true) :
    ∀ r ∈ rs, (s.compareAll rs).agrees r = true := by
  induction rs generalizing s with
  | nil => exact fun r hr => absurd hr List.not_mem_nil
  | cons q t ih =>
    intro r hr
    rcases List.mem_cons.1 hr with rfl | ht
    · exact agrees_compareAll t (agrees_compare_same (h r hr))
    · exact ih (s := s.compare q) (fun p hp => by rw [vote_compare]; exact h p (List.mem_cons_of_mem _ hp)) r ht

/-- A second reading of registers that have a majority changes nothing. -/
theorem compareAll_twice {rs : List TabReg} (h : ∀ r ∈ rs, (r.get s.tab).vote.isSome = true) :
    (s.compareAll rs).compareAll rs = s.compareAll rs :=
  compareAll_agrees (agrees_compareAll_mem h)

end Compare

end Sys2Proof.Machine
end

section
/-! What the repair of lost quadrants leaves alone (12 R404): the sideband status, and every register of the tables but those that say
which engines are lost, hosted and out of service. -/

namespace Sys2Proof.Machine

variable {s t u : State}

/-- From `s` to `t` engines have been hosted or put out of service at most. -/
structure State.Rehosts (s t : State) : Prop where
  sb : t.sb = s.sb
  tab : ∀ r : TabReg, r ≠ .spareEng → r ≠ .hosted → r ≠ .outOf → r.get t.tab = r.get s.tab

theorem State.Rehosts.refl (s : State) : s.Rehosts s := ⟨rfl, fun _ _ _ _ => rfl⟩

theorem State.Rehosts.trans (h : s.Rehosts t) (h' : t.Rehosts u) : s.Rehosts u :=
  ⟨h'.sb.trans h.sb, fun r h1 h2 h3 => (h'.tab r h1 h2 h3).trans (h.tab r h1 h2 h3)⟩

theorem State.Rehosts.foldl {β : Type} {f : State → β → State} (hf : ∀ (s : State) b, s.Rehosts (f s b)) (l : List β) : s.Rehosts (l.foldl f s) := by
  induction l generalizing s with
  | nil => exact .refl s
  | cons b r ih => exact (hf s b).trans ih

theorem rehosts_putTab {r : TabReg} (h : r = .spareEng ∨ r = .hosted ∨ r = .outOf) (q : Quad) : s.Rehosts (s.putTab r q) := by
  refine ⟨rfl, fun p h1 h2 h3 => TabReg.get_put_other ?_ _ _⟩
  rintro rfl
  rcases h with h | h | h
  · exact h1 h
  · exact h2 h
  · exact h3 h

theorem rehosts_logErr (v : ErrEvent) : s.Rehosts (s.logErr v) := by
  obtain ⟨l, d, h⟩ := logErr_spec (s := s) v
  rw [h]
  exact ⟨rfl, fun _ _ _ _ => rfl⟩

theorem rehosts_loseTiles (g : Nat) : s.Rehosts (s.loseTiles g) := by
  unfold State.loseTiles
  refine .foldl ?_ _
  exact fun _ _ => ⟨rfl, fun _ _ _ _ => rfl⟩

theorem rehosts_outNow (g : Nat) : s.Rehosts (s.outNow g) := (rehosts_putTab (.inr (.inr rfl)) _).trans (rehosts_loseTiles g)

theorem rehosts_hostNow (g : Fin 64) (phys : Nat) : s.Rehosts (s.hostNow g phys) := by
  unfold State.hostNow
  split
  · rename_i p _
    have hst : s.Rehosts { s with st := { s.st with hosts := s.st.hosts ++ [(g, p, s.freeSlot)] } } := ⟨rfl, fun _ _ _ _ => rfl⟩
    exact hst.trans ((rehosts_putTab (.inr (.inl rfl)) _).trans (rehosts_logErr _))
  · exact rehosts_outNow _

theorem rehosts_rehost : s.Rehosts s.rehost := by
  refine .foldl (fun s h => ?_) _
  dsimp only
  split
  · exact .refl s
  · split
    · exact ⟨rfl, fun _ _ _ _ => rfl⟩
    · have hl : s.Rehosts (s.leaveSlot h) := ⟨rfl, fun _ _ _ _ => rfl⟩
      exact hl.trans ((rehosts_putTab (.inr (.inl rfl)) _).trans (rehosts_outNow _))

theorem rehosts_hostQuadrant (q : Nat) : s.Rehosts (s.hostQuadrant q) := by
  refine .foldl (fun s i => ?_) _
  dsimp only
  split
  · exact .refl s
  · split
    · exact rehosts_hostNow _ _
    · exact rehosts_outNow _

theorem rehosts_hostLost (q : Fin 4) : s.Rehosts (s.hostLost q) :=
  (rehosts_putTab (.inl rfl) _).trans (rehosts_rehost.trans (rehosts_hostQuadrant _))

theorem rehosts_repairDue : s.Rehosts s.repairDue := by
  unfold State.repairDue
  split
  · exact .refl s
  · exact .trans (t := { s with st := { s.st with lossDue := [] } }) ⟨rfl, fun _ _ _ _ => rfl⟩ (.foldl (fun _ q => rehosts_hostLost q) _)

theorem rehosts_repairLoss (q : Fin 4) : s.Rehosts (s.repairLoss q) := by
  unfold State.repairLoss
  split
  · exact ⟨rfl, fun _ _ _ _ => rfl⟩
  · exact rehosts_hostLost q

/-! The sideband status. -/

theorem foldl_sb {β : Type} {f : State → β → State} (hf : ∀ s b, (f s b).sb = s.sb) (l : List β) : (l.foldl f s).sb = s.sb := by
  induction l generalizing s with
  | nil => rfl
  | cons b r ih => exact ih.trans (hf s b)

@[simp] theorem logErr_sb (v : ErrEvent) : (s.logErr v).sb = s.sb := (rehosts_logErr v).sb

@[simp] theorem compareAll_sb (rs : List TabReg) : (s.compareAll rs).sb = s.sb := by
  obtain ⟨_, _, _, h⟩ := compareAll_spec (s := s) rs
  rw [h]

@[simp] theorem readSpares_sb : s.readSpares.sb = s.sb := compareAll_sb _

@[simp] theorem korniEventRec_sb (code v : Nat) : (s.korniEventRec code v).sb = s.sb := by
  obtain ⟨_, h⟩ := korniEvent_spec (s := s) 0x06 0 code (quadBytes [BitVec.ofNat 64 v, 0])
  rw [State.korniEventRec, h]

@[simp] theorem freeReam_sb (ns : List Nat) : (s.freeReam ns).sb = s.sb := by
  unfold State.freeReam
  exact foldl_sb (fun _ _ => by simp) _

@[simp] theorem faultUnit_sb (c : CtxId) (e : Entry) (k : Nat) (f : FaultRec) : (s.faultUnit c e k f).sb = s.sb := by
  unfold State.faultUnit State.leaveReam
  split <;> simp

@[simp] theorem loseEntry_sb (q : Nat) (c : CtxId) (n : Seq) : (s.loseEntry q c n).sb = s.sb := by
  unfold State.loseEntry
  split
  · split
    · split
      · exact faultUnit_sb _ _ _ _
      · rfl
    · rfl
  · rfl

@[simp] theorem stopTests_sb (q : Nat) : (s.stopTests q).sb = s.sb := by
  unfold State.stopTests
  dsimp only
  split <;> rfl

/-- The loss of a quadrant changes no input's status. -/
@[simp] theorem loseQuadrant_sb (q : Fin 4) : (s.loseQuadrant q).sb = s.sb := by
  have entries : ∀ t : State, ((List.finRange 8).foldl
      (fun s c => ((s.ctx c).window.map Entry.seq).foldl (fun s n => s.loseEntry q.val c n) s) t).sb = t.sb :=
    fun _ => foldl_sb (fun _ c => foldl_sb (fun _ n => loseEntry_sb q.val c n) _) _
  have tiles : ∀ t : State, ((List.range 16).foldl (fun s i => s.loseTiles (16 * q.val + i)) t).sb = t.sb :=
    fun _ => foldl_sb (fun _ i => (rehosts_loseTiles (16 * q.val + i)).sb) _
  unfold State.loseQuadrant
  dsimp only
  rw [korniEventRec_sb, logErr_sb, (rehosts_repairLoss q).sb]
  dsimp only
  rw [stopTests_sb, tiles, entries, readSpares_sb]

@[simp] theorem holdSteps_sb : s.holdSteps.sb = s.sb := by rw [State.holdSteps, State.giveSteps]

@[simp] theorem nextQuadrant_sb (k : Nat) : (s.nextQuadrant k).sb = s.sb := by rw [State.nextQuadrant]

@[simp] theorem powerFails_sb (q : Fin 4) : (s.powerFails q).sb = s.sb := by
  rw [State.powerFails, nextQuadrant_sb, loseQuadrant_sb]

@[simp] theorem powerLate_sb (n : Nat) (s : State) : (State.powerLate n s).sb = s.sb := by
  induction n generalizing s with
  | zero => rfl
  | succ n ih =>
    unfold State.powerLate
    split
    · rw [ih, powerFails_sb]
    · rfl

@[simp] theorem powerOn_sb : (s.powerOn t).sb = t.sb := by
  unfold State.powerOn
  split
  · split
    · rw [holdSteps_sb, powerLate_sb]
    · rw [holdSteps_sb, nextQuadrant_sb]
  · rfl

@[simp] theorem reopen_sb : s.reopen.sb = s.sb := by
  unfold State.reopen
  split <;> rfl

end Sys2Proof.Machine
end

section
/-! Register accesses of the control window (00 R10, R11; 14 R444; 16 R475 to R493): what a write that the window takes leaves in the
state, register by register, and what a read returns. -/

namespace Sys2Proof.Machine

variable {s t u : State} {src : Source} {off : Nat} {p : Part} {v : Quad} {g : Bool}

/-! Writes. -/

theorem exec_registerWrite {o : BitVec 24} (h : s.takesWrite src 0 o.toNat p v = true) :
    exec (.registerWrite src o p v g) s = .next (s.regWrite src 0 o.toNat p v g) := whenUp_up (takesWrite_up h)

/-- A record leaves the ring's place, its mode and the marks of a replay (10 R344). -/
theorem korniPut_marks (typ c a : Nat) (bs : List Byte) : (s.korniPut typ c a bs).korni.base = s.korni.base ∧
    (s.korniPut typ c a bs).korni.lost = s.korni.lost ∧ (s.korniPut typ c a bs).korni.diverged = s.korni.diverged := by
  unfold State.korniPut
  split
  · unfold Korni.record
    dsimp only
    split <;> exact ⟨rfl, rfl, rfl⟩
  · exact ⟨rfl, rfl, rfl⟩

theorem putWrite_marks (due : Bool) : (s.putWrite due off p v).korni.base = s.korni.base ∧
    (s.putWrite due off p v).korni.lost = s.korni.lost ∧ (s.putWrite due off p v).korni.diverged = s.korni.diverged := by
  unfold State.putWrite
  split
  · exact korniPut_marks _ _ _ _
  · exact ⟨rfl, rfl, rfl⟩

/-- A register that is none of a table's: its write reads none of them. -/
def Reg.plain (r : Reg) : Bool := match r with | .fmtLo _ => false | .curve _ => false | .spare _ => false | _ => true

theorem readFor_plain {r : Reg} (hr : regAt off = r) (hp : r.plain = true) (a : Access) : s.readFor off a = s :=
  readFor_none a (fun _ h => by simp [← hr, h, Reg.plain] at hp) (fun _ h => by simp [← hr, h, Reg.plain] at hp)
    (fun _ h => by simp [← hr, h, Reg.plain] at hp)

/-- `t` is `u` but for the Korni records of the writes of registers, and the eddy responses. -/
structure State.Logged (u t : State) : Prop where
  rest : ∃ k r, t = { u with korni := k, resp := r }
  base : t.korni.base = u.korni.base
  lost : t.korni.lost = u.korni.lost
  diverged : t.korni.diverged = u.korni.diverged

theorem logged_written (id : BitVec 4) : u.Logged (s.written src id off p v u) := by
  obtain ⟨h1, h2, h3⟩ := putWrite_marks (s := u) (off := off) (p := p) (v := v) (s.recordsWrite src)
  obtain ⟨r, hr⟩ := answer_spec (s := u.putWrite (s.recordsWrite src) off p v) src id false
  refine ⟨?_, ?_, ?_, ?_⟩
  · obtain ⟨k, r, h⟩ := written_spec (s := s) (t := u) src id off p v
    exact ⟨k, r, h⟩
  all_goals
    unfold State.written
    rw [hr]
    assumption

section Logged
variable (h : u.Logged t)
include h

theorem State.Logged.ctx (c : CtxId) : t.ctx c = u.ctx c := by obtain ⟨k, r, rfl⟩ := h.rest; rfl
theorem State.Logged.port (k : Fin 12) : t.port k = u.port k := by obtain ⟨k, r, rfl⟩ := h.rest; rfl
theorem State.Logged.felt : t.felt = u.felt := by obtain ⟨k, r, rfl⟩ := h.rest; rfl
theorem State.Logged.sb : t.sb = u.sb := by obtain ⟨k, r, rfl⟩ := h.rest; rfl
theorem State.Logged.dbg : t.dbg = u.dbg := by obtain ⟨k, r, rfl⟩ := h.rest; rfl
theorem State.Logged.front : t.front = u.front := by obtain ⟨k, r, rfl⟩ := h.rest; rfl
theorem State.Logged.pwr : t.pwr = u.pwr := by obtain ⟨k, r, rfl⟩ := h.rest; rfl
theorem State.Logged.err : t.err = u.err := by obtain ⟨k, r, rfl⟩ := h.rest; rfl
theorem State.Logged.tabVal (q : TabReg) : t.tabVal q = u.tabVal q := by obtain ⟨k, r, rfl⟩ := h.rest; rfl
theorem State.Logged.sec : t.sec = u.sec := by obtain ⟨k, r, rfl⟩ := h.rest; rfl

end Logged

/-- What a write of CK_PORT_STAT leaves of a port's STALL (11 R366). -/
theorem writePortStat_stall (a : Access) (k : Fin 12) : ((s.writePortStat a).port k).stall = ((s.port k).stall && !a.ones.bit k.val) := by
  have hp : (s.writePortStat a).port k = (s.port k).written k.val a.ones := by
    unfold State.writePortStat
    dsimp only
    split <;> simp [State.port]
  rw [hp]
  unfold Port.written
  dsimp only
  split <;> split <;> simp_all [Port.returned]

/-- TAIL of the error log takes a value between HEAD − 64 and HEAD (12 R412). -/
theorem writeErrTail_err (a : Access) : (s.writeErrTail a).err = { s.err with
    tail := if (a.merge s.err.tail).toNat ≤ s.err.head.toNat ∧ s.err.head.toNat ≤ (a.merge s.err.tail).toNat + 64 then a.merge s.err.tail
      else s.err.tail } := by
  unfold State.writeErrTail
  dsimp only
  split <;> rfl

/-- EN and MINSTEP change the power management alone by what follows from EN (13 R425). -/
theorem setPowerCtl_pwr (en : Bool) (m : BitVec 5) : ∃ l, (s.setPowerCtl en m).pwr = { s.pwr with en := en, minstep := m, lvl := l } := by
  have hold : ∀ t : State, t.holdSteps.pwr = t.pwr := fun t => by rw [State.holdSteps, State.giveSteps]
  have rest : ∀ t : State, t.restSteps.pwr = t.pwr := by
    intro t
    unfold State.restSteps
    split
    · exact hold t
    · rw [State.loopTo, hold]
  have level : ∀ t : State, ∃ l, (t.setLevel 31).pwr = { t.pwr with lvl := l } := by
    intro t
    unfold State.setLevel
    split
    · exact ⟨_, rfl⟩
    · obtain ⟨d, hd⟩ := trace_spec (s := { t with pwr := { t.pwr with lvl := BitVec.ofNat 5 31 } }) 5 none 31 0
      exact ⟨_, by rw [hd]⟩
  unfold State.setPowerCtl
  dsimp only
  rw [rest]
  split
  · exact ⟨_, rfl⟩
  · exact level _

/-- EN and MINSTEP after a write of CK_PWR_CTL (13 R433). -/
theorem writePwrCtl_pwr (a : Access) : (s.writePwrCtl a).pwr.en = (a.merge (s.regVal .pwrCtl)).bit 0 ∧
    (s.writePwrCtl a).pwr.minstep = field 5 (a.merge (s.regVal .pwrCtl)) 8 := by
  obtain ⟨l, hl⟩ := setPowerCtl_pwr (s := s) ((a.merge (s.regVal .pwrCtl)).bit 0) (field 5 (a.merge (s.regVal .pwrCtl)) 8)
  unfold State.writePwrCtl State.ackClass
  dsimp only
  split
  · split <;> simp [hl]
  · simp [hl]

/-! What a write of a spare map register reads and does. -/

theorem tabVal_readFor (off : Nat) (a : Access) (r : TabReg) : (s.readFor off a).tabVal r = s.tabVal r := tabVal_compareAll _ _

theorem State.Rehosts.tabVal (h : s.Rehosts t) (r : TabReg) (h1 : r ≠ .spareEng) (h2 : r ≠ .hosted) (h3 : r ≠ .outOf) :
    t.tabVal r = s.tabVal r := by
  rw [State.tabVal, State.tabVal, h.tab r h1 h2 h3]

/-- An entry of the column map is its register's value; past the map's end there is none. -/
theorem colmap_eq (m : Nat) : s.colmap m = if h : m < 128 then s.tabVal (.colmap ⟨m, h⟩) else Trip.val {} := by
  unfold State.colmap
  split
  · rename_i h
    simp [State.tabVal, TabReg.get, h]
  · rename_i h
    simp [h]

/-- The tests of a spare map register go by the same values before and after the registers have been read. -/
theorem readFor_fields (off : Nat) (a : Access) : (∀ x, (s.readFor off a).bySuper x = s.bySuper x) ∧
    (s.readFor off a).allDisabled = s.allDisabled ∧ (s.readFor off a).glob = s.glob ∧
    ∀ m q, (s.readFor off a).elementTaken m q = s.elementTaken m q := by
  have hcol : ∀ m, (s.readFor off a).colmap m = s.colmap m := fun m => by simp only [colmap_eq, tabVal_readFor]
  have hfuse : ∀ i l e, (s.readFor off a).fuseUses i l e = s.fuseUses i l e := by
    obtain ⟨tab, l, d, h⟩ := readFor_spec (s := s) off a
    intro i l e
    rw [h]
    rfl
  have helem : ∀ m q, (s.readFor off a).elementTaken m q = s.elementTaken m q := by
    intro m q
    simp only [State.elementTaken, State.entryUses, hcol, hfuse]
  obtain ⟨tab, l, d, h⟩ := readFor_spec (s := s) off a
  refine ⟨?_, ?_, ?_, helem⟩ <;> rw [h]
  · exact fun _ => rfl
  · rfl

/-- The count of the free elements is no column. -/
theorem tabVal_recountFree (m : Fin 128) (seg : Nat) : (s.recountFree seg).tabVal (.colmap m) = s.tabVal (.colmap m) :=
  tabVal_putTab_other (fun h => TabReg.noConfusion h) _

section Spare
variable {a : Access} (hs : s.bySuper a = true) (hd : s.allDisabled = true)
include hs hd

theorem writeSpare_spareRet (hb : s.glob.bu = 5) :
    s.writeSpare .spareRet a = .ok (s.putTab .spareRet (a.merge (s.tabVal .spareRet))).repairDue := by
  simp [State.writeSpare, hs, hd, State.undoesRet, hb, allow]

theorem writeSpare_host (hb : s.tabVal .hosted = 0) :
    s.writeSpare .host a = .ok (s.putTab .host (a.merge (s.tabVal .host) &&& 0x7F01)).repairDue := by
  simp [State.writeSpare, hs, hd, State.anyHosted, hb, allow]

theorem writeSpare_colmap {m : Fin 128} (hb : s.elementTaken m.val (a.merge (s.tabVal (.colmap m))) = false) :
    s.writeSpare (.colmap m) a = .ok ((s.putTab (.colmap m) (a.merge (s.tabVal (.colmap m)) &&& 0x7FFFF)).recountFree (m.val / 8)) := by
  simp [State.writeSpare, hs, hd, hb, allow]

end Spare

section Write
variable (h : s.takesWrite src 0 off p v = true)
include h

/-- A write that its register carries out: its effect, and its record and answer. -/
theorem regWrite_logged (hw : (s.readFor off ⟨some (s.srcDomain src), p, v, g⟩).writeReg (regAt off) ⟨some (s.srcDomain src), p, v, g⟩ = .ok u) :
    u.Logged (s.regWrite src 0 off p v g) := by
  rw [regWrite_written h hw]
  exact logged_written 0

/-- A write of a register outside the tables, of one that its register carries out under a condition which is met. -/
theorem regWrite_allowed {r : Reg} (hr : regAt off = r) (g : Bool) (hp : r.plain = true) {c : Bool}
    (hw : s.writeReg r ⟨some (s.srcDomain src), p, v, g⟩ = allow c u) (hc : c = true) : u.Logged (s.regWrite src 0 off p v g) := by
  refine regWrite_logged h ?_
  rw [readFor_plain hr hp, hr, hw, hc]
  rfl

end Write

/-! The registers that the supervisor writes. -/

section Super
variable (h : s.takesWrite src 0 off p v = true) (hs : s.superSrc src = true)
include h hs

theorem regWrite_feltCtl (hr : regAt off = .feltCtl) (hb : (Access.merge ⟨none, p, v, g⟩ (s.regVal .feltCtl)).bit 0 = s.felt.remap) :
    let w := Access.merge ⟨none, p, v, g⟩ (s.regVal .feltCtl)
    (s.regWrite src 0 off p v g).felt = { s.felt with
      dmz := w.bit 1, starve := field 8 w 8, eddyQos := field 4 w 16, intQos := field 4 w 20 } := by
  have hw : s.writeReg .feltCtl ⟨some (s.srcDomain src), p, v, g⟩ = s.writeFeltCtl ⟨some (s.srcDomain src), p, v, g⟩ := if_pos hs
  refine (regWrite_allowed h hr g rfl hw ?_).felt.trans ?_
  · exact Bool.or_eq_true_iff.2 (.inl (beq_iff_eq.2 hb))
  · dsimp only
    rw [← hb]
    rfl

theorem regWrite_park {n : Fin 6} (hr : regAt off = .park n) :
    let w := Access.merge ⟨none, p, v, g⟩ (s.regVal (.park n))
    (s.regWrite src 0 off p v g).felt.park[n] = if n.val = 5 then w &&& 0x0000FFFFFFFFFFFF else w := by
  rw [(regWrite_allowed h hr g rfl rfl hs).felt]
  simp [State.writePark, State.regVal, Access.merge]

theorem regWrite_miss (hr : regAt off = .miss) :
    (s.regWrite src 0 off p v g).felt.missValid = (s.felt.missValid && !(v &&& partMask p).bit 63) := by
  rw [(regWrite_allowed h hr g rfl rfl hs).felt]
  cases hb : (v &&& partMask p).bit 63 <;> simp [Access.ones, hb]

theorem regWrite_portStat (hr : regAt off = .portStat) :
    (s.regWrite src 0 off p v g).felt.issPar = (s.felt.issPar && !(v &&& partMask p).bit 48) ∧
      ∀ k : Fin 12, ((s.regWrite src 0 off p v g).port k).stall = ((s.port k).stall && !(v &&& partMask p).bit k.val) := by
  have f := regWrite_allowed h hr g rfl rfl hs
  rw [f.felt]
  constructor
  · cases hb : (v &&& partMask p).bit 48 <;> simp [State.writePortStat, Access.ones, hb]
  · intro k
    rw [f.port, writePortStat_stall]
    rfl

theorem regWrite_sbStat (hr : regAt off = .sbStat) :
    let z := v &&& partMask p
    (s.regWrite src 0 off p v g).sb = { s.sb with
      tnoisy := s.sb.tnoisy && !(z.bit 1 && !s.sb.tamper), lcnoisy := s.sb.lcnoisy && !z.bit 2, lcbad := s.sb.lcbad && !z.bit 3
      ccnoisy := s.sb.ccnoisy && !z.bit 4, thnoisy := s.sb.thnoisy && !z.bit 5
      qpnoisy := if z.bit 6 then s.sb.qpnoisy &&& ~~~s.pwr.qpwrOk else s.sb.qpnoisy } := by
  rw [(regWrite_allowed h hr g rfl rfl hs).sb, State.writeSbStat, reopen_sb, powerOn_sb]
  rfl

theorem regWrite_dbgCtl (hr : regAt off = .dbgCtl) (hl : coversLow p = true) :
    (s.regWrite src 0 off p v g).dbg = { s.dbg with
      halt := field 8 v 0, traceEn := v.bit 16, traceInstr := v.bit 17, traceCtx := field 8 v 24 } := by
  rw [(regWrite_allowed h hr g rfl rfl hs).dbg, State.writeDbgCtl, if_pos hl]

theorem regWrite_frontCfg (hr : regAt off = .frontCfg) (hq : s.quiet s.owner = true)
    (hn : s.quiet (ctxOf ((Access.merge ⟨none, p, v, g⟩ (s.regVal .frontCfg)).bits 3 1)) = true) :
    let w := Access.merge ⟨none, p, v, g⟩ (s.regVal .frontCfg)
    (s.regWrite src 0 off p v g).front = { s.front with
      enable := w.bit 0, owner := field 3 w 1, recEn := w.bit 4, chipsM1 := field 12 w 8, limit := field 5 w 24 } :=
  (regWrite_allowed h hr g rfl rfl (Bool.and_eq_true_iff.2 ⟨Bool.and_eq_true_iff.2 ⟨hs, hq⟩, hn⟩)).front

theorem regWrite_frontDly (hr : regAt off = .frontDly) : (s.regWrite src 0 off p v g).front =
    { s.front with delay := field 12 (Access.merge ⟨none, p, v, g⟩ (s.regVal .frontDly)) 0 } :=
  (regWrite_allowed h hr g rfl rfl hs).front

theorem regWrite_frontStat (hr : regAt off = .frontStat) :
    let z := v &&& partMask p
    (s.regWrite src 0 off p v g).front = { s.front with
      stray := s.front.stray && !z.bit 1, noisy := s.front.noisy && !z.bit 2, held := s.front.held && !(z.bit 3 && g)
      parity := s.front.parity && !z.bit 4, recErr := s.front.recErr && !z.bit 5 } :=
  (regWrite_allowed h hr g rfl rfl hs).front

theorem regWrite_frontReca (hr : regAt off = .frontReca) (hq : s.quiet s.owner = true)
    (hz : (Access.merge ⟨none, p, v, g⟩ (s.regVal .frontReca)).bits 5 0 = 0) : (s.regWrite src 0 off p v g).front =
    { s.front with reca := (Access.merge ⟨none, p, v, g⟩ (s.regVal .frontReca)).setWidth 48 } :=
  (regWrite_allowed h hr g rfl rfl (Bool.and_eq_true_iff.2 ⟨Bool.and_eq_true_iff.2 ⟨hs, hq⟩, beq_iff_eq.2 hz⟩)).front

theorem regWrite_frontForce (hr : regAt off = .frontForce) (hq : s.quiet s.owner = true) :
    let w := Access.merge ⟨none, p, v, g⟩ (s.regVal .frontForce)
    (s.regWrite src 0 off p v g).front = { s.front with word := field 16 w 0, arm := w.bit 16 } :=
  (regWrite_allowed h hr g rfl rfl (Bool.and_eq_true_iff.2 ⟨hs, hq⟩)).front

theorem regWrite_frontNum (hr : regAt off = .frontNum) (hq : s.quiet s.owner = true) : (s.regWrite src 0 off p v g).front =
    { s.front with num := (Access.merge ⟨none, p, v, g⟩ (s.regVal .frontNum)).setWidth 32 } :=
  (regWrite_allowed h hr g rfl rfl (Bool.and_eq_true_iff.2 ⟨hs, hq⟩)).front

theorem regWrite_korniBase (hr : regAt off = .korniBase) (hd : s.allDisabled = true) :
    (s.regWrite src 0 off p v g).korni.base = (Access.merge ⟨none, p, v, g⟩ (s.regVal .korniBase)).setWidth 48 :=
  (regWrite_allowed h hr g rfl rfl (Bool.and_eq_true_iff.2 ⟨hs, hd⟩)).base

theorem regWrite_korniStat (hr : regAt off = .korniStat) :
    (s.regWrite src 0 off p v g).korni.lost = (s.korni.lost && !(v &&& partMask p).bit 0) ∧
      (s.regWrite src 0 off p v g).korni.diverged = (s.korni.diverged && !(v &&& partMask p).bit 1) :=
  have f := regWrite_allowed h hr g rfl rfl hs
  ⟨f.lost, f.diverged⟩

theorem regWrite_pwrCtl (hr : regAt off = .pwrCtl) :
    let w := Access.merge ⟨none, p, v, g⟩ (s.regVal .pwrCtl)
    (s.regWrite src 0 off p v g).pwr.en = w.bit 0 ∧ (s.regWrite src 0 off p v g).pwr.minstep = field 5 w 8 := by
  rw [(regWrite_allowed h hr g rfl rfl hs).pwr]
  exact writePwrCtl_pwr _

theorem regWrite_pwrStat (hr : regAt off = .pwrStat) :
    let z := v &&& partMask p
    (s.regWrite src 0 off p v g).pwr = { s.pwr with
      overLim := s.pwr.overLim && !z.bit 14, hot := s.pwr.hot && !z.bit 15, crit := s.pwr.crit && !z.bit 16 } :=
  (regWrite_allowed h hr g rfl rfl hs).pwr

theorem regWrite_errCtl (hr : regAt off = .errCtl) :
    let w := Access.merge ⟨none, p, v, g⟩ (s.regVal .errCtl)
    (s.regWrite src 0 off p v g).err = { s.err with
      scrubEn := w.bit 0, scrubRate := field 4 w 4, thrashN := field 8 w 8, thrashW := field 5 w 16, evtEn := w.bit 24 } :=
  (regWrite_allowed h hr g rfl rfl hs).err

theorem regWrite_errTail (hr : regAt off = .errTail) :
    let w := Access.merge ⟨none, p, v, g⟩ (s.regVal .errTail)
    (s.regWrite src 0 off p v g).err = { s.err with
      tail := if w.toNat ≤ s.err.head.toNat ∧ s.err.head.toNat ≤ w.toNat + 64 then w else s.err.tail } :=
  (regWrite_allowed h hr g rfl rfl hs).err.trans (writeErrTail_err _)

theorem regWrite_secCtl (hr : regAt off = .secCtl) (hl : s.sec.locked = false)
    (hz : (Access.merge ⟨none, p, v, g⟩ (s.regVal .secCtl)).bits 5 0 = s.secureSize) (h32 : s.secureSize ≤ 32) :
    let w := Access.merge ⟨none, p, v, g⟩ (s.regVal .secCtl)
    (s.regWrite src 0 off p v g).sec.secdom = field 8 w 8 ∧ (s.regWrite src 0 off p v g).sec.twmask = field 8 w 16 ∧
      (s.regWrite src 0 off p v g).sec.wiping = s.sec.wiping := by
  have hretired : s.sec.lc = 3 → s.secureSize = 0 := fun hc => if_pos hc
  have hok : (!s.secRefused ⟨some (s.srcDomain src), p, v, g⟩ (Access.merge ⟨none, p, v, g⟩ (s.regVal .secCtl))) = true := by
    have hsup : s.bySuper ⟨some (s.srcDomain src), p, v, g⟩ = true := hs
    simpa [State.secRefused, hl, hz, hsup, h32] using Decidable.not_or_of_imp hretired
  have hsize : (Access.merge ⟨some (s.srcDomain src), p, v, g⟩ (s.regVal .secCtl)).bits 5 0 = s.secureSize := hz
  rw [(regWrite_allowed h hr g rfl rfl hok).sec, if_pos hsize]
  exact ⟨rfl, rfl, rfl⟩

theorem regWrite_secStat (hr : regAt off = .secStat) :
    (s.regWrite src 0 off p v g).sec = { s.sec with wiped := s.sec.wiped && !(v &&& partMask p).bit 4 } :=
  (regWrite_allowed h hr g rfl rfl (Bool.or_eq_true_iff.2 (.inl hs))).sec

/-! The spare map (12 R409 to R411): what the write has read of the tables stands in the values that it goes by. -/

theorem regWrite_spareRet (hr : regAt off = .spare .spareRet) (hd : s.allDisabled = true) (hb : s.glob.bu = 5) :
    (s.regWrite src 0 off p v g).tabVal .spareRet = Access.merge ⟨none, p, v, g⟩ (s.regVal (.spare .spareRet)) := by
  obtain ⟨hsup, hdis, hglob, -⟩ := readFor_fields (s := s) off ⟨some (s.srcDomain src), p, v, g⟩
  have hw := writeSpare_spareRet ((hsup ⟨some (s.srcDomain src), p, v, g⟩).trans hs) (hdis.trans hd) ((congrArg Global.bu hglob).trans hb)
  have f := regWrite_logged h (u := _) (by rw [hr]; exact hw)
  rw [f.tabVal, rehosts_repairDue.tabVal .spareRet nofun nofun nofun, tabVal_putTab_same, tabVal_readFor]
  rfl

theorem regWrite_host (hr : regAt off = .spare .host) (hd : s.allDisabled = true) (hb : s.tabVal .hosted = 0) :
    (s.regWrite src 0 off p v g).tabVal .host = Access.merge ⟨none, p, v, g⟩ (s.regVal (.spare .host)) &&& 0x7F01 := by
  obtain ⟨hsup, hdis, -, -⟩ := readFor_fields (s := s) off ⟨some (s.srcDomain src), p, v, g⟩
  have hw := writeSpare_host ((hsup ⟨some (s.srcDomain src), p, v, g⟩).trans hs) (hdis.trans hd) ((tabVal_readFor _ _ _).trans hb)
  have f := regWrite_logged h (u := _) (by rw [hr]; exact hw)
  rw [f.tabVal, rehosts_repairDue.tabVal .host nofun nofun nofun, tabVal_putTab_same, tabVal_readFor]
  rfl

theorem regWrite_colmap {m : Fin 128} (hr : regAt off = .spare (.colmap m)) (hd : s.allDisabled = true)
    (hb : s.elementTaken m.val (Access.merge ⟨none, p, v, g⟩ (s.regVal (.spare (.colmap m)))) = false) :
    (s.regWrite src 0 off p v g).tabVal (.colmap m) = Access.merge ⟨none, p, v, g⟩ (s.regVal (.spare (.colmap m))) &&& 0x7FFFF := by
  obtain ⟨hsup, hdis, -, helem⟩ := readFor_fields (s := s) off ⟨some (s.srcDomain src), p, v, g⟩
  have hw := writeSpare_colmap (m := m) ((hsup ⟨some (s.srcDomain src), p, v, g⟩).trans hs) (hdis.trans hd)
    (by rw [helem, tabVal_readFor]; exact hb)
  have f := regWrite_logged h (u := _) (by rw [hr]; exact hw)
  rw [f.tabVal, tabVal_recountFree, tabVal_putTab_same, tabVal_readFor]
  rfl

end Super

/-- A bit of eight set or cleared reads as it was written. -/
theorem getLsbD_setBit (x : BitVec 8) (n : Fin 8) (b : Bool) :
    (if b then x ||| BitVec.ofNat 8 (2 ^ n.val) else x &&& ~~~(BitVec.ofNat 8 (2 ^ n.val))).getLsbD n.val = b := by
  have hn : (BitVec.ofNat 8 (2 ^ n.val)).getLsbD n.val = true := by rw [BitVec.getLsbD_ofNat]; simp [Nat.testBit_two_pow_self]
  cases b
  · rw [if_neg Bool.false_ne_true, BitVec.getLsbD_and, BitVec.getLsbD_not, hn]
    simp
  · rw [if_pos rfl, BitVec.getLsbD_or, hn, Bool.or_true]

/-! The registers that a context's own domain writes. -/

section Owner
variable {c : CtxId} (h : s.takesWrite src 0 off p v = true) (ho : s.ownerSrc c src = true)
include h ho

theorem regWrite_gen (hr : regAt off = .gen c) :
    ((s.regWrite src 0 off p v g).ctx c).gen = if (s.ctx c).st = .disabled ∨ (s.ctx c).st = .stopped then
      (Access.merge ⟨none, p, v, g⟩ (s.regVal (.gen c))).setWidth 32 else (s.ctx c).gen := by
  rw [(regWrite_allowed h hr g rfl rfl ho).ctx, State.writeGen, ctx_upCtx_same]
  split <;> rfl

/-- A register of a context that has no rule of its own: the context after the write. -/
theorem regWrite_ctx {k : CtxReg} (hr : regAt off = .ctx c k)
    (hk : s.writeCtx c k ⟨some (s.srcDomain src), p, v, g⟩ =
      allow (Access.from ⟨some (s.srcDomain src), p, v, g⟩ (s.ctxDomain c)) (s.writeCtxReg c k ⟨some (s.srcDomain src), p, v, g⟩)) :
    (s.regWrite src 0 off p v g).ctx c = (s.writeCtxReg c k ⟨some (s.srcDomain src), p, v, g⟩).ctx c :=
  (regWrite_allowed h hr g rfl hk ho).ctx c

theorem regWrite_pc (hr : regAt off = .ctx c .pc) : ((s.regWrite src 0 off p v g).ctx c).pc =
    if (s.ctx c).settled then (Access.merge ⟨none, p, v, g⟩ (s.regVal (.ctx c .pc))).setWidth 48 else (s.ctx c).pc := by
  rw [regWrite_ctx h ho hr rfl, State.writeCtxReg, ctx_upCtx_same]
  dsimp only
  split <;> rfl

theorem regWrite_seed {n : Fin 8} (hr : regAt off = .ctx c (.seed n)) :
    ((s.regWrite src 0 off p v g).ctx c).seeds[n] = Access.merge ⟨none, p, v, g⟩ (s.regVal (.ctx c (.seed n))) := by
  rw [regWrite_ctx h ho hr rfl, State.writeCtxReg, ctx_upCtx_same]
  exact Vector.getElem_set_self _

theorem regWrite_step {n : Fin 8} (hr : regAt off = .ctx c (.step n)) :
    let w := Access.merge ⟨none, p, v, g⟩ (s.regVal (.ctx c (.step n)))
    ((s.regWrite src 0 off p v g).ctx c).steps[n] = w.setWidth 32 ∧
      ((s.regWrite src 0 off p v g).ctx c).autos.getLsbD n.val = w.bit 32 := by
  rw [regWrite_ctx h ho hr rfl, State.writeCtxReg, ctx_upCtx_same]
  refine ⟨Vector.getElem_set_self _, ?_⟩
  exact getLsbD_setBit _ n _

theorem regWrite_lcnt {n : Fin 4} (hr : regAt off = .ctx c (.lcnt n)) : ((s.regWrite src 0 off p v g).ctx c).lcnt[n] =
    if (s.ctx c).settled then (Access.merge ⟨none, p, v, g⟩ (s.regVal (.ctx c (.lcnt n)))).setWidth 32 else (s.ctx c).lcnt[n] := by
  rw [regWrite_ctx h ho hr rfl, State.writeCtxReg, ctx_upCtx_same]
  dsimp only
  split
  · exact Vector.getElem_set_self _
  · rfl

end Owner

end Sys2Proof.Machine
end

section
/-! Register reads (00 R10, R11; 16 R478). -/

namespace Sys2Proof.Machine

variable {s : State} {src : Source} {o : BitVec 24} {p : Part} {r : Reg}

/-! What stands before a read returns. -/

theorem beforeRead_table {t : TabReg} (h : r.tab = some t) : s.beforeRead r = s.compare t := by
  unfold State.beforeRead
  split
  · cases h
  · rw [h]

/-- A read of a register outside the tables and the telemetry finds the state as it stands. -/
theorem beforeRead_plain (h : r.tab = none) (ht : ∀ n, r ≠ .tel n) : s.beforeRead r = s := by
  unfold State.beforeRead
  split
  · exact absurd rfl (ht _)
  · rw [h]

theorem beforeRead_frozen (n : Fin 16) (h : s.tel.freeze = true) : s.beforeRead (.tel n) = s := if_pos h

/-- A register of a table reads as the value of its copies. -/
theorem regVal_table {t : TabReg} (h : r.tab = some t) : s.regVal r = s.tabVal t := by
  cases r with
  | fmtLo n =>
    simp only [Reg.tab, Option.ite_none_left_eq_some, Option.some.injEq] at h
    obtain ⟨hn, rfl⟩ := h
    exact if_neg hn
  | curve q => cases h; rfl
  | spare q => cases h; rfl
  | _ => cases h

/-- What a read does before it returns changes no value but that of a counter of timing. -/
theorem regVal_beforeRead (h : (∀ n, r ≠ .tel n) ∨ s.tel.freeze = true) : (s.beforeRead r).regVal r = s.regVal r := by
  cases ht : r.tab with
  | some t => rw [beforeRead_table ht, regVal_table ht, regVal_table ht, tabVal_compare]
  | none =>
    by_cases hn : ∃ n, r = .tel n
    · obtain ⟨n, rfl⟩ := hn
      rw [beforeRead_frozen n (h.resolve_left fun hn => hn n rfl)]
    · rw [beforeRead_plain ht fun n e => hn ⟨n, e⟩]

/-- Open advances of counters of timing change these counters, and the number of the next open value. -/
theorem foldl_tallyFree_spec (l : List Nat) (s : State) : ∃ cs f, l.foldl State.tallyFree s = { s with tel := { s.tel with counts := cs }, freeCtr := f } ∧
    ∀ n, n ∉ l → cs[n]? = s.tel.counts[n]? := by
  induction l generalizing s with
  | nil => exact ⟨_, _, rfl, fun _ _ => rfl⟩
  | cons k r ih =>
    obtain ⟨cs, f, h, hc⟩ := ih (s.tallyFree k)
    refine ⟨cs, f, h, fun n hn => ?_⟩
    rw [List.mem_cons, not_or] at hn
    rw [hc n hn.2]
    exact Vector.getElem?_setIfInBounds_ne (Ne.symm hn.1)

/-- The counters that work has not advanced stand when the others are brought up to date (log 16). -/
theorem regVal_telRefresh {n : Fin 16} (hf : s.tel.freeze = false) (hn : n.val ∉ s.timesDue) : s.telRefresh.regVal (.tel n) = s.regVal (.tel n) := by
  obtain ⟨c, f, h, hc⟩ := foldl_tallyFree_spec s.timesDue s
  simp only [State.telRefresh, h, State.regVal, hf, hc n.val hn]

theorem telRefresh_freeze : s.telRefresh.tel.freeze = s.tel.freeze := by
  obtain ⟨c, f, h, -⟩ := foldl_tallyFree_spec s.timesDue s
  simp only [State.telRefresh, h]

/-! What a read clears, where the half that it returns decides (16 R478). -/

theorem clearOnRead_dbgStat (d : BitVec 8) : s.clearOnRead .dbgStat p d =
    { s with dbg := { s.dbg with drops := if coversLow p then 0 else s.dbg.drops } } := by
  unfold State.clearOnRead
  dsimp only
  split <;> rfl

theorem clearOnRead_portStat (d : BitVec 8) : s.clearOnRead .portStat p d =
    { s with felt := { s.felt with retries := if coversHigh p then 0 else s.felt.retries } } := by
  unfold State.clearOnRead
  dsimp only
  split <;> rfl

theorem clearOnRead_pwrBlk (d : BitVec 8) : s.clearOnRead .pwrBlk p d =
    { s with pwr := { s.pwr with overs := if coversHigh p then 0 else s.pwr.overs } } := by
  unfold State.clearOnRead
  dsimp only
  split <;> rfl

theorem clearOnRead_secStat (d : BitVec 8) : s.clearOnRead .secStat p d =
    { s with sec := { s.sec with wipes := if coversLow p && (s.fromSuper d || d == s.sec.secdom) then 0 else s.sec.wipes } } := by
  unfold State.clearOnRead
  dsimp only
  split <;> rfl

/-! RSC_READ. -/

section Read
variable (hup : s.up = true) (h8 : o.toNat % 8 = 0) (hw : s.idWaits src 0 = false)
include hup h8 hw

theorem exec_rscRead_refused (hm : s.mayRead (regAt o.toNat) (s.srcDomain src) = false) :
    exec (.rscRead src o p) s = .next (s.answerRead src true o.toNat p []) := by
  have hr : s.readReg (s.srcDomain src) o.toNat p = none := by simp [State.readReg, h8, hm]
  refine (whenUp_up hup).trans ?_
  rw [hw, hr]
  rfl

theorem exec_rscRead_read (hm : s.mayRead (regAt o.toNat) (s.srcDomain src) = true) :
    exec (.rscRead src o p) s = .next (((s.beforeRead (regAt o.toNat)).clearOnRead (regAt o.toNat) p (s.srcDomain src)).answerRead src false
      o.toNat p (partBytes p ((s.beforeRead (regAt o.toNat)).regVal (regAt o.toNat)))) := by
  have hr : s.readReg (s.srcDomain src) o.toNat p = some (partBytes p ((s.beforeRead (regAt o.toNat)).regVal (regAt o.toNat)),
      (s.beforeRead (regAt o.toNat)).clearOnRead (regAt o.toNat) p (s.srcDomain src)) := by
    simp [State.readReg, h8, hm]
  refine (whenUp_up hup).trans ?_
  rw [hw, hr]
  rfl

end Read

/-! The bytes of a register in the beat of its response. -/

@[simp] theorem length_leBytes (n v : Nat) : (leBytes n v).length = n := by
  induction n generalizing v with
  | zero => rfl
  | succ n ih => simp [leBytes, ih]

/-- Eight bytes at a place that is a multiple of 8 fill the lanes of one beat. -/
theorem readLanes_beat (k : Nat) {a : Nat} {bs : List Byte} (ha : a % 8 = 0) (hb : bs.length = 8) : readLanes k a 8 bs = bs := by
  refine List.ext_getElem (by simp [readLanes, beatCount, ha, hb]) fun i h1 h2 => ?_
  simp [readLanes, ha, h2]

theorem respondRead_beat (id : BitVec 4) {a : Nat} {bs : List Byte} (ha : a % 8 = 0) (hb : bs.length = 8) :
    (s.respondRead id false a 8 bs).resp = s.resp ++ [⟨id, false, [⟨bs, true⟩]⟩] := by
  have hc : beatCount a 8 = 1 := by simp [beatCount, ha]
  unfold State.respondRead
  rw [hc, if_neg Bool.false_ne_true, readLanes_beat _ ha hb]
  simp [State.respond, beatsOf, List.take_of_length_le (Nat.le_of_eq hb)]

end Sys2Proof.Machine
end

section
/-! Register accesses as a whole: the two outcomes of a write with each register's effect, and reads. -/

namespace Sys2Proof.Machine

/-- Settles O50, register by register: the writes' outcomes, their effects, the reads, and the read of CK_ERR_CNT. -/
theorem registerAccess : Obligations.RegisterAccess := by
  unfold Obligations.RegisterAccess
  refine ⟨?_, ?_, ?_, ?_⟩
  · intro s src off p v g h
    refine ⟨?_, readFor_none _, fun u hu => ?_, fun hr => ?_⟩
    · obtain ⟨tab, l, d, hb⟩ := readFor_spec (s := s) off.toNat ⟨some (s.srcDomain src), p, v, g⟩
      exact ⟨tab, l, d, hb, tabVal_readFor _ _⟩
    · rw [exec_registerWrite h, regWrite_written h hu]
    · rw [exec_registerWrite h, regWrite_refused h hr]
  · intro s src off p v g h
    refine ⟨_, exec_registerWrite h, fun hs => ?_, ?_⟩
    · generalize hr : regAt off.toNat = r
      cases r with
      | feltCtl => exact regWrite_feltCtl h hs hr
      | park n => exact regWrite_park h hs hr
      | miss => exact regWrite_miss h hs hr
      | portStat => exact regWrite_portStat h hs hr
      | sbStat => exact regWrite_sbStat h hs hr
      | dbgCtl => exact regWrite_dbgCtl h hs hr
      | frontCfg => exact regWrite_frontCfg h hs hr
      | frontDly => exact regWrite_frontDly h hs hr
      | frontStat => exact regWrite_frontStat h hs hr
      | frontReca => exact regWrite_frontReca h hs hr
      | frontForce => exact regWrite_frontForce h hs hr
      | frontNum => exact regWrite_frontNum h hs hr
      | korniBase => exact regWrite_korniBase h hs hr
      | korniStat => exact regWrite_korniStat h hs hr
      | pwrCtl => exact regWrite_pwrCtl h hs hr
      | pwrStat => exact regWrite_pwrStat h hs hr
      | errCtl => exact regWrite_errCtl h hs hr
      | errTail => exact regWrite_errTail h hs hr
      | spare t =>
        cases t with
        | spareRet => exact regWrite_spareRet h hs hr
        | host => exact regWrite_host h hs hr
        | colmap m => exact regWrite_colmap h hs hr
        | _ => exact trivial
      | secCtl => exact regWrite_secCtl h hs hr
      | secStat => exact regWrite_secStat h hs hr
      | _ => exact trivial
    · generalize hr : regAt off.toNat = r
      cases r with
      | gen c => exact fun ho => regWrite_gen h ho hr
      | ctx c k =>
        cases k with
        | pc => exact fun ho => regWrite_pc h ho hr
        | seed n => exact fun ho => regWrite_seed h ho hr
        | step n => exact fun ho => regWrite_step h ho hr
        | lcnt n => exact fun ho => regWrite_lcnt h ho hr
        | _ => exact fun _ => trivial
      | _ => exact trivial
  · intro s src off p hup h8 hw
    refine ⟨exec_rscRead_refused hup h8 hw, fun hm ht => ?_, fun n hm hn hf => ?_⟩
    · refine ⟨_, (exec_rscRead_read hup h8 hw hm).trans (by rw [regVal_beforeRead ht]), ?_⟩
      generalize regAt off.toNat = r
      cases r with
      | ctx c k => cases k <;> rfl
      | dbgStat => exact clearOnRead_dbgStat _
      | portStat => exact clearOnRead_portStat _
      | pwrBlk => exact clearOnRead_pwrBlk _
      | secStat => exact clearOnRead_secStat _
      | _ => rfl
    · have hb : s.beforeRead (.tel n) = s.telRefresh := by simp [State.beforeRead, hf]
      refine ⟨s.telRefresh, ?_, telRefresh_freeze.trans hf, fun hd => ?_⟩
      · rw [exec_rscRead_read hup h8 hw hm, hn, hb]
        rfl
      · rw [hn, regVal_telRefresh hf hd]
  · intro s d hup hw
    have hr : regAt (0x8018 : BitVec 24).toNat = .errCnt := by decide
    have hread := exec_rscRead_read (src := .eddy d) (o := 0x8018) (p := .whole) hup rfl hw (by rw [hr]; rfl)
    rw [hr] at hread
    refine ⟨_, _, hread, respondRead_beat 0 (by decide) (length_leBytes 8 _), rfl, rfl, rfl, ?_⟩
    show fieldWord [(0, 0), (0, 16), (0, 32)] = 0
    decide

end Sys2Proof.Machine
end

section
/-! Byte stores in any form: what a write leaves does not rest on the store being canonical; and the runs of consecutive bytes that an
eddy write is cut into (11 R381). -/

namespace Sys2Proof.Machine

section Get
variable {α : Type} {d : α}

theorem spGet_cons (q : Nat × α) (m : List (Nat × α)) (b : Nat) :
    spGet d (q :: m) b = if b = q.1 then q.2 else if b < q.1 then d else spGet d m b := rfl

/-- Two stores one after the other, of which the second lists nothing below `k`. -/
theorem spGet_append_above {x y : List (Nat × α)} {k : Nat} (hx : ∀ p ∈ x, p.1 < k) (hy : ∀ b, b < k → spGet d y b = d) (b : Nat) :
    spGet d (x ++ y) b = if b < k then spGet d x b else spGet d y b := by
  induction x with
  | nil =>
    split
    · exact hy b ‹_›
    · rfl
  | cons q r ih =>
    have hq := hx q (List.mem_cons_self ..)
    rw [List.cons_append, spGet_cons, ih fun p hp => hx p (List.mem_cons_of_mem _ hp), spGet_cons]
    by_cases hb : b < k
    · simp only [if_pos hb]
    · rw [if_neg hb, if_neg (by omega), if_neg (by omega), if_neg hb]

theorem spGet_spBelow {m : List (Nat × α)} {a b : Nat} (lt : b < a) : spGet d (spBelow m a) b = spGet d m b := by
  induction m with
  | nil => rfl
  | cons q r ih =>
    unfold spBelow
    split
    · rw [spGet_cons, spGet_cons, ih]
    · rw [spGet_cons, if_neg (by omega), if_pos (by omega)]
      rfl

theorem spGet_spFrom_below {m : List (Nat × α)} {a b : Nat} (lt : b < a) : spGet d (spFrom m a) b = d := by
  induction m with
  | nil => rfl
  | cons q r ih =>
    unfold spFrom
    split
    · exact ih
    · rw [spGet_cons, if_neg (by omega), if_pos (by omega)]

theorem spGet_spFrom {m : List (Nat × α)} {a b : Nat} (le : a ≤ b) : spGet d (spFrom m a) b = spGet d m b := by
  induction m with
  | nil => rfl
  | cons q r ih =>
    unfold spFrom
    split
    · rw [ih, spGet_cons, if_neg (by omega), if_neg (by omega)]
    · rfl

end Get

/-- What a byte store holds after a write, whatever its form. -/
theorem byteAt_write (m : Bytes) (a : Nat) (bs : List Byte) (b : Nat) :
    byteAt (putBytes m a bs) b = if a ≤ b ∧ b < a + bs.length then bs.getD (b - a) 0 else byteAt m b := by
  have hfrom : ∀ x, x < a + bs.length → spGet 0 (spFrom m (a + bs.length)) x = 0 := fun x hx => spGet_spFrom_below hx
  have hrun : ∀ x, x < a → spGet 0 (spRun 0 a bs ++ spFrom m (a + bs.length)) x = 0 := by
    intro x hx
    rw [spGet_append_above (spRun_lt a bs) hfrom, if_pos (by omega), spGet_run, if_neg (by omega)]
  unfold byteAt putBytes spWrite
  rw [spGet_append_above spBelow_lt hrun]
  by_cases h1 : b < a
  · rw [if_pos h1, if_neg (by omega), spGet_spBelow h1]
  · rw [if_neg h1, spGet_append_above (spRun_lt a bs) hfrom]
    by_cases h2 : b < a + bs.length
    · rw [if_pos h2, if_pos (by omega), spGet_run, if_pos (by omega)]
    · rw [if_neg h2, if_neg (by omega), spGet_spFrom (by omega)]

theorem bytesAt_eq_map (m : Bytes) (a n : Nat) : bytesAt m a n = (List.range n).map fun i => byteAt m (a + i) := by
  unfold bytesAt spRead
  exact List.map_congr_left fun i _ => spGet_spFrom (Nat.le_add_right a i)

/-! Runs of consecutive bytes. -/

/-- The runs hold the numbers that they were cut from, in their order. -/
theorem flatMap_byteRuns (l : List Nat) : (byteRuns l).flatMap (fun r => List.range' r.1 r.2) = l := by
  induction l with
  | nil => rfl
  | cons k r ih =>
    unfold byteRuns
    split
    · rename_i j n t ht
      rw [ht, List.flatMap_cons] at ih
      split
      · rename_i hj
        rw [List.flatMap_cons, List.range'_succ, ← hj, List.cons_append, ih]
      · rw [List.flatMap_cons, List.flatMap_cons, ih]
        rfl
    · rename_i hn
      rw [hn] at ih
      rw [← ih]
      rfl

/-- A run begins with one of the numbers. -/
theorem byteRuns_start {l : List Nat} : ∀ r ∈ byteRuns l, r.1 ∈ l := by
  induction l with
  | nil => exact fun _ h => absurd h List.not_mem_nil
  | cons k t ih =>
    unfold byteRuns
    split
    · rename_i j n u hu
      rw [hu] at ih
      split
      all_goals
        intro r hr
        rcases List.mem_cons.1 hr with rfl | hr
        · exact List.mem_cons_self ..
      · exact List.mem_cons_of_mem _ (ih r (List.mem_cons_of_mem _ hr))
      · exact List.mem_cons_of_mem _ (ih r hr)
    · intro r hr
      rw [List.mem_singleton.1 hr]
      exact List.mem_cons_self ..

/-- Consecutive numbers make one run. -/
theorem byteRuns_range' (k n : Nat) : byteRuns (List.range' k (n + 1)) = [(k, n + 1)] := by
  induction n generalizing k with
  | zero => rfl
  | succ n ih =>
    rw [List.range'_succ, byteRuns, ih]
    exact if_pos rfl

/-- The bytes of a function of the place, written run by run from `b` on: those of the runs have it, and the others stand. -/
theorem byteAt_foldl_runs (f : Nat → Byte) (b : Nat) (rs : List (Nat × Nat)) (m : Bytes) (x : Nat) :
    byteAt (rs.foldl (fun m r => putBytes m (b + r.1) ((List.range r.2).map fun i => f (r.1 + i))) m) (b + x) =
      if x ∈ rs.flatMap (fun r => List.range' r.1 r.2) then f x else byteAt m (b + x) := by
  induction rs generalizing m with
  | nil => rfl
  | cons r t ih =>
    rw [List.foldl_cons, ih, byteAt_write]
    have hr : x ∈ List.range' r.1 r.2 ↔ r.1 ≤ x ∧ x < r.1 + r.2 := List.mem_range'_1
    by_cases ht : x ∈ t.flatMap (fun r => List.range' r.1 r.2)
    · rw [if_pos ht, if_pos (by rw [List.flatMap_cons]; exact List.mem_append_right _ ht)]
    · have hm : x ∈ (r :: t).flatMap (fun r => List.range' r.1 r.2) ↔ r.1 ≤ x ∧ x < r.1 + r.2 := by
        rw [List.flatMap_cons, List.mem_append, hr, or_iff_left ht]
      rw [if_neg ht]
      by_cases hx : r.1 ≤ x ∧ x < r.1 + r.2
      · have hi : x - r.1 < r.2 := by omega
        rw [if_pos (by simp; omega), if_pos (hm.2 hx), show b + x - (b + r.1) = x - r.1 by omega]
        simp [hi, show r.1 + (x - r.1) = x by omega]
      · rw [if_neg (by simp; omega), if_neg fun h => hx (hm.1 h)]

/-- Bytes before `b` stand. -/
theorem byteAt_foldl_runs_below (f : Nat → Byte) {b x : Nat} (h : x < b) (rs : List (Nat × Nat)) (m : Bytes) :
    byteAt (rs.foldl (fun m r => putBytes m (b + r.1) ((List.range r.2).map fun i => f (r.1 + i))) m) x = byteAt m x := by
  induction rs generalizing m with
  | nil => rfl
  | cons r t ih => rw [List.foldl_cons, ih, byteAt_write, if_neg (by omega)]

end Sys2Proof.Machine
end

section
/-! Eddy writes (11 R381, R382; 12 R398): the bytes of a command, where they lie, and what the stores hold after them. -/

namespace Sys2Proof.Machine

variable {s t : State} {k : EddyCmd}

/-! The map (R350, R351). -/

theorem placeOf_seq {a : Nat} (h : a < 0x40000000) : placeOf a = .seq := if_pos h
theorem placeOf_vat {a : Nat} (h0 : 0x40000000 ≤ a) (h1 : a < 0x48000000) : placeOf a = .vat := by
  rw [placeOf, if_neg (by omega), if_pos h1]
theorem placeOf_window {a : Nat} (h0 : 0x80000000 ≤ a) (h1 : a < 0x81000000) : placeOf a = .window := by
  rw [placeOf, if_neg (by omega), if_neg (by omega), if_pos ⟨h0, h1⟩]
theorem placeOf_chip {a : Nat} (h : 0x100000000 ≤ a) : placeOf a = .chip := by
  rw [placeOf, if_neg (by omega), if_neg (by omega), if_neg (by omega), if_pos h]
theorem placeOf_miss {a : Nat} (h : 0x48000000 ≤ a ∧ a < 0x80000000 ∨ 0x81000000 ≤ a ∧ a < 0x100000000) : placeOf a = .miss := by
  rw [placeOf, if_neg (by omega), if_neg (by omega), if_neg (by omega), if_neg (by omega)]

/-- The place `j` bytes on in the same row of the map. -/
def SeqPlace.shift (x : SeqPlace) (j : Nat) : SeqPlace :=
  match x with
  | .rom i => .rom (i + j)
  | .ram i => .ram (i + j)
  | .miss => .miss

/-- The bytes of one 64-byte block of sequencer space stand in one row of the map. -/
theorem seqPlace_add {a j : Nat} (hj : a % 64 + j < 64) : s.seqPlace (a + j) = (s.seqPlace a).shift j := by
  have h1 : a + j < 0x10000 ↔ a < 0x10000 := by omega
  have h2 : a + j < 0x40000 ↔ a < 0x40000 := by omega
  have h3 : (0x100000 ≤ a + j ∧ a + j < 0x110000) ↔ (0x100000 ≤ a ∧ a < 0x110000) := by omega
  have h4 : (0x200000 ≤ a + j ∧ a + j < 0x240000) ↔ (0x200000 ≤ a ∧ a < 0x240000) := by omega
  unfold State.seqPlace
  simp only [h1, h2, h3, h4]
  by_cases hlow : a < 0x10000
  · rw [if_pos hlow, if_pos hlow]
    cases s.felt.remap <;> rfl
  rw [if_neg hlow, if_neg hlow]
  by_cases hhigh : a < 0x40000
  · rw [if_pos hhigh, if_pos hhigh]
    cases s.felt.remap <;> rfl
  rw [if_neg hhigh, if_neg hhigh]
  by_cases hrom : 0x100000 ≤ a ∧ a < 0x110000
  · rw [if_pos hrom, if_pos hrom, Nat.sub_add_comm hrom.1]
    rfl
  rw [if_neg hrom, if_neg hrom]
  by_cases hram : 0x200000 ≤ a ∧ a < 0x240000
  · rw [if_pos hram, if_pos hram, Nat.sub_add_comm hram.1]
    rfl
  · rw [if_neg hram, if_neg hram]
    rfl

/-- A slot of the hosting reserve holds whole 64-byte blocks. -/
theorem hostedAt_add {o j : Nat} (hj : o % 64 + j < 64) : s.hostedAt (o + j) = (s.hostedAt o).map (· + j) := by
  have h1 : (o + j) / 0x100000 = o / 0x100000 := by omega
  have h2 : (o + j) / 0x40000 = o / 0x40000 := by omega
  have h3 : (o + j) % 0x40000 = o % 0x40000 + j := by omega
  unfold State.hostedAt
  rw [h1, h2, h3]
  split
  · simp [Function.comp_def, Nat.add_assoc]
  · rfl

/-! The enabled bytes. -/

theorem mem_enabledOf {a n j : Nat} {be : List Bool} : j ∈ enabledOf a n be ↔ j < n ∧ be.getD (a % 8 + j) false = true := by
  simp [enabledOf]

/-- A write with every byte of its range enabled is one piece. -/
theorem pieces_whole (hn : 0 < k.n) (hbe : ∀ j, j < k.n → k.be.getD (k.addr % 8 + j) false = true)
    (hd : k.addr % 8 + k.n ≤ k.data.length) : k.pieces = [(k.addr, (k.data.drop (k.addr % 8)).take k.n)] := by
  obtain ⟨m, hm⟩ : ∃ m, k.n = m + 1 := ⟨k.n - 1, by omega⟩
  have he : enabledOf k.addr k.n k.be = List.range' 0 (m + 1) := by
    rw [enabledOf, List.filter_eq_self.2 fun j hj => hbe j (List.mem_range.1 hj), hm, List.range_eq_range']
  have hb : ((List.range k.n).map fun i => beatByte k.addr k.data i) = (k.data.drop (k.addr % 8)).take k.n := by
    refine List.ext_getElem (by simp; omega) fun i h1 h2 => ?_
    have hi : k.addr % 8 + i < k.data.length := by simp at h1; omega
    simp [beatByte, hi]
  rw [EddyCmd.pieces, he, byteRuns_range', List.map_singleton]
  simp only [Nat.zero_add, Nat.add_zero]
  rw [← hm, hb]

/-- The beats of a command hold all its bytes. -/
theorem le_eddyBeats (addr : BitVec 48) (len : BitVec 6) : addr.toNat % 8 + (len.toNat + 1) ≤ eddyBeats addr len := by
  unfold eddyBeats
  omega

/-! Records. -/

theorem recordAll_spec {ps : List (Nat × List Byte)} (h : s.recordAll ps = some t) : ∃ x, t = { s with korni := x } := by
  induction ps generalizing s with
  | nil =>
    cases h
    exact ⟨_, rfl⟩
  | cons p r ih =>
    unfold State.recordAll at h
    split at h
    · obtain ⟨x, hx⟩ := ih h
      obtain ⟨y, hy⟩ := korniPut_spec (s := s) 0x03 0 p.2.length (writePayload p.1 p.2)
      exact ⟨x, by rw [hx, hy]⟩
    · cases h

/-- Outside record mode nothing is recorded, and nothing waits for room. -/
theorem recordAll_off (h : s.recording = false) (ps : List (Nat × List Byte)) : s.recordAll ps = some s := by
  induction ps with
  | nil => rfl
  | cons p r ih =>
    rw [State.recordAll, if_pos (by simp [State.korniRoom, h]), korniPut_off h, ih]

theorem recording_of_mode (h : s.korni.mode = 0) : s.recording = false := by simp [State.recording, h]

/-! What the pieces of a write leave. -/

/-- Every piece writes its bytes of one store: `get` reads the store of a state, `b` is where the command begins in it, and `ok` tells the
states between the pieces. -/
theorem foldl_pieces {get : State → Bytes} {b : Nat} {ok : State → Prop}
    (step : ∀ s j bs, ok s → j ∈ enabledOf k.addr k.n k.be →
      ok (s.pokeBytes (k.addr + j) bs) ∧ get (s.pokeBytes (k.addr + j) bs) = putBytes (get s) (b + j) bs) (h : ok s) :
    ok (k.pieces.foldl (fun s p => s.pokeBytes p.1 p.2) s) ∧ get (k.pieces.foldl (fun s p => s.pokeBytes p.1 p.2) s) =
      (byteRuns (enabledOf k.addr k.n k.be)).foldl
        (fun m r => putBytes m (b + r.1) ((List.range r.2).map fun i => beatByte k.addr k.data (r.1 + i))) (get s) := by
  have gen : ∀ (rs : List (Nat × Nat)) (s : State), ok s → (∀ r ∈ rs, r.1 ∈ enabledOf k.addr k.n k.be) →
      ok ((rs.map fun r => (k.addr + r.1, (List.range r.2).map fun i => beatByte k.addr k.data (r.1 + i))).foldl
        (fun s p => s.pokeBytes p.1 p.2) s) ∧
      get ((rs.map fun r => (k.addr + r.1, (List.range r.2).map fun i => beatByte k.addr k.data (r.1 + i))).foldl
        (fun s p => s.pokeBytes p.1 p.2) s) =
        rs.foldl (fun m r => putBytes m (b + r.1) ((List.range r.2).map fun i => beatByte k.addr k.data (r.1 + i))) (get s) := by
    intro rs
    induction rs with
    | nil => exact fun s h _ => ⟨h, rfl⟩
    | cons r t ih =>
      intro s h hr
      obtain ⟨h1, h2⟩ := step s r.1 ((List.range r.2).map fun i => beatByte k.addr k.data (r.1 + i)) h (hr r (List.mem_cons_self ..))
      have := ih _ h1 fun q hq => hr q (List.mem_cons_of_mem _ hq)
      rw [h2] at this
      exact this
  exact gen _ s h byteRuns_start

/-- The store after the pieces: the enabled bytes of the command have those of its beats, and every other byte stands. -/
theorem byteAt_pieces {m m' : Bytes} {b : Nat} (h : m' = (byteRuns (enabledOf k.addr k.n k.be)).foldl
      (fun m r => putBytes m (b + r.1) ((List.range r.2).map fun i => beatByte k.addr k.data (r.1 + i))) m) :
    (∀ j, j < k.n → byteAt m' (b + j) =
      if k.be.getD (k.addr % 8 + j) false then k.data.getD (k.addr % 8 + j) 0 else byteAt m (b + j)) ∧
    ∀ x, x < b ∨ b + k.n ≤ x → byteAt m' x = byteAt m x := by
  constructor
  · intro j hj
    rw [h, byteAt_foldl_runs, flatMap_byteRuns]
    by_cases hb : k.be.getD (k.addr % 8 + j) false = true
    · rw [if_pos (mem_enabledOf.2 ⟨hj, hb⟩), if_pos hb]
      rfl
    · rw [if_neg fun hm => hb (mem_enabledOf.1 hm).2, if_neg hb]
  · intro x hx
    by_cases hlt : x < b
    · rw [h, byteAt_foldl_runs_below _ hlt]
    · obtain ⟨j, rfl⟩ : ∃ j, x = b + j := ⟨x - b, by omega⟩
      rw [h, byteAt_foldl_runs, flatMap_byteRuns, if_neg fun hm => by have := (mem_enabledOf.1 hm).1; omega]

end Sys2Proof.Machine
end

section
/-! The tests of an eddy command in order (11 R382), and what the protection's reports do (12 R391). -/

namespace Sys2Proof.Machine

variable {s t : State} {k : EddyCmd}

/-! Responses. -/

/-- An error response adds to the responses and takes a number of open contents at most. -/
theorem errorTo_spec (k : EddyCmd) (s : State) : ∃ r n, k.errorTo s = { s with resp := r, freeCtr := n } := by
  unfold EddyCmd.errorTo
  split
  · exact ⟨_, _, rfl⟩
  · exact ⟨_, _, rfl⟩

theorem respondRead_resp (id : BitVec 4) (e : Bool) (a n : Nat) (bs : List Byte) (hr : t.resp = s.resp) (hc : t.freeCtr = s.freeCtr) :
    (t.respondRead id e a n bs).resp = (s.respondRead id e a n bs).resp := by
  unfold State.respondRead
  rw [hc]
  exact congrArg (· ++ _) hr

theorem respondWrite_resp (id : BitVec 4) (e : Bool) (hr : t.resp = s.resp) :
    (t.respondWrite id e).resp = (s.respondWrite id e).resp := congrArg (· ++ _) hr

theorem errorTo_resp (k : EddyCmd) (hr : t.resp = s.resp) (hc : t.freeCtr = s.freeCtr) : (k.errorTo t).resp = (k.errorTo s).resp := by
  unfold EddyCmd.errorTo
  split
  · exact respondWrite_resp _ _ hr
  · exact respondRead_resp _ _ _ _ _ hr hc

/-! The tests. -/

theorem eddy_full (h : s.eddyFull = true) : s.eddy k = s := if_pos h

/-- An identifier above 11, a 64-byte line crossed, or an address of chip memory. -/
theorem eddy_refused (hf : s.eddyFull = false) (h : 12 ≤ k.id.toNat ∨ 64 < k.addr % 64 + k.n ∨ 2 ^ 32 ≤ k.addr) : s.eddy k = k.errorTo s := by
  unfold State.eddy
  rw [if_neg (by simp [hf])]
  by_cases h1 : 12 ≤ k.id.toNat ∨ 64 < k.addr % 64 + k.n
  · rw [if_pos h1]
  · rw [if_neg h1, if_pos (placeOf_chip (by omega))]

/-- The command passes the tests that come before the map. -/
structure State.EddyTakes (s : State) (k : EddyCmd) : Prop where
  full : s.eddyFull = false
  id : k.id.toNat < 12
  line : k.addr % 64 + k.n ≤ 64

theorem State.EddyTakes.notFull (h : s.EddyTakes k) : ¬ s.eddyFull = true := by simp [h.full]

theorem State.EddyTakes.notBarred (h : s.EddyTakes k) : ¬ (12 ≤ k.id.toNat ∨ 64 < k.addr % 64 + k.n) := by
  have := h.id
  have := h.line
  omega

section Place
variable (h : s.EddyTakes k)
include h

theorem eddy_window (h0 : 0x80000000 ≤ k.addr) (h1 : k.addr < 0x81000000) : s.eddy k = s.eddyWindow k := by
  have hp := placeOf_window h0 h1
  unfold State.eddy State.misses
  simp only [h.notFull, h.notBarred, hp, reduceCtorEq, Bool.false_eq_true, if_false]

theorem eddy_vat (h0 : 0x40000000 ≤ k.addr) (h1 : k.addr < 0x48000000) : s.eddy k = s.eddyVat k := by
  have hp := placeOf_vat h0 h1
  unfold State.eddy State.misses
  simp only [h.notFull, h.notBarred, hp, reduceCtorEq, Bool.false_eq_true, if_false]

theorem eddy_seq (h0 : k.addr < 0x40000000) (h1 : s.seqPlace k.addr ≠ .miss) : s.eddy k = s.eddySeq k := by
  have hp := placeOf_seq h0
  have hm : (s.seqPlace k.addr == .miss) = false := beq_false_of_ne h1
  unfold State.eddy State.misses
  simp only [h.notFull, h.notBarred, hp, hm, reduceCtorEq, Bool.false_eq_true, if_false]

/-- A decode miss: it is recorded, and answered as DMZ says (11 R353). -/
theorem eddy_miss (hc : placeOf k.addr ≠ .chip) (hm : s.misses k.addr = true) :
    ∃ f, f.missValid = true ∧ s.eddy k =
      if s.felt.dmz then k.missed { s with felt := f } else k.errorTo { s with felt := f } := by
  have hrec : ∃ f, s.recordMiss (BitVec.ofNat 48 k.addr) k.write false k.dom = { s with felt := f } ∧ f.missValid = true ∧
      f.dmz = s.felt.dmz := by
    unfold State.recordMiss
    split
    · exact ⟨s.felt, rfl, ‹_›, rfl⟩
    · exact ⟨_, rfl, rfl, rfl⟩
  obtain ⟨f, hf, hv, hd⟩ := hrec
  refine ⟨f, hv, ?_⟩
  unfold State.eddy
  rw [if_neg h.notFull, if_neg h.notBarred, if_neg hc, if_pos hm, hf]
  dsimp only
  rw [hd]

end Place

/-! What the protection reports. -/

/-- Where nothing is reported of the bytes of the command it meets nothing. -/
theorem eddyMeets_quiet (h : ∀ w u loc, k.d = .corrected w u loc ∨ k.d = .uncorrectable w u loc → k.hits w loc = false) :
    s.eddyMeets k = (s, false) := by
  unfold State.eddyMeets
  split
  · rfl
  · rename_i w u loc hd
    rw [h w u loc (.inl hd)]
    rfl
  · rename_i w u loc hd
    rw [h w u loc (.inr hd)]
    rfl

theorem eddyReach_quiet (hw : k.write = false)
    (h : ∀ w u loc, k.d = .corrected w u loc ∨ k.d = .uncorrectable w u loc → k.hits w loc = false) (bs : List Byte) :
    s.eddyReach k bs = s.respondRead k.id false k.addr k.n bs := by
  rw [State.eddyReach, if_neg (by simp [hw]), eddyMeets_quiet h]
  rfl

/-- A report of a word among the bytes that the command reads. -/
theorem hits_read {w : Where} {loc : BitVec 48} (hw : k.write = false) (h0 : k.addr ≤ loc.toNat) (h1 : loc.toNat < k.addr + k.n)
    (hp : w = if placeOf k.addr = .vat then .vatOrLane else .sequencerSpace) : k.hits w loc = true := by
  simp [EddyCmd.hits, hw, h0, h1, ← hp]

/-- A logged event counts neither among the corrected nor among the uncorrectable errors. -/
theorem logErr_counts (v : ErrEvent) : (s.logErr v).err.corr = s.err.corr ∧ (s.logErr v).err.uncorr = s.err.uncorr := by
  have traced : ∀ (t : State) a b c d, (t.trace a b c d).err = t.err := fun t a b c d => by
    obtain ⟨x, hx⟩ := trace_spec (s := t) a b c d
    rw [hx]
  unfold State.logErr
  dsimp only
  split
  · exact ⟨rfl, rfl⟩
  · split
    · exact ⟨rfl, rfl⟩
    · rw [traced]
      exact ⟨rfl, rfl⟩

theorem logCorrected_counts (kind unit loc : Nat) :
    ∃ l d, s.logCorrected kind unit loc = { s with err := l, dbg := d } ∧ l.corr = satAdd s.err.corr 1 := by
  obtain ⟨l, d, h⟩ := logCorrected_spec (s := s) kind unit loc
  have hc := (logErr_counts (s := { s with err := { s.err with corr := satAdd s.err.corr 1 } }) ⟨0x01, kind, unit, 0, loc⟩).1
  rw [← State.logCorrected, h] at hc
  exact ⟨l, d, h, hc⟩

theorem logUncorrectable_counts (kind unit loc : Nat) :
    ∃ l d, s.logUncorrectable kind unit loc = { s with err := l, dbg := d } ∧ l.uncorr = satAdd s.err.uncorr 1 := by
  obtain ⟨l, d, h⟩ := logUncorrectable_spec (s := s) kind unit loc
  have hc := (logErr_counts (s := { s with err := { s.err with uncorr := satAdd s.err.uncorr 1 } }) ⟨0x02, kind, unit, 0, loc⟩).2
  rw [← State.logUncorrectable, h] at hc
  exact ⟨l, d, h, hc⟩

/-- The test unit that holds a word of the Vat (01 R29; 09 R292). -/
def macroAt (u : Fin 128) (loc : BitVec 48) : TestUnit :=
  .macroOf (Fin.ofNat 16 u.val) (Fin.ofNat 16 (vatSub (vatOffset loc.toNat) / 16))

/-- The test of such a unit begins, or goes on. -/
theorem startTest_macroAt (u : Fin 128) (loc : BitVec 48) :
    ∃ st, s.startTest (macroAt u loc) = { s with st := st } ∧ st.running.contains (macroAt u loc) = true := by
  unfold State.startTest
  split
  · exact ⟨s.st, rfl, ‹_›⟩
  · exact ⟨_, rfl, by simp⟩

/-- A word of the Vat that is reported is counted and logged, and its unit tested. -/
theorem meetsError_corrected (u : Fin 128) (loc : BitVec 48) : ∃ l d st,
    s.meetsError true .vatOrLane u loc = { s with err := l, dbg := d, st := st } ∧ l.corr = satAdd s.err.corr 1 ∧
      st.running.contains (macroAt u loc) = true := by
  obtain ⟨l, d, hl, hc⟩ := logCorrected_counts (s := s) (testKind (macroAt u loc)) (testNumber (macroAt u loc)) loc.toNat
  obtain ⟨st, ht, hr⟩ := startTest_macroAt (s := { s with err := l, dbg := d }) u loc
  exact ⟨l, d, st, (congrArg (State.startTest · (macroAt u loc)) hl).trans ht, hc, hr⟩

theorem meetsError_uncorrectable (u : Fin 128) (loc : BitVec 48) : ∃ l d st,
    s.meetsError false .vatOrLane u loc = { s with err := l, dbg := d, st := st } ∧ l.uncorr = satAdd s.err.uncorr 1 ∧
      st.running.contains (macroAt u loc) = true := by
  obtain ⟨l, d, hl, hc⟩ := logUncorrectable_counts (s := s) (testKind (macroAt u loc)) (testNumber (macroAt u loc)) loc.toNat
  obtain ⟨st, ht, hr⟩ := startTest_macroAt (s := { s with err := l, dbg := d }) u loc
  exact ⟨l, d, st, (congrArg (State.startTest · (macroAt u loc)) hl).trans ht, hc, hr⟩

/-- A word of sequencer space is counted and logged; it has no unit to test. -/
theorem meetsError_seq (u : Fin 128) (loc : BitVec 48) : ∃ l d,
    s.meetsError false .sequencerSpace u loc = { s with err := l, dbg := d } ∧ l.uncorr = satAdd s.err.uncorr 1 :=
  logUncorrectable_counts 9 0 loc.toNat

end Sys2Proof.Machine
end

section
/-! Eddy accesses of the Vat and of sequencer space (11 R351, R353; 12 R391, R392, R398, R406; 14 R444, R453). -/

namespace Sys2Proof.Machine

variable {s t : State} {k : EddyCmd}

/-! The registers that describe a segment. -/

/-- The copies of an entry of the column map: its register's, and past the map's end none that disagree. -/
theorem colmap_vote (m : Nat) : ((s.tab.colmap[m]?).getD {}).vote =
    if h : m < 128 then ((TabReg.colmap ⟨m, h⟩).get s.tab).vote else Trip.vote {} := by
  split
  · rename_i h
    simp [TabReg.get, h]
  · rename_i h
    simp [h]

/-- A reading of table registers takes none out of agreement, and puts none into it that has no majority. -/
theorem vatMapBad_compareAll (rs : List TabReg) (g : Nat) : (s.compareAll rs).vatMapBad g = s.vatMapBad g := by
  have hh : (s.compareAll rs).hostBad = s.hostBad := congrArg Option.isNone (vote_compareAll .host rs)
  have hc : (s.compareAll rs).colmapBad g = s.colmapBad g := by
    simp only [State.colmapBad, colmap_vote, vote_compareAll]
  rw [State.vatMapBad, hh, hc, ← State.vatMapBad]

/-- Where each register of a segment has a majority none is bad. -/
theorem vatMapBad_of_votes {g : Nat} (hg : g < 16) (h : ∀ r ∈ TabReg.host :: segmentRegs g, ((r.get s.tab).vote).isSome = true) :
    s.vatMapBad g = false := by
  have hh : s.hostBad = false := by
    obtain ⟨q, hq⟩ := Option.isSome_iff_exists.1 (h .host (List.mem_cons_self ..))
    exact congrArg Option.isNone hq
  have hc : s.colmapBad g = false := by
    refine List.any_eq_false.2 fun i hi => ?_
    have hi8 := List.mem_range.1 hi
    have hr := h (.colmap ⟨8 * g + i, by omega⟩) (List.mem_cons_of_mem _ (List.mem_map.2 ⟨i, hi, by
      congr 1
      exact Fin.ext (Nat.mod_eq_of_lt (by omega))⟩))
    rw [colmap_vote, dif_pos (by omega)]
    obtain ⟨q, hq⟩ := Option.isSome_iff_exists.1 hr
    simp [hq]
  rw [State.vatMapBad, hh, hc]
  rfl

theorem vatSegment_lt (o : Nat) : vatSegment o < 16 := Nat.mod_lt _ (by decide)

theorem votes_of_agree {rs : List TabReg} (h : ∀ r ∈ rs, s.agrees r = true) : ∀ r ∈ rs, ((r.get s.tab).vote).isSome = true :=
  fun r hr => by rw [vote_agrees (h r hr)]; rfl

/-- Reading them rewrites minority copies, and logs what it rewrites. -/
theorem readColumns_spec (o : Nat) : ∃ tab l d, s.readColumns o = { s with tab := tab, err := l, dbg := d } := compareAll_spec _

theorem State.EddyTakes.readColumns (h : s.EddyTakes k) (o : Nat) : (s.readColumns o).EddyTakes k := by
  obtain ⟨tab, l, d, hr⟩ := readColumns_spec (s := s) o
  exact ⟨by rw [hr]; exact h.full, h.id, h.line⟩

/-! The Vat: who may. -/

theorem liveBarred_eq (hl : k.write = true → s.korni.mode ≠ 2) : s.liveBarred k = false := by
  simpa [State.liveBarred] using hl

theorem eddyVat_barred (h : s.vatFrom k.dom (k.addr - 0x40000000) = false ∨ (k.write = true ∧ s.korni.mode = 2)) :
    s.eddyVat k = k.errorTo s := by
  refine if_pos ?_
  rcases h with h | ⟨hw, hm⟩
  · simp [h]
  · simp [State.liveBarred, hw, hm]

section Vat
variable (hv : s.vatFrom k.dom (k.addr - 0x40000000) = true) (hb : s.segmentBusy (vatSegment (k.addr - 0x40000000)) = false)
  (hl : k.write = true → s.korni.mode ≠ 2)
include hv hb hl

/-- An access that may: it reads the registers of its segment, and goes on where none is bad. -/
theorem eddyVat_open : s.eddyVat k =
    if s.vatMapBad (vatSegment (k.addr - 0x40000000)) then k.errorTo (s.readColumns (k.addr - 0x40000000))
    else (if k.write then s.readColumns (k.addr - 0x40000000) else (s.readColumns (k.addr - 0x40000000)).mark [5]).eddyReach k
      ((s.readColumns (k.addr - 0x40000000)).vatView (k.addr - 0x40000000) k.n) := by
  unfold State.eddyVat
  dsimp only
  rw [if_neg (by simp [hv, liveBarred_eq hl]), if_neg (by simp [hb])]
  unfold State.readColumns
  rw [vatMapBad_compareAll]

theorem eddyVat_split (h : s.vatMapBad (vatSegment (k.addr - 0x40000000)) = true) :
    ∃ u, s.eddyVat k = k.errorTo u ∧ u.vat = s.vat ∧ u.tileMem = s.tileMem ∧ u.ctxs = s.ctxs ∧ u.resp = s.resp := by
  refine ⟨s.readColumns (k.addr - 0x40000000), by rw [eddyVat_open hv hb hl, if_pos h], ?_⟩
  obtain ⟨tab, l, d, hr⟩ := readColumns_spec (s := s) (k.addr - 0x40000000)
  rw [hr]
  exact ⟨rfl, rfl, rfl, rfl⟩

/-- Once the registers of the segment have been read, each with a majority, the command does as before. -/
theorem eddyVat_readColumns
    (h : ∀ r ∈ TabReg.host :: segmentRegs (vatSegment (k.addr - 0x40000000)), ((r.get s.tab).vote).isSome = true) :
    s.eddyVat k = (s.readColumns (k.addr - 0x40000000)).eddyVat k := by
  have twice : (s.readColumns (k.addr - 0x40000000)).readColumns (k.addr - 0x40000000) = s.readColumns (k.addr - 0x40000000) :=
    compareAll_twice h
  obtain ⟨tab, l, d, hr⟩ := readColumns_spec (s := s) (k.addr - 0x40000000)
  rw [eddyVat_open hv hb hl, eddyVat_open (s := s.readColumns (k.addr - 0x40000000)) (by rw [hr]; exact hv) (by rw [hr]; exact hb)
    (by rw [hr]; exact hl), twice]
  unfold State.readColumns
  rw [vatMapBad_compareAll]

theorem eddyVat_agree (h : ∀ r ∈ TabReg.host :: segmentRegs (vatSegment (k.addr - 0x40000000)), s.agrees r = true) :
    s.eddyVat k = (if k.write then s else s.mark [5]).eddyReach k (s.vatView (k.addr - 0x40000000) k.n) := by
  have hr : s.readColumns (k.addr - 0x40000000) = s := compareAll_agrees h
  rw [eddyVat_open hv hb hl, hr, if_neg]
  rw [vatMapBad_of_votes (vatSegment_lt _) (votes_of_agree h)]
  exact Bool.false_ne_true

end Vat

theorem vatView_free {o n : Nat} (h : s.hostedAt o = none) : s.vatView o n = bytesAt s.vat o n := by rw [State.vatView, h]
theorem vatView_hosted {o i n : Nat} (h : s.hostedAt o = some i) : s.vatView o n = bytesAt s.tileMem i n := by rw [State.vatView, h]

/-! Reads that meet a report. -/

section Report
variable (hw : k.write = false) {u : Fin 128} {loc : BitVec 48} (h0 : k.addr ≤ loc.toNat) (h1 : loc.toNat < k.addr + k.n)
include hw h0 h1

theorem eddyReach_corrected (hp : placeOf k.addr = .vat) (hd : k.d = .corrected .vatOrLane u loc) (bs : List Byte) :
    ∃ l d st, s.eddyReach k bs = ({ s with err := l, dbg := d, st := st } : State).respondRead k.id false k.addr k.n bs ∧
      l.corr = satAdd s.err.corr 1 ∧ st.running.contains (macroAt u loc) = true := by
  obtain ⟨l, d, st, hm, hc, hr⟩ := meetsError_corrected (s := s) u loc
  refine ⟨l, d, st, ?_, hc, hr⟩
  rw [State.eddyReach, if_neg (by simp [hw]), State.eddyMeets, hd]
  dsimp only
  rw [if_pos (hits_read hw h0 h1 (by rw [hp]; rfl)), hm]
  rfl

theorem eddyReach_uncorrectable (hp : placeOf k.addr = .vat) (hd : k.d = .uncorrectable .vatOrLane u loc) (bs : List Byte) :
    ∃ l d st, s.eddyReach k bs = k.errorTo { s with err := l, dbg := d, st := st } ∧ l.uncorr = satAdd s.err.uncorr 1 ∧
      st.running.contains (macroAt u loc) = true := by
  obtain ⟨l, d, st, hm, hc, hr⟩ := meetsError_uncorrectable (s := s) u loc
  refine ⟨l, d, st, ?_, hc, hr⟩
  rw [State.eddyReach, if_neg (by simp [hw]), State.eddyMeets, hd]
  dsimp only
  rw [if_pos (hits_read hw h0 h1 (by rw [hp]; rfl)), hm]
  rfl

theorem eddyReach_seqLost (hp : placeOf k.addr = .seq) (hd : k.d = .uncorrectable .sequencerSpace u loc) (bs : List Byte) :
    ∃ l d, s.eddyReach k bs = k.errorTo { s with err := l, dbg := d } ∧ l.uncorr = satAdd s.err.uncorr 1 := by
  obtain ⟨l, d, hm, hc⟩ := meetsError_seq (s := s) u loc
  refine ⟨l, d, ?_, hc⟩
  rw [State.eddyReach, if_neg (by simp [hw]), State.eddyMeets, hd]
  dsimp only
  rw [if_pos (hits_read hw h0 h1 (by rw [hp]; rfl)), hm]
  rfl

end Report

/-! Writes. -/

section Poke
variable {bs : List Byte} {a i : Nat}

theorem pokeBytes_vat (hp : placeOf a = .vat) (h : s.hostedAt (a - 0x40000000) = none) :
    s.pokeBytes a bs = { s.mark [6] with vat := putBytes s.vat (a - 0x40000000) bs } := by
  have h' : (s.mark [6]).hostedAt (a - 0x40000000) = none := h
  rw [State.pokeBytes, hp]
  dsimp only
  rw [State.putVat, h']
  rfl

theorem pokeBytes_hosted (hp : placeOf a = .vat) (h : s.hostedAt (a - 0x40000000) = some i) :
    s.pokeBytes a bs = { s.mark [6] with tileMem := putBytes s.tileMem i bs } := by
  have h' : (s.mark [6]).hostedAt (a - 0x40000000) = some i := h
  rw [State.pokeBytes, hp]
  dsimp only
  rw [State.putVat, h']
  rfl

theorem pokeBytes_ram (hp : placeOf a = .seq) (h : s.seqPlace a = .ram i) : s.pokeBytes a bs = { s with ram := putBytes s.ram i bs } := by
  rw [State.pokeBytes, hp]
  dsimp only
  rw [h]

end Poke

theorem eddyReach_write (hw : k.write = true) (bs : List Byte) : s.eddyReach k bs = s.eddyPoke k.id k.pieces := if_pos hw

/-- Without room for its records a write waits. -/
theorem eddyPoke_waits (h : s.recordAll k.pieces = none) : s.eddyPoke k.id k.pieces = s := by rw [State.eddyPoke, h]

/-- A write of one piece outside record mode. -/
theorem eddyPoke_piece {id : BitVec 4} {a : Nat} {bs : List Byte} (hm : s.korni.mode = 0) :
    s.eddyPoke id [(a, bs)] = (s.pokeBytes a bs).respondWrite id false := by
  rw [State.eddyPoke, recordAll_off (recording_of_mode hm)]
  rfl

/-- The bytes of a store after a write: those that it enables, and the others. -/
def EddyCmd.stores (k : EddyCmd) (m m' : Bytes) (b : Nat) : Prop :=
  (∀ j, j < k.n → byteAt m' (b + j) = if k.be.getD (k.addr % 8 + j) false then k.data.getD (k.addr % 8 + j) 0 else byteAt m (b + j)) ∧
    ∀ x, x < b ∨ b + k.n ≤ x → byteAt m' x = byteAt m x

section Write
variable {s1 : State} (hl : k.addr % 64 + k.n ≤ 64) (hr : s.recordAll k.pieces = some s1)
include hr

/-- A write whose pieces each write their bytes of one store (`foldl_pieces`). -/
theorem eddyPoke_stores {get : State → Bytes} {b : Nat} {ok : State → Prop}
    (step : ∀ s j bs, ok s → j ∈ enabledOf k.addr k.n k.be →
      ok (s.pokeBytes (k.addr + j) bs) ∧ get (s.pokeBytes (k.addr + j) bs) = putBytes (get s) (b + j) bs) (h : ok s1) :
    ∃ t, s.eddyPoke k.id k.pieces = t.respondWrite k.id false ∧ ok t ∧ k.stores (get s1) (get t) b := by
  obtain ⟨hok, hm⟩ := foldl_pieces step h
  exact ⟨_, by rw [State.eddyPoke, hr], hok, byteAt_pieces hm⟩

include hl

theorem eddyPoke_vat (h0 : 0x40000000 ≤ k.addr) (h1 : k.addr < 0x48000000) (hh : s.hostedAt (k.addr - 0x40000000) = none) :
    ∃ tel m, s.eddyPoke k.id k.pieces = ({ s1 with tel := tel, vat := m } : State).respondWrite k.id false ∧
      k.stores s1.vat m (k.addr - 0x40000000) := by
  obtain ⟨x, rfl⟩ := recordAll_spec hr
  have step : ∀ (t : State) (j : Nat) (bs : List Byte), (∃ tel m, t = { s with korni := x, tel := tel, vat := m }) →
      j ∈ enabledOf k.addr k.n k.be → (∃ tel m, t.pokeBytes (k.addr + j) bs = { s with korni := x, tel := tel, vat := m }) ∧
        (t.pokeBytes (k.addr + j) bs).vat = putBytes t.vat (k.addr - 0x40000000 + j) bs := by
    rintro t j bs ⟨tel, m, rfl⟩ hj
    have hjn := (mem_enabledOf.1 hj).1
    have ha : k.addr + j - 0x40000000 = k.addr - 0x40000000 + j := by omega
    have hhj : s.hostedAt (k.addr - 0x40000000 + j) = none := by rw [hostedAt_add (by omega), hh]; rfl
    rw [pokeBytes_vat (placeOf_vat (by omega) (by omega)) (by rw [ha]; exact hhj), ha]
    exact ⟨⟨_, _, rfl⟩, rfl⟩
  obtain ⟨t, he, ⟨tel, m, rfl⟩, hm⟩ := eddyPoke_stores (get := State.vat) hr step ⟨s.tel, s.vat, rfl⟩
  exact ⟨tel, m, he, hm⟩

theorem eddyPoke_hosted {i : Nat} (h0 : 0x40000000 ≤ k.addr) (h1 : k.addr < 0x48000000)
    (hh : s.hostedAt (k.addr - 0x40000000) = some i) :
    ∃ tel m, s.eddyPoke k.id k.pieces = ({ s1 with tel := tel, tileMem := m } : State).respondWrite k.id false ∧
      k.stores s1.tileMem m i := by
  obtain ⟨x, rfl⟩ := recordAll_spec hr
  have step : ∀ (t : State) (j : Nat) (bs : List Byte), (∃ tel m, t = { s with korni := x, tel := tel, tileMem := m }) →
      j ∈ enabledOf k.addr k.n k.be → (∃ tel m, t.pokeBytes (k.addr + j) bs = { s with korni := x, tel := tel, tileMem := m }) ∧
        (t.pokeBytes (k.addr + j) bs).tileMem = putBytes t.tileMem (i + j) bs := by
    rintro t j bs ⟨tel, m, rfl⟩ hj
    have hjn := (mem_enabledOf.1 hj).1
    have ha : k.addr + j - 0x40000000 = k.addr - 0x40000000 + j := by omega
    have hhj : s.hostedAt (k.addr - 0x40000000 + j) = some (i + j) := by rw [hostedAt_add (by omega), hh]; rfl
    rw [pokeBytes_hosted (placeOf_vat (by omega) (by omega)) (by rw [ha]; exact hhj)]
    exact ⟨⟨_, _, rfl⟩, rfl⟩
  obtain ⟨t, he, ⟨tel, m, rfl⟩, hm⟩ := eddyPoke_stores (get := State.tileMem) hr step ⟨s.tel, s.tileMem, rfl⟩
  exact ⟨tel, m, he, hm⟩

theorem eddyPoke_ram {i : Nat} (h0 : k.addr < 0x40000000) (hp : s.seqPlace k.addr = .ram i) :
    ∃ m, s.eddyPoke k.id k.pieces = ({ s1 with ram := m } : State).respondWrite k.id false ∧ k.stores s1.ram m i := by
  obtain ⟨x, rfl⟩ := recordAll_spec hr
  have step : ∀ (t : State) (j : Nat) (bs : List Byte), (∃ m, t = { s with korni := x, ram := m }) → j ∈ enabledOf k.addr k.n k.be →
      (∃ m, t.pokeBytes (k.addr + j) bs = { s with korni := x, ram := m }) ∧
        (t.pokeBytes (k.addr + j) bs).ram = putBytes t.ram (i + j) bs := by
    rintro t j bs ⟨m, rfl⟩ hj
    have hjn := (mem_enabledOf.1 hj).1
    have hpj : s.seqPlace (k.addr + j) = .ram (i + j) := by rw [seqPlace_add (by omega), hp]; rfl
    rw [pokeBytes_ram (placeOf_seq (by omega)) (by exact hpj)]
    exact ⟨⟨_, rfl⟩, rfl⟩
  obtain ⟨t, he, ⟨m, rfl⟩, hm⟩ := eddyPoke_stores (get := State.ram) hr step ⟨s.ram, rfl⟩
  exact ⟨m, he, hm⟩

end Write

end Sys2Proof.Machine
end

section
/-! Eddy commands in sequencer space and in the control window, and the beats of a read's response (00 R10; 11 R351, R357, R381). -/

namespace Sys2Proof.Machine

variable {s : State} {k : EddyCmd}

/-! Sequencer space. -/

section Seq
variable {i : Nat}

/-- The bytes of the boot ROM that a command of one 64-byte block reads. -/
theorem seqBytes_rom (hl : k.addr % 64 + k.n ≤ 64) (hp : s.seqPlace k.addr = .rom i) :
    ((List.range k.n).map fun j => s.seqByte (k.addr + j)) = (List.range k.n).map fun j => bootByte (i + j) := by
  refine List.map_congr_left fun j hj => ?_
  have := List.mem_range.1 hj
  rw [State.seqByte, seqPlace_add (by omega), hp]
  rfl

/-- The bytes of working RAM that it reads. -/
theorem seqBytes_ram (hl : k.addr % 64 + k.n ≤ 64) (hp : s.seqPlace k.addr = .ram i) :
    ((List.range k.n).map fun j => s.seqByte (k.addr + j)) = bytesAt s.ram i k.n := by
  rw [bytesAt_eq_map]
  refine List.map_congr_left fun j hj => ?_
  have := List.mem_range.1 hj
  rw [State.seqByte, seqPlace_add (by omega), hp]
  rfl

theorem eddySeq_rom (hp : s.seqPlace k.addr = .rom i) : s.eddySeq k =
    if k.write then k.errorTo s else s.eddyReach k ((List.range k.n).map fun i => s.seqByte (k.addr + i)) := by
  rw [State.eddySeq, hp]

theorem eddySeq_ram (hp : s.seqPlace k.addr = .ram i) : s.eddySeq k =
    if k.write && (!s.fromSuper k.dom || s.liveBarred k) then k.errorTo s
    else s.eddyReach k ((List.range k.n).map fun i => s.seqByte (k.addr + i)) := by
  rw [State.eddySeq, hp]

/-- A read goes on wherever sequencer space is mapped. -/
theorem eddySeq_read (hw : k.write = false) : s.eddySeq k = s.eddyReach k ((List.range k.n).map fun i => s.seqByte (k.addr + i)) := by
  unfold State.eddySeq
  simp only [hw, Bool.false_and, Bool.false_eq_true, if_false]
  split <;> rfl

theorem eddySeq_ramBarred (hp : s.seqPlace k.addr = .ram i) (hw : k.write = true) (h : s.fromSuper k.dom = false ∨ s.korni.mode = 2) :
    s.eddySeq k = k.errorTo s := by
  rw [eddySeq_ram hp, if_pos]
  rcases h with h | h
  · simp [hw, h]
  · simp [hw, State.liveBarred, h]

theorem eddySeq_ramWrite (hp : s.seqPlace k.addr = .ram i) (hw : k.write = true) (hs : s.fromSuper k.dom = true) (hm : s.korni.mode ≠ 2) :
    s.eddySeq k = s.eddyPoke k.id k.pieces := by
  rw [eddySeq_ram hp, if_neg (by simp [hs, liveBarred_eq fun _ => hm]), eddyReach_write hw]

end Seq

/-! The control window. -/

theorem windowPart_window (off : Nat) (p : Part) (h8 : off % 8 = 0) : windowPart (windowAddr off p) (partSize p) = some (off, p) := by
  have ho : windowAddr off p - 0x80000000 = off + if p = .high then 4 else 0 := by
    unfold windowAddr
    omega
  have h4 : (off + 4) % 8 = 4 := by omega
  unfold windowPart
  dsimp only
  rw [ho]
  cases p with
  | whole => simp [partSize, h8]
  | low => simp [partSize, h8]
  | high => simp [partSize, h4]

/-- Other sizes and alignments are no register's (00 R10). -/
theorem windowPart_none {a n : Nat} (ha : 0x80000000 ≤ a) (h : (n ≠ 8 ∨ a % 8 ≠ 0) ∧ (n ≠ 4 ∨ a % 4 ≠ 0)) : windowPart a n = none := by
  unfold windowPart
  dsimp only
  rw [if_neg (by omega), if_neg (by omega), if_neg (by omega)]

/-- The pieces of a write lie at its address and above it. -/
theorem pieces_above : ∀ x ∈ k.pieces, k.addr ≤ x.1 := by
  intro x hx
  obtain ⟨r, -, rfl⟩ := List.mem_map.1 hx
  exact Nat.le_add_right ..

theorem access_read (hw : k.write = false) : k.access = (windowPart k.addr k.n).map fun w => (w.1, w.2, []) := by
  simp [EddyCmd.access, hw]

theorem access_write {a : Nat} {bs : List Byte} (hw : k.write = true) (hp : k.pieces = [(a, bs)]) :
    k.access = (windowPart a bs.length).map fun w => (w.1, w.2, bs) := by
  simp [EddyCmd.access, hw, hp]

/-- A write is of no register where its enabled bytes are not all of one, or of a half of one. -/
theorem access_writeNone (hw : k.write = true) (ha : 0x80000000 ≤ k.addr)
    (h : ∀ a bs, k.pieces = [(a, bs)] → (bs.length ≠ 8 ∨ a % 8 ≠ 0) ∧ (bs.length ≠ 4 ∨ a % 4 ≠ 0)) : k.access = none := by
  rw [EddyCmd.access, if_pos hw]
  split
  · rename_i a bs hp
    have : k.addr ≤ a := pieces_above (a, bs) (by rw [hp]; exact List.mem_singleton_self _)
    rw [windowPart_none (by omega) (h a bs hp)]
    rfl
  · rfl

section Window
variable (hi : s.idWaits (.eddy k.dom) k.id = false)

theorem eddyWindow_waits (h : s.idWaits (.eddy k.dom) k.id = true) : s.eddyWindow k = s := if_pos h

include hi

theorem eddyWindow_noRegister (h : k.access = none) : s.eddyWindow k = k.errorTo s := by
  rw [State.eddyWindow, if_neg (by simp [hi]), h]

theorem eddyWindow_write {off : Nat} {p : Part} {bs : List Byte} (hw : k.write = true) (h : k.access = some (off, p, bs)) :
    s.eddyWindow k = s.regWrite (.eddy k.dom) k.id off p (partValue p bs) k.goLow := by
  rw [State.eddyWindow, if_neg (by simp [hi]), h]
  exact if_pos hw

section Read
variable {off : Nat} {p : Part} {bs : List Byte} (hw : k.write = false) (h : k.access = some (off, p, bs)) (h8 : off % 8 = 0)
include hw h h8

theorem eddyWindow_readRefused (hm : s.mayRead (regAt off) k.dom = false) : s.eddyWindow k = k.errorTo s := by
  have hr : s.readReg k.dom off p = none := by simp [State.readReg, h8, hm]
  rw [State.eddyWindow, if_neg (by simp [hi]), h]
  dsimp only
  rw [if_neg (by simp [hw]), hr]

theorem eddyWindow_read (hm : s.mayRead (regAt off) k.dom = true) :
    s.eddyWindow k = ((s.beforeRead (regAt off)).clearOnRead (regAt off) p k.dom).respondRead k.id false k.addr k.n
      (partBytes p ((s.beforeRead (regAt off)).regVal (regAt off))) := by
  have hr : s.readReg k.dom off p = some (partBytes p ((s.beforeRead (regAt off)).regVal (regAt off)),
      (s.beforeRead (regAt off)).clearOnRead (regAt off) p k.dom) := by simp [State.readReg, h8, hm]
  rw [State.eddyWindow, if_neg (by simp [hi]), h]
  dsimp only
  rw [if_neg (by simp [hw]), hr]

end Read
end Window

/-- The port takes a command in the window only where it is not full. -/
theorem notFull_of_idWaits {d : BitVec 8} {id : BitVec 4} (h : s.idWaits (.eddy d) id = false) : s.eddyFull = false :=
  (Bool.or_eq_false_iff.1 h).1

/-! The beats of a response. -/

theorem getElem?_beatsOf (bs : List Byte) (n i : Nat) :
    (beatsOf bs n)[i]? = if i < n then some ⟨(bs.drop (8 * i)).take 8, i + 1 == n⟩ else none := by
  induction n generalizing bs i with
  | zero => rfl
  | succ n ih =>
    cases i with
    | zero =>
      rw [beatsOf, List.getElem?_cons_zero, if_pos (Nat.succ_pos n)]
      simp
    | succ i =>
      rw [beatsOf, List.getElem?_cons_succ, ih, List.drop_drop, show 8 + 8 * i = 8 * (i + 1) by omega]
      simp

theorem length_beatsOf (bs : List Byte) (n : Nat) : (beatsOf bs n).length = n := by
  induction n generalizing bs with
  | zero => rfl
  | succ n ih => exact congrArg Nat.succ (ih _)

@[simp] theorem length_readLanes (f a n : Nat) (bs : List Byte) : (readLanes f a n bs).length = 8 * beatCount a n := by simp [readLanes]

/-- Byte `j` of a command stands in the lane of its place. -/
theorem getElem?_readLanes {f a n j : Nat} {bs : List Byte} (hb : bs.length = n) (hj : j < n) :
    (readLanes f a n bs)[a % 8 + j]? = bs[j]? := by
  have hlt : a % 8 + j < 8 * beatCount a n := by
    unfold beatCount
    omega
  have hjb : j < bs.length := by omega
  simp [readLanes, hlt, hjb]

/-- The beats of the response to a read that returns its bytes. -/
theorem respondRead_beats (id : BitVec 4) {a n : Nat} {bs : List Byte} (hb : bs.length = n) :
    ∃ r, (s.respondRead id false a n bs).resp = s.resp ++ [r] ∧ r.id = id ∧ r.err = false ∧ r.beats.length = (a % 8 + n + 7) / 8 ∧
      (∀ i b, r.beats[i]? = some b → b.data.length = 8 ∧ (b.last = true ↔ i + 1 = r.beats.length)) ∧
      ∀ j, j < n → (r.beats[(a % 8 + j) / 8]?).bind (fun b => b.data[(a % 8 + j) % 8]?) = bs[j]? := by
  refine ⟨⟨id, false, beatsOf (readLanes s.freeCtr a n bs) (beatCount a n)⟩, rfl, rfl, rfl, length_beatsOf _ _, ?_, ?_⟩
  · intro i b h
    rw [getElem?_beatsOf] at h
    split at h
    · cases h
      refine ⟨?_, by rw [length_beatsOf]; exact beq_iff_eq⟩
      simp
      omega
    · cases h
  · intro j hj
    have hi : (a % 8 + j) / 8 < beatCount a n := by
      unfold beatCount
      omega
    dsimp only
    rw [getElem?_beatsOf, if_pos hi, Option.bind_some, List.getElem?_take_of_lt (Nat.mod_lt _ (by decide)), List.getElem?_drop,
      Nat.div_add_mod, getElem?_readLanes hb hj]

end Sys2Proof.Machine
end

section
/-! The outcomes of an eddy command, clause by clause of O51, and O51. -/

namespace Sys2Proof.Machine

variable {s : State} {k : EddyCmd}

theorem exec_eddyCommand {write : Bool} {addr : BitVec 48} {len : BitVec 6} {id : BitVec 4} {dom : BitVec 8} {data : List Byte} {be : List Bool}
    {g : Bool} {d : Detect} (hup : s.up = true) : exec (.eddyCommand write addr len id dom data be ⟨g, d⟩) s =
      .next (s.eddy ⟨write, addr.toNat, len.toNat + 1, id, dom, data, be, g, d⟩) := whenUp_up hup

/-- A write with all bytes of its beats enabled is one piece. -/
theorem pieces_of_full {m : Nat} (hn : 0 < k.n) (hm : k.addr % 8 + k.n ≤ m) (hbe : k.be = List.replicate m true) (hd : k.data.length = m) :
    k.pieces = [(k.addr, (k.data.drop (k.addr % 8)).take k.n)] := by
  refine pieces_whole hn (fun j hj => ?_) (hd ▸ hm)
  have : k.addr % 8 + j < m := by omega
  simp [hbe, this]

theorem errorTo_read (hw : k.write = false) : k.errorTo s = s.respondRead k.id true k.addr k.n [] := if_neg (by simp [hw])
theorem errorTo_write (hw : k.write = true) : k.errorTo s = s.respondWrite k.id true := if_pos hw

/-! Misses. -/

theorem missed_resp {t : State} (hr : t.resp = s.resp) (hc : t.freeCtr = s.freeCtr) : (k.missed t).resp = (k.missed s).resp := by
  unfold EddyCmd.missed
  split
  · exact respondWrite_resp _ _ hr
  · exact respondRead_resp _ _ _ _ _ hr hc

theorem missed_spec (k : EddyCmd) (s : State) : ∃ r n, k.missed s = { s with resp := r, freeCtr := n } := by
  unfold EddyCmd.missed
  split
  · exact ⟨_, _, rfl⟩
  · exact ⟨_, _, rfl⟩

theorem eddy_missed (h : s.EddyTakes k) (hc : placeOf k.addr ≠ .chip) (hm : s.misses k.addr = true) :
    (s.eddy k).vat = s.vat ∧ (s.eddy k).ram = s.ram ∧ (s.eddy k).ctxs = s.ctxs ∧ (s.eddy k).felt.missValid = true ∧
      (s.eddy k).resp = (if s.felt.dmz then k.missed s else k.errorTo s).resp := by
  obtain ⟨f, hf, he⟩ := eddy_miss h hc hm
  rw [he]
  split
  · obtain ⟨r, n, hs⟩ := missed_spec k { s with felt := f }
    have hr : (k.missed { s with felt := f }).resp = (k.missed s).resp := missed_resp rfl rfl
    rw [← hr, hs]
    exact ⟨rfl, rfl, rfl, hf, rfl⟩
  · obtain ⟨r, n, hs⟩ := errorTo_spec k { s with felt := f }
    have hr : (k.errorTo { s with felt := f }).resp = (k.errorTo s).resp := errorTo_resp k rfl rfl
    rw [← hr, hs]
    exact ⟨rfl, rfl, rfl, hf, rfl⟩

theorem misses_of_hole {a : Nat} (h : (0x48000000 ≤ a ∧ a < 0x80000000) ∨ (0x81000000 ≤ a ∧ a < 2 ^ 32) ∨
    (a < 0x40000000 ∧ s.seqPlace a = .miss)) : placeOf a ≠ .chip ∧ s.misses a = true := by
  unfold State.misses
  rcases h with h | h | ⟨h, hs⟩
  · rw [placeOf_miss (.inl h)]
    exact ⟨Place.noConfusion, rfl⟩
  · rw [placeOf_miss (.inr h)]
    exact ⟨Place.noConfusion, rfl⟩
  · rw [placeOf_seq h]
    exact ⟨Place.noConfusion, beq_iff_eq.2 hs⟩

/-! The Vat, where the registers of the segment agree. -/

section Vat
variable (hv : s.vatFrom k.dom (k.addr - 0x40000000) = true) (hb : s.segmentBusy (vatSegment (k.addr - 0x40000000)) = false)
  (ha : ∀ r ∈ TabReg.host :: segmentRegs (vatSegment (k.addr - 0x40000000)), s.agrees r = true)
include hv hb ha

section Read
variable (hw : k.write = false)
include hw

theorem eddyVat_read : s.eddyVat k = (s.mark [5]).eddyReach k (s.vatView (k.addr - 0x40000000) k.n) := by
  rw [eddyVat_agree hv hb (by simp [hw]) ha, if_neg (by simp [hw])]

theorem eddyVat_quiet (h : ∀ w u loc, k.d = .corrected w u loc ∨ k.d = .uncorrectable w u loc → k.hits w loc = false) :
    s.eddyVat k = (s.mark [5]).respondRead k.id false k.addr k.n (s.vatView (k.addr - 0x40000000) k.n) := by
  rw [eddyVat_read hv hb ha hw, eddyReach_quiet hw h]

section Report
variable (hp : placeOf k.addr = .vat) {u : Fin 128} {loc : BitVec 48} (h0 : k.addr ≤ loc.toNat) (h1 : loc.toNat < k.addr + k.n)
include hp h0 h1

theorem eddyVat_corrected (hd : k.d = .corrected .vatOrLane u loc) :
    (s.eddyVat k).resp = (s.respondRead k.id false k.addr k.n (s.vatView (k.addr - 0x40000000) k.n)).resp ∧
      (s.eddyVat k).err.corr = satAdd s.err.corr 1 ∧ (s.eddyVat k).testing (macroAt u loc) = true ∧ (s.eddyVat k).vat = s.vat := by
  obtain ⟨l, e, st, he, hc, hr⟩ := eddyReach_corrected (s := s.mark [5]) hw h0 h1 hp hd (s.vatView (k.addr - 0x40000000) k.n)
  rw [eddyVat_read hv hb ha hw, he]
  exact ⟨rfl, hc, hr, rfl⟩

theorem eddyVat_uncorrectable (hd : k.d = .uncorrectable .vatOrLane u loc) :
    (s.eddyVat k).resp = (k.errorTo s).resp ∧ (s.eddyVat k).err.uncorr = satAdd s.err.uncorr 1 ∧
      (s.eddyVat k).testing (macroAt u loc) = true ∧ (s.eddyVat k).vat = s.vat := by
  obtain ⟨l, e, st, he, hc, hr⟩ := eddyReach_uncorrectable (s := s.mark [5]) hw h0 h1 hp hd (s.vatView (k.addr - 0x40000000) k.n)
  obtain ⟨q, n, hs⟩ := errorTo_spec k { s.mark [5] with err := l, dbg := e, st := st }
  have hresp : (k.errorTo { s.mark [5] with err := l, dbg := e, st := st }).resp = (k.errorTo s).resp := errorTo_resp k rfl rfl
  rw [eddyVat_read hv hb ha hw, he, ← hresp, hs]
  exact ⟨rfl, hc, hr, rfl⟩

end Report
end Read

section Write
variable (hw : k.write = true) (hm : s.korni.mode ≠ 2)
include hw hm

theorem eddyVat_write : s.eddyVat k = s.eddyPoke k.id k.pieces := by
  rw [eddyVat_agree hv hb (fun _ => hm) ha, if_pos hw, eddyReach_write hw]

end Write
end Vat

/-! Writes of the whole command, outside record mode. -/

section Whole
variable {a i : Nat} {bs : List Byte} {id : BitVec 4} (hm : s.korni.mode = 0)
include hm

theorem eddyPoke_wholeVat (hp : placeOf a = .vat) (h : s.hostedAt (a - 0x40000000) = none) : s.eddyPoke id [(a, bs)] =
    ({ s.mark [6] with vat := putBytes s.vat (a - 0x40000000) bs } : State).respondWrite id false := by
  rw [eddyPoke_piece hm, pokeBytes_vat hp h]

theorem eddyPoke_wholeHosted (hp : placeOf a = .vat) (h : s.hostedAt (a - 0x40000000) = some i) : s.eddyPoke id [(a, bs)] =
    ({ s.mark [6] with tileMem := putBytes s.tileMem i bs } : State).respondWrite id false := by
  rw [eddyPoke_piece hm, pokeBytes_hosted hp h]

theorem eddyPoke_wholeRam (hp : placeOf a = .seq) (h : s.seqPlace a = .ram i) : s.eddyPoke id [(a, bs)] =
    ({ s with ram := putBytes s.ram i bs } : State).respondWrite id false := by
  rw [eddyPoke_piece hm, pokeBytes_ram hp h]

end Whole

/-! Writes of the enabled bytes. -/

section Stores
variable {s1 : State} (hl : k.addr % 64 + k.n ≤ 64) (hr : s.recordAll k.pieces = some s1)
include hl hr

theorem eddyPoke_storesVat (h0 : 0x40000000 ≤ k.addr) (h1 : k.addr < 0x48000000) (hh : s.hostedAt (k.addr - 0x40000000) = none) :
    let t := s.eddyPoke k.id k.pieces
    t.korni = s1.korni ∧ t.resp = (s.respondWrite k.id false).resp ∧ t.tileMem = s.tileMem ∧ k.stores s.vat t.vat (k.addr - 0x40000000) := by
  obtain ⟨tel, m, he, hst⟩ := eddyPoke_vat hl hr h0 h1 hh
  obtain ⟨x, rfl⟩ := recordAll_spec hr
  rw [he]
  exact ⟨rfl, rfl, rfl, hst⟩

theorem eddyPoke_storesHosted {i : Nat} (h0 : 0x40000000 ≤ k.addr) (h1 : k.addr < 0x48000000)
    (hh : s.hostedAt (k.addr - 0x40000000) = some i) :
    let t := s.eddyPoke k.id k.pieces
    t.korni = s1.korni ∧ t.resp = (s.respondWrite k.id false).resp ∧ t.vat = s.vat ∧ k.stores s.tileMem t.tileMem i := by
  obtain ⟨tel, m, he, hst⟩ := eddyPoke_hosted hl hr h0 h1 hh
  obtain ⟨x, rfl⟩ := recordAll_spec hr
  rw [he]
  exact ⟨rfl, rfl, rfl, hst⟩

theorem eddyPoke_storesRam {i : Nat} (h0 : k.addr < 0x40000000) (hp : s.seqPlace k.addr = .ram i) :
    let t := s.eddyPoke k.id k.pieces
    t.korni = s1.korni ∧ t.resp = (s.respondWrite k.id false).resp ∧ k.stores s.ram t.ram i := by
  obtain ⟨m, he, hst⟩ := eddyPoke_ram hl hr h0 hp
  obtain ⟨x, rfl⟩ := recordAll_spec hr
  rw [he]
  exact ⟨rfl, rfl, hst⟩

end Stores

/-- A read of sequencer space that cannot be corrected. -/
theorem eddySeq_lost (hw : k.write = false) (hp : placeOf k.addr = .seq) {u : Fin 128} {loc : BitVec 48} (h0 : k.addr ≤ loc.toNat)
    (h1 : loc.toNat < k.addr + k.n) (hd : k.d = .uncorrectable .sequencerSpace u loc) :
    (s.eddySeq k).resp = (k.errorTo s).resp ∧ (s.eddySeq k).err.uncorr = satAdd s.err.uncorr 1 ∧ (s.eddySeq k).ram = s.ram := by
  obtain ⟨l, e, he, hc⟩ := eddyReach_seqLost (s := s) hw h0 h1 hp hd ((List.range k.n).map fun i => s.seqByte (k.addr + i))
  obtain ⟨q, n, hs⟩ := errorTo_spec k { s with err := l, dbg := e }
  have hresp : (k.errorTo { s with err := l, dbg := e }).resp = (k.errorTo s).resp := errorTo_resp k rfl rfl
  rw [eddySeq_read hw, he, ← hresp, hs]
  exact ⟨rfl, hc, rfl⟩

end Sys2Proof.Machine
end

section
/-! O51: the tests of an eddy command, and its accesses. -/

namespace Sys2Proof.Machine

/-- Settles O51: `eddyCommand` is `State.eddy` (`exec_eddyCommand`), whose tests and accesses have a lemma each; writes go piece by piece
(`eddyPoke_stores`), and the beats of a response are those of `respondRead_beats`. -/
theorem eddyCommands : Obligations.EddyCommands := by
  unfold Obligations.EddyCommands
  refine ⟨fun s write addr len id dom data be g d hup => ?_, fun s write addr len id dom data be g d hup hi hid h0 h1 hl => ?_,
    fun s id addr n bs hb _ => respondRead_beats id hb⟩
  · -- The offset is named by `k`'s address, as the lemmas have it: a definitional check of the subtraction would count its literal down.
    generalize ho : addr.toNat - 0x40000000 = o'
    intro n o k go err quiet whole
    replace ho : k.addr - 0x40000000 = o' := ho
    subst ho
    have hgo : go s = .next (s.eddy k) := exec_eddyCommand hup
    refine ⟨fun hf => by rw [hgo, eddy_full hf], fun hf h => by rw [hgo, eddy_refused hf h]; rfl, fun hf hid hl => ?_⟩
    have takes : s.EddyTakes k := ⟨hf, hid, hl⟩
    have onePiece (h : whole) : k.pieces = [(k.addr, (k.data.drop (k.addr % 8)).take k.n)] :=
      pieces_of_full (Nat.succ_pos _) (le_eddyBeats addr len) h.1 h.2
    refine ⟨fun h0 h1 hw => ?window, fun h => ?miss, fun h0 h1 => ?vat, fun h0 => ?seq⟩
    case window => rw [hgo, eddy_window takes h0 h1, eddyWindow_waits hw]
    case miss =>
      obtain ⟨hc, hm⟩ := misses_of_hole h
      obtain ⟨hv, hr, hx, hf, hresp⟩ := eddy_missed takes hc hm
      exact ⟨_, hgo, hv, hr, hx, hf, hresp⟩
    case vat =>
      have hp : placeOf k.addr = .vat := placeOf_vat h0 h1
      rw [eddy_vat takes h0 h1] at hgo
      refine ⟨fun h => by rw [hgo, eddyVat_barred h]; rfl, fun hv hb hm => ⟨fun h => ?split, fun h => ?columns, fun ha =>
        ⟨fun hw hq => ?quiet, fun u loc hw hlo hhi => ?report, fun hw hm0 hwh => ?wholeWrite, fun hw => ?write⟩⟩⟩
      case split =>
        obtain ⟨u, he, hu⟩ := eddyVat_split hv hb hm h
        exact ⟨u, by rw [hgo, he]; rfl, hu⟩
      case columns =>
        obtain ⟨tab, l, e, hr⟩ := readColumns_spec (s := s) o
        have hgo' : go (s.readColumns o) = .next ((s.readColumns o).eddy k) := exec_eddyCommand (by rw [hr]; exact hup)
        rw [hgo, hgo', eddy_vat (takes.readColumns o) h0 h1, eddyVat_readColumns hv hb hm h]
      case quiet =>
        rw [eddyVat_quiet hv hb ha hw hq] at hgo
        exact ⟨fun hh => by rw [hgo, vatView_free hh], fun i hh => by rw [hgo, vatView_hosted hh]⟩
      case report =>
        exact ⟨fun hd => ⟨_, hgo, eddyVat_corrected hv hb ha hw hp hlo hhi hd⟩,
          fun hd => ⟨_, hgo, eddyVat_uncorrectable hv hb ha hw hp hlo hhi hd⟩⟩
      case wholeWrite =>
        rw [eddyVat_write hv hb ha hw (hm hw), onePiece hwh] at hgo
        exact ⟨fun hh => by rw [hgo, eddyPoke_wholeVat hm0 hp hh], fun i hh => by rw [hgo, eddyPoke_wholeHosted hm0 hp hh]⟩
      case write =>
        rw [eddyVat_write hv hb ha hw (hm hw)] at hgo
        refine ⟨fun h => by rw [hgo, eddyPoke_waits h], fun s1 hr hh => ?_, fun s1 i hr hh => ?_⟩
        · exact ⟨_, hgo, eddyPoke_storesVat hl hr h0 h1 hh⟩
        · exact ⟨_, hgo, eddyPoke_storesHosted hl hr h0 h1 hh⟩
    case seq =>
      have hp : placeOf k.addr = .seq := placeOf_seq h0
      have hseq (h : s.seqPlace k.addr ≠ .miss) : go s = .next (s.eddySeq k) := by rw [hgo, eddy_seq takes h0 h]
      refine ⟨fun i hi => ?rom, fun i hi => ?ram, fun u loc hm hw hlo hhi hd => ⟨_, hseq hm, eddySeq_lost hw hp hlo hhi hd⟩⟩
      case rom =>
        have hgo := hseq (by rw [hi]; exact SeqPlace.noConfusion)
        refine ⟨fun hw => by rw [hgo, eddySeq_rom hi, if_pos hw]; rfl, fun hw hq => ?_⟩
        rw [hgo, eddySeq_read hw, eddyReach_quiet hw hq, seqBytes_rom hl hi]
      case ram =>
        have hgo := hseq (by rw [hi]; exact SeqPlace.noConfusion)
        refine ⟨fun hw hq => ?_, fun hw h => by rw [hgo, eddySeq_ramBarred hi hw h]; rfl, fun hw hs hm0 hwh => ?_, fun hw hs hm => ?_⟩
        · rw [hgo, eddySeq_read hw, eddyReach_quiet hw hq, seqBytes_ram hl hi]
        · rw [hgo, eddySeq_ramWrite hi hw hs (by rw [hm0]; decide), onePiece hwh, eddyPoke_wholeRam hm0 hp hi]
        · rw [eddySeq_ramWrite hi hw hs hm] at hgo
          exact ⟨fun h => by rw [hgo, eddyPoke_waits h], fun s1 hr => ⟨_, hgo, eddyPoke_storesRam hl hr h0 hi⟩⟩
  · intro n k go
    have takes : s.EddyTakes k := ⟨notFull_of_idWaits hi, hid, hl⟩
    have hgo : go = .next (s.eddyWindow k) := by rw [← eddy_window takes h0 h1]; exact exec_eddyCommand hup
    refine ⟨fun hw h8 h4 => ?badRead, fun off p hw h8 ha hn => ?read, fun hw h => ?badWrite, fun a bs off p hw hp h8 ha hb ht => ?write,
      fun hn h8 hbe hd => ?piece⟩
    case badRead =>
      have hnone : k.access = none := by rw [access_read hw, windowPart_none h0 ⟨h8, h4⟩]; rfl
      rw [hgo, eddyWindow_noRegister hi hnone, errorTo_read hw]
    case read =>
      have ha' : k.addr = windowAddr off p := ha
      have hn' : k.n = partSize p := hn
      have hsome : k.access = some (off, p, []) := by rw [access_read hw, ha', hn', windowPart_window off p h8]; rfl
      refine ⟨fun hm => ?_, fun hm => ⟨_, by rw [hgo, eddyWindow_read hi hw hsome h8 hm], rfl⟩⟩
      rw [hgo, eddyWindow_readRefused hi hw hsome h8 hm, errorTo_read hw]
    case badWrite =>
      rw [hgo, eddyWindow_noRegister hi (access_writeNone hw h0 h), errorTo_write hw]
    case write =>
      have hsome : k.access = some (off, p, bs) := by rw [access_write hw hp, ha, hb, windowPart_window off p h8]; rfl
      rw [eddyWindow_write hi hw hsome] at hgo
      exact ⟨fun u hu => by rw [hgo, regWrite_written ht hu], fun hu => by rw [hgo, regWrite_refused ht hu]; rfl⟩
    case piece =>
      have h8' : k.addr % 8 = 0 := h8
      have hn' : k.n = 8 := hn
      have hk : k.addr % 8 + k.n = 8 := by rw [h8', hn']
      rw [pieces_of_full (Nat.succ_pos _) (Nat.le_of_eq hk) hbe hd, h8', List.drop_zero,
        List.take_of_length_le (show data.length ≤ k.n by omega)]

end Sys2Proof.Machine
end

section
/-! Sparse stores in any form: what a write leaves does not rest on the store being canonical. -/

namespace Sys2Proof.Machine

variable {α : Type} [DecidableEq α] {d : α}

/-- A run of values, and the store that lists nothing before its end. -/
theorem spGet_run_from (m : List (Nat × α)) (a : Nat) (vs : List α) (b : Nat) :
    spGet d (spRun d a vs ++ spFrom m (a + vs.length)) b =
      if b < a + vs.length then spGet d (spRun d a vs) b else spGet d (spFrom m (a + vs.length)) b :=
  spGet_append_above (spRun_lt a vs) (fun _ => spGet_spFrom_below) b

theorem spGet_spWrite (m : List (Nat × α)) (a : Nat) (vs : List α) (b : Nat) :
    spGet d (spWrite d m a vs) b = if a ≤ b ∧ b < a + vs.length then vs.getD (b - a) d else spGet d m b := by
  have before : ∀ x, x < a → spGet d (spRun d a vs ++ spFrom m (a + vs.length)) x = d := fun x hx => by
    rw [spGet_run_from, if_pos (by omega), spGet_run, if_neg (by omega)]
  rw [spWrite, spGet_append_above spBelow_lt before]
  obtain h | ⟨h, h'⟩ | h : b < a ∨ (a ≤ b ∧ b < a + vs.length) ∨ a + vs.length ≤ b := by omega
  · rw [if_pos h, if_neg (by omega), spGet_spBelow h]
  · rw [if_neg (by omega), spGet_run_from, if_pos h', if_pos ⟨h, h'⟩, spGet_run, if_pos h]
  · rw [if_neg (by omega), spGet_run_from, if_neg (by omega), if_neg (by omega), spGet_spFrom h]

theorem spGet_spSet (m : List (Nat × α)) (a : Nat) (v : α) (b : Nat) :
    spGet d (spSet d m a v) b = if b = a then v else spGet d m b := by
  rw [spSet, spGet_spWrite]
  by_cases h : b = a
  · subst h
    simp
  · rw [if_neg h, if_neg (by simp only [List.length_singleton]; omega)]

end Sys2Proof.Machine
end

section
/-! Pattern registers (16 R493): a write takes the bits that the KIND standing in the register gives the quad a field, and a write that
changes KIND leaves quad 0 with its fields alone and the other quads zero. -/

namespace Sys2Proof.Machine

variable {x : Ctx} {n q : Nat} {p : Part} {v : Quad} {dom : Option (BitVec 8)} {g : Bool}

/-- Quad `q` of a pattern register with the bits of `v` that a write of a part of it takes. -/
def Ctx.patMerge (x : Ctx) (n q : Nat) (p : Part) (v : Quad) : Quad :=
  let m := fieldMask (patFields (patKind (x.patQuad n 0)) q) &&& partMask p
  (x.patQuad n q &&& ~~~m) ||| (v &&& m)

/-- The write leaves KIND as it stands, so that it takes effect on its own quad alone. -/
def Ctx.keepsKind (x : Ctx) (n q : Nat) (p : Part) (v : Quad) : Prop := q ≠ 0 ∨ patKind (x.patMerge n q p v) = patKind (x.patQuad n 0)

theorem patQuad_writePat_keep (h : x.keepsKind n q p v) (n' q' : Nat) :
    (x.writePat n q ⟨dom, p, v, g⟩).patQuad n' q' = if n' * 32 + q' = n * 32 + q then x.patMerge n q p v else x.patQuad n' q' := by
  have hw : x.writePat n q ⟨dom, p, v, g⟩ = { x with pats := spSet 0 x.pats (n * 32 + q) (x.patMerge n q p v) } :=
    if_neg fun ⟨h0, hk⟩ => h.elim (· h0) hk
  rw [hw, Ctx.patQuad, spGet_spSet]
  rfl

theorem patQuad_setPat (qs : List Quad) {i : Nat} (h : i < qs.length) : (x.setPat n qs).patQuad n i = qs.getD i 0 := by
  rw [Ctx.setPat, Ctx.patQuad, spGet_spWrite, if_pos (by omega), Nat.add_sub_cancel_left]

theorem patQuad_writePat_kind (h : patKind (x.patMerge n 0 p v) ≠ patKind (x.patQuad n 0)) {i : Nat} (hi : i < 32) :
    (x.writePat n 0 ⟨dom, p, v, g⟩).patQuad n i =
      if i = 0 then x.patMerge n 0 p v &&& fieldMask (patFields (patKind (x.patQuad n 0)) 0) else 0 := by
  have hw : x.writePat n 0 ⟨dom, p, v, g⟩ = x.setPat n
      ((x.patMerge n 0 p v &&& fieldMask (patFields (patKind (x.patQuad n 0)) 0)) :: List.replicate 31 0) := if_pos ⟨rfl, h⟩
  rw [hw, patQuad_setPat _ (by simpa using hi)]
  cases i with
  | zero => rfl
  | succ j =>
    have hj : j < 31 := Nat.lt_of_succ_lt_succ hi
    rw [if_neg (Nat.succ_ne_zero j), List.getD_cons_succ, List.getD_eq_getElem?_getD, List.getElem?_replicate, if_pos hj]
    rfl

/-- The offset of a pattern quad is its own register's (16 R475). -/
theorem regAt_pat (c : CtxId) (n q : Fin 32) : regAt (0x10000 + 0x2000 * c.val + 0x100 * n.val + 8 * q.val) = .pat c n q := by
  have hc : ctxOf ((0x10000 + 0x2000 * c.val + 0x100 * n.val + 8 * q.val - 0x10000) / 0x2000) = c := Fin.ext (by
    simp only [ctxOf, Fin.val_ofNat]; omega)
  have hn : Fin.ofNat 32 ((0x10000 + 0x2000 * c.val + 0x100 * n.val + 8 * q.val - 0x10000) % 0x2000 / 0x100) = n := Fin.ext (by
    simp only [Fin.val_ofNat]; omega)
  have hq : Fin.ofNat 32 ((0x10000 + 0x2000 * c.val + 0x100 * n.val + 8 * q.val - 0x10000) % 0x100 / 8) = q := Fin.ext (by
    simp only [Fin.val_ofNat]; omega)
  unfold regAt
  rw [if_neg (by omega), if_neg (by omega), if_neg (by omega), if_neg (by omega), if_neg (by omega), if_neg (by omega),
    if_neg (by omega), if_neg (by omega), if_neg (by omega), if_neg (by omega), if_pos (by omega), hc, hn, hq]

section Write
variable {s : State} {src : Source} {c : CtxId} {m r : Fin 32} {off : Nat} (h : s.takesWrite src 0 off p v = true)
  (ho : s.ownerSrc c src = true) (hr : regAt off = .pat c m r)
include h ho hr

theorem regWrite_pat : (s.regWrite src 0 off p v false).ctx c = (s.ctx c).writePat m.val r.val ⟨some (s.srcDomain src), p, v, false⟩ := by
  rw [(regWrite_allowed h hr false rfl rfl ho).ctx, ctx_upCtx_same]

theorem patQuad_regWrite_keep (hk : (s.ctx c).keepsKind m.val r.val p v) (n' q' : Fin 32) :
    ((s.regWrite src 0 off p v false).ctx c).patQuad n'.val q'.val =
      if (n', q') = (m, r) then (s.ctx c).patMerge m.val r.val p v else (s.ctx c).patQuad n'.val q'.val := by
  have hplace : n'.val * 32 + q'.val = m.val * 32 + r.val ↔ (n', q') = (m, r) := by
    rw [Prod.mk.injEq, Fin.ext_iff, Fin.ext_iff]
    omega
  simp only [regWrite_pat h ho hr, patQuad_writePat_keep hk, hplace]

theorem patQuad_regWrite_kind (h0 : r.val = 0)
    (hk : patKind ((s.ctx c).patMerge m.val r.val p v) ≠ patKind ((s.ctx c).patQuad m.val 0)) (q' : Fin 32) :
    ((s.regWrite src 0 off p v false).ctx c).patQuad m.val q'.val = if q'.val = 0 then
      (s.ctx c).patMerge m.val r.val p v &&& fieldMask (patFields (patKind ((s.ctx c).patQuad m.val 0)) 0) else 0 := by
  rw [h0] at hk
  rw [regWrite_pat h ho hr, h0, patQuad_writePat_kind hk q'.isLt]

end Write

end Sys2Proof.Machine
end

section
/-! The staging rule of the triplicated tables (02 R50; 09 R298; 12 R405, R407; 13 R431): what a write leaves of a register and of the half
that waits, and what its reads leave. -/

namespace Sys2Proof.Machine

variable {s t u : State} {q r : TabReg} {off : Nat} {p : Part} {v : Quad} {a : Access} {fix : Quad → Quad}

/-! The halves that wait. -/

theorem TabReg.put_staged (r : TabReg) (t : Tables) (v : Trip) : (r.put t v).staged = t.staged := by cases r <;> rfl

theorem compare_staged (r : TabReg) : (s.compare r).tab.staged = s.tab.staged := by
  unfold State.compare
  dsimp only
  split
  · rw [logTable_tab]
  · split
    · rw [logTable_tab]
      exact TabReg.put_staged ..
    · rfl

theorem compareAll_staged (rs : List TabReg) : (s.compareAll rs).tab.staged = s.tab.staged := by
  induction rs generalizing s with
  | nil => rfl
  | cons r t ih => exact ih.trans (compare_staged r)

theorem stagedLow_readFor (off : Nat) (a : Access) (r : TabReg) : (s.readFor off a).stagedLow r = s.stagedLow r := by
  rw [State.stagedLow, State.stagedLow, State.readFor, compareAll_staged]

theorem find_unstage (r : TabReg) : ((s.unstage r).tab.staged.find? fun x => x.1 == r.offset) = none := by
  simp [State.unstage]

theorem stagedLow_unstage (r : TabReg) : (s.unstage r).stagedLow r = none := by
  rw [State.stagedLow, find_unstage]
  rfl

/-! A write. -/

/-- A half that begins to wait takes the place of one that waited. -/
theorem stagedLow_writeStaged_low (h : a.part = .low) : (s.writeStaged r a fix).stagedLow r = some (a.value.setWidth 32) := by
  rw [State.writeStaged, h]
  show (((s.unstage r).tab.staged ++ [(r.offset, a.value.setWidth 32)]).find? fun x => x.1 == r.offset).map Prod.snd = _
  rw [List.find?_append, find_unstage]
  simp

theorem get_unstage (q r : TabReg) : q.get (s.unstage r).tab = q.get s.tab := by cases q <;> rfl

theorem get_writeStaged_low (h : a.part = .low) (q : TabReg) : q.get (s.writeStaged r a fix).tab = q.get s.tab := by
  rw [State.writeStaged, h]
  cases q <;> rfl

/-- A write with bits 63:32 takes effect at once. -/
theorem writeStaged_now (h : a.part ≠ .low) : s.writeStaged r a fix = (s.putTab r (fix (s.takes r a))).unstage r := by
  unfold State.writeStaged
  split
  · exact absurd ‹_› h
  · rfl

theorem takes_writeStaged_now (h : a.part ≠ .low) :
    (s.writeStaged r a fix).stagedLow r = none ∧ (s.writeStaged r a fix).tabVal r = fix (s.takes r a) := by
  rw [writeStaged_now h]
  refine ⟨stagedLow_unstage r, ?_⟩
  rw [State.tabVal, get_unstage, ← State.tabVal, tabVal_putTab_same]

theorem get_writeStaged_other (h : q ≠ r) : q.get (s.writeStaged r a fix).tab = q.get s.tab := by
  by_cases hl : a.part = .low
  · exact get_writeStaged_low hl q
  · rw [writeStaged_now hl, get_unstage]
    exact TabReg.get_put_other h ..

/-- The staging rule. -/
theorem tableTakes_writeStaged : s.tableTakes (s.writeStaged r a fix) r a.part a.value fix := by
  refine ⟨fun q h => get_writeStaged_other h, ?_⟩
  have now := takes_writeStaged_now (s := s) (r := r) (a := a) (fix := fix)
  unfold State.takes at now
  split
  next h => exact ⟨get_writeStaged_low h r, stagedLow_writeStaged_low h⟩
  next h =>
    rw [h] at now
    exact now nofun
  next h =>
    rw [h] at now
    exact now nofun

/-! What a write reads. -/

theorem get_compareAll_other {rs : List TabReg} (h : q ∉ rs) : q.get (s.compareAll rs).tab = q.get s.tab := by
  induction rs generalizing s with
  | nil => rfl
  | cons r t ih =>
    obtain ⟨hr, ht⟩ := not_or.1 (mt List.mem_cons.2 h)
    exact (ih ht).trans (get_compare_other hr)

/-- The write reads at most its own register, and that only where it takes effect. -/
def State.readsOwn (s : State) (off : Nat) (a : Access) (r : TabReg) : Prop := ∀ q ∈ s.writeReads off a, q = r ∧ a.part ≠ .low

/-- The standing half alone is read, where the write is not barred (`b`) and needs it. -/
theorem readsOwn_of_standing {b : Bool} (hr : r.table ≠ 3) (h : s.writeReads off a = if b then [] else s.standing r a) :
    s.readsOwn off a r := by
  intro q hq
  rw [h] at hq
  unfold State.standing at hq
  split at hq
  next => exact absurd hq List.not_mem_nil
  next =>
    split at hq
    next => exact absurd hq List.not_mem_nil
    next hn => exact ⟨List.mem_singleton.1 hq, fun hl => hn (.inr ⟨hr, .inl hl⟩)⟩

theorem readsOwn_fmt {n : Fin 32} (hr : regAt off = .fmtLo n) (hn : 16 ≤ n.val) : s.readsOwn off a (.fmt (Fin.ofNat 16 (n.val - 16))) := by
  refine readsOwn_of_standing (b := s.barsWrite off a || !s.tableOpen (.fmtLo n) a) nofun ?_
  rw [State.writeReads, hr]
  dsimp only
  rw [if_neg (Nat.not_lt.2 hn)]

theorem readsOwn_scurve {n : Fin 32} (hr : regAt off = .curve (.scurve n)) : s.readsOwn off a (.scurve n) := by
  refine readsOwn_of_standing (b := s.barsWrite off a || !s.tableOpen (.curve (.scurve n)) a) nofun ?_
  rw [State.writeReads, hr]

/-- A fixed format entry has its write read nothing of the tables. -/
theorem readFor_fixedFmt {n : Fin 32} (hr : regAt off = .fmtLo n) (hn : n.val < 16) : s.readFor off a = s := by
  have e : s.writeReads off a = [] := by simp [State.writeReads, hr, hn]
  rw [State.readFor, e]
  rfl

/-- What such a write leaves, seen from the state before its reading. -/
theorem State.tableTakes.of_readFor (ho : s.readsOwn off a r) (h : (s.readFor off a).tableTakes t r a.part v fix) :
    s.tableTakes t r a.part v fix := by
  obtain ⟨hother, hr⟩ := h
  refine ⟨fun q hq => (hother q hq).trans (get_compareAll_other fun hm => hq (ho q hm).1), ?_⟩
  rw [stagedLow_readFor, tabVal_readFor] at hr
  split at hr
  next hl => exact ⟨hr.1.trans (get_compareAll_other fun hm => (ho r hm).2 hl), hr.2⟩
  next => exact hr
  next => exact hr

/-! The tests of a write go by the same values before and after its reading. -/

theorem tableDomain_readFor (off : Nat) (a : Access) (d : BitVec 8) : (s.readFor off a).tableDomain d = s.tableDomain d := by
  obtain ⟨tab, l, e, h⟩ := readFor_spec (s := s) off a
  rw [h]
  rfl

theorem throttleRefused_readFor (off : Nat) (a b : Access) : (s.readFor off a).throttleRefused r b = s.throttleRefused r b := by
  simp only [State.throttleRefused, State.setsMask, State.takes, stagedLow_readFor, tabVal_readFor]

end Sys2Proof.Machine
end

section
/-! Writes of format entries, scale curves and throttle tables through the control window (02 R50; 09 R298; 13 R431; 14 R444). -/

namespace Sys2Proof.Machine

variable {s t u : State} {r : TabReg} {src : Source} {off : Nat} {p : Part} {v : Quad} {fix : Quad → Quad}

/-! Where the registers lie (16 R475). -/

theorem regAt_fmtLo : ∀ n : Fin 32, regAt (0x4000 + 16 * n.val) = .fmtLo n := by decide

theorem regAt_scurve : ∀ (k : Fin 16) (hi : Bool),
    regAt (0x5000 + 16 * k.val + 8 * b2n hi) = .curve (.scurve (Fin.ofNat 32 (2 * k.val + b2n hi))) := by decide

/-- No register of the throttle tables is a scale curve's. -/
theorem regAt_tcurve_ne : ∀ (n : Fin 24) (k : Fin 32), regAt (tcurveOff n) ≠ .curve (.scurve k) := by decide

/-! Records and answers leave the tables alone. -/

theorem State.Logged.tableTakes (h : u.Logged t) (hs : s.tableTakes u r p v fix) : s.tableTakes t r p v fix := by
  obtain ⟨k, x, rfl⟩ := h.rest
  exact hs

section Write
variable (h : s.takesWrite src 0 off p v = true)
include h

/-- A write that its register carries out under the staging rule. -/
theorem tableTakes_regWrite
    (hw : (s.readFor off ⟨some (s.srcDomain src), p, v, false⟩).writeReg (regAt off) ⟨some (s.srcDomain src), p, v, false⟩ =
      .ok ((s.readFor off ⟨some (s.srcDomain src), p, v, false⟩).writeStaged r ⟨some (s.srcDomain src), p, v, false⟩ fix)) :
    (s.readFor off ⟨some (s.srcDomain src), p, v, false⟩).tableTakes (s.regWrite src 0 off p v false) r p v fix :=
  (regWrite_logged h hw).tableTakes tableTakes_writeStaged

/-- A fixed format entry takes no write. -/
theorem regWrite_fixedFmt {n : Fin 32} (hr : regAt off = .fmtLo n) (hn : n.val < 16) : s.Logged (s.regWrite src 0 off p v false) := by
  refine regWrite_logged h ?_
  rw [readFor_fixedFmt hr hn, hr]
  exact if_pos hn

end Write

/-- The write of a programmable format entry. -/
theorem writeReg_fmt {n : Fin 32} (hn : 16 ≤ n.val) {a : Access} (hd : a.from s.tableDomain = true) : s.writeReg (.fmtLo n) a =
    allow (!a.reservedFmt) (s.writeStaged (.fmt (Fin.ofNat 16 (n.val - 16))) a (· &&& fmtMask)) := by
  show (if n.val < 16 then _ else s.writeFmt (.fmt (Fin.ofNat 16 (n.val - 16))) a) = _
  rw [if_neg (by omega), State.writeFmt, hd, Bool.true_and]

/-- The write of a throttle table register. -/
theorem writeReg_throttle (hr : ∀ k, r ≠ .scurve k) {a : Access} (hs : s.bySuper a = true) : s.writeReg (.curve r) a =
    allow (!s.throttleRefused r a) (s.writeStaged r a (clampEnvelope r)) := by
  have hw : s.writeReg (.curve r) a = s.writeThrottle r a := by
    cases r with
    | scurve k => exact absurd rfl (hr k)
    | _ => rfl
  rw [hw, State.writeThrottle, hs, Bool.true_and]

section Domain
variable (h : s.takesWrite src 0 off p v = true) (hd : s.tableDomain (s.srcDomain src) = true)

include hd in
theorem from_tableDomain_readFor : Access.from ⟨some (s.srcDomain src), p, v, false⟩
    (s.readFor off ⟨some (s.srcDomain src), p, v, false⟩).tableDomain = true :=
  (tableDomain_readFor _ _ _).trans hd

include h hd

theorem regWrite_fmt_reserved {n : Fin 32} (hr : regAt off = .fmtLo n) (hn : 16 ≤ n.val)
    (hb : Access.reservedFmt ⟨none, p, v, false⟩ = true) :
    s.regWrite src 0 off p v false = (s.readFor off ⟨some (s.srcDomain src), p, v, false⟩).answer src 0 true := by
  refine regWrite_refused h ?_
  have hb' : Access.reservedFmt ⟨some (s.srcDomain src), p, v, false⟩ = true := hb
  rw [hr, writeReg_fmt hn (from_tableDomain_readFor hd), hb']
  rfl

theorem regWrite_fmt_takes {n : Fin 32} (hr : regAt off = .fmtLo n) (hn : 16 ≤ n.val)
    (hb : Access.reservedFmt ⟨none, p, v, false⟩ = false) :
    s.tableTakes (s.regWrite src 0 off p v false) (.fmt (Fin.ofNat 16 (n.val - 16))) p v (· &&& fmtMask) := by
  have hb' : Access.reservedFmt ⟨some (s.srcDomain src), p, v, false⟩ = false := hb
  refine .of_readFor (readsOwn_fmt hr hn) (tableTakes_regWrite h ?_)
  rw [hr, writeReg_fmt hn (from_tableDomain_readFor hd), hb']
  rfl

theorem regWrite_scurve_takes {n : Fin 32} (hr : regAt off = .curve (.scurve n)) :
    s.tableTakes (s.regWrite src 0 off p v false) (.scurve n) p v (· &&& curveMask (.scurve n)) := by
  refine .of_readFor (readsOwn_scurve hr) (tableTakes_regWrite h ?_)
  rw [hr]
  exact if_pos (from_tableDomain_readFor hd)

end Domain

section Throttle
variable (h : s.takesWrite src 0 off p v = true) (hs : s.superSrc src = true) (hr : regAt off = .curve r) (hk : ∀ k, r ≠ .scurve k)

include hs hr hk in
/-- Whether a throttle write is refused stands before it has read the registers that its tests name. -/
theorem writeReg_throttle_readFor :
    (s.readFor off ⟨some (s.srcDomain src), p, v, false⟩).writeReg (regAt off) ⟨some (s.srcDomain src), p, v, false⟩ =
      allow (!s.throttleRefused r ⟨none, p, v, false⟩) ((s.readFor off ⟨some (s.srcDomain src), p, v, false⟩).writeStaged r
        ⟨some (s.srcDomain src), p, v, false⟩ (clampEnvelope r)) := by
  obtain ⟨hsup, -, -, -⟩ := readFor_fields (s := s) off ⟨some (s.srcDomain src), p, v, false⟩
  rw [hr, writeReg_throttle hk ((hsup ⟨some (s.srcDomain src), p, v, false⟩).trans hs), throttleRefused_readFor]
  rfl

include h hs hr hk

theorem regWrite_throttle_refused (hb : s.throttleRefused r ⟨none, p, v, false⟩ = true) :
    s.regWrite src 0 off p v false = (s.readFor off ⟨some (s.srcDomain src), p, v, false⟩).answer src 0 true := by
  refine regWrite_refused h ?_
  rw [writeReg_throttle_readFor hs hr hk, hb]
  rfl

theorem regWrite_throttle_takes (hb : s.throttleRefused r ⟨none, p, v, false⟩ = false) :
    (s.readFor off ⟨some (s.srcDomain src), p, v, false⟩).tableTakes (s.regWrite src 0 off p v false) r p v (clampEnvelope r) := by
  refine tableTakes_regWrite h ?_
  rw [writeReg_throttle_readFor hs hr hk, hb]
  rfl

end Throttle

/-- Settles O46: each command is a write of its register (`whenUp_up`), whose outcome is a lemma of its table; pattern quads by whether KIND
stands. -/
theorem tableWrites : Obligations.TableWrites := by
  unfold Obligations.TableWrites
  refine ⟨?fmt, ?scurve, ?throttle, ?pattern⟩
  case fmt =>
    rintro s src n p v r rfl h
    have hgo : exec (.fmtWrite src n p v) s = _ := whenUp_up (takesWrite_up h)
    refine ⟨fun hn => ?_, fun hn hd => ⟨fun hb => ?_, fun hb => ⟨_, hgo, regWrite_fmt_takes h hd (regAt_fmtLo n) hn hb⟩⟩⟩
    · obtain ⟨k, x, ht⟩ := (regWrite_fixedFmt h (regAt_fmtLo n) hn).rest
      exact ⟨_, hgo, by rw [ht], by rw [ht]⟩
    · rw [hgo, regWrite_fmt_reserved h hd (regAt_fmtLo n) hn hb]
  case scurve =>
    rintro s src k hi p v r rfl h hd
    exact ⟨_, whenUp_up (takesWrite_up h), regWrite_scurve_takes h hd (regAt_scurve k hi)⟩
  case throttle =>
    intro s src n p v r hr h hs u
    have hk : ∀ k, r ≠ .scurve k := fun k hk => regAt_tcurve_ne n k (hk ▸ hr)
    have hgo : exec (.tcurveWrite src n p v) s = _ := whenUp_up (takesWrite_up h)
    refine ⟨tabVal_readFor _ _, fun hb => ?_, fun hb => ⟨_, hgo, regWrite_throttle_takes h hs hr hk hb⟩⟩
    rw [hgo, regWrite_throttle_refused h hs hr hk hb]
  case pattern =>
    intro s src c n q p v h ho x m w
    have hgo : exec (.patQuadWrite src c n q p v) s = _ := whenUp_up (takesWrite_up h)
    have hr := regAt_pat c n q
    refine ⟨fun hk => ?keep, fun hq hk => ?kind⟩
    case keep =>
      have hquad := patQuad_regWrite_keep h ho hr hk
      exact ⟨_, hgo, (hquad n q).trans (if_pos rfl), fun n' q' hne => (hquad n' q').trans (if_neg hne)⟩
    case kind =>
      have hquad := patQuad_regWrite_kind h ho hr hq hk
      exact ⟨_, hgo, hquad 0, fun q' hq' => (hquad q').trans (if_neg hq')⟩

end Sys2Proof.Machine
end

section
/-! Rules for an instruction that writes at one point (04 R130, R136): tiles committed whole, a run of one unit, and what a completion leaves. -/

namespace Sys2Proof.Machine

variable {s t u : State} {c : CtxId} {n : Seq} {e f : Entry}

/-! Tiles committed whole (03 R84, R86). -/

theorem bytesAt_putBytes_same (m : Bytes) (a : Nat) (bs : List Byte) : bytesAt (putBytes m a bs) a bs.length = bs := by
  rw [bytesAt_eq_map]
  refine List.ext_getElem (by simp) fun i _ h => ?_
  simp [byteAt_write, h]

/-- A write leaves the bytes below it. -/
theorem bytesAt_putBytes_below {m : Bytes} {a k b : Nat} (h : a + k ≤ b) (bs : List Byte) : bytesAt (putBytes m b bs) a k = bytesAt m a k := by
  rw [bytesAt_eq_map, bytesAt_eq_map]
  refine List.map_congr_left fun i hi => ?_
  have := List.mem_range.1 hi
  rw [byteAt_write, if_neg (by omega)]

/-- A write of no bytes changes nothing. -/
theorem putBytes_nil (m : Bytes) (a : Nat) : putBytes m a [] = m := by
  show spBelow m a ++ ([] ++ spFrom m a) = m
  induction m with
  | nil => rfl
  | cons p r ih =>
    unfold spBelow spFrom
    split
    · exact congrArg (p :: ·) ih
    · rfl

/-- What a tile holds goes by its own state and the tile store. -/
theorem State.tileHolds.congr {k : Nat} {w : Quad} {bs : List Byte} (h : t.tileHolds k w bs) (htile : u.tile k = t.tile k)
    (hmem : u.tileMem = t.tileMem) : u.tileHolds k w bs := by
  obtain ⟨hs, hb⟩ := h
  refine ⟨htile.trans hs, ?_⟩
  rw [State.tileBytes, hmem]
  exact hb

theorem tileHolds_commitTile_same {k : Nat} (hk : k < 512) (w : Quad) (bs : List Byte) : (s.commitTile k w bs).tileHolds k w bs :=
  ⟨tile_setTile_same _ hk, bytesAt_putBytes_same ..⟩

/-- A tile stands when one of a higher number is committed. -/
theorem State.tileHolds.commitTile_above {k j : Nat} {w v : Quad} {bs : List Byte} (h : s.tileHolds k w bs) (hkj : k < j)
    (hlen : bs.length ≤ 32768) (cs : List Byte) : (s.commitTile j v cs).tileHolds k w bs := by
  obtain ⟨hs, hb⟩ := h
  refine ⟨(tile_setTile_other _ (Nat.ne_of_lt hkj)).trans hs, ?_⟩
  have : tileBase k + 0 + bs.length ≤ tileBase j + 0 := by
    unfold tileBase
    omega
  exact (bytesAt_putBytes_below this cs).trans hb

/-- Tiles in ascending order, committed one after the other, hold each its own bytes. -/
theorem foldl_commitTile_holds {ts : List Nat} (hlt : ∀ k ∈ ts, k < 512) (hasc : ts.Pairwise (· < ·)) (w : Quad) {bs : Nat → List Byte}
    (hlen : ∀ r, (bs r).length ≤ 32768) : ∀ m ≤ ts.length, ∀ r < m,
      ((List.range m).foldl (fun s r => s.commitTile (ts.getD r 0) w (bs r)) s).tileHolds (ts.getD r 0) w (bs r) := by
  have hget {r : Nat} (hr : r < ts.length) : ts.getD r 0 = ts[r] := by simp [hr]
  intro m
  induction m with
  | zero => exact fun _ r hr => absurd hr (Nat.not_lt_zero r)
  | succ m ih =>
    intro hm r hr
    rw [List.range_succ, List.foldl_append]
    obtain hr | rfl := Nat.lt_succ_iff_lt_or_eq.1 hr
    · refine (ih (by omega) r hr).commitTile_above ?_ (hlen r) _
      rw [hget (by omega), hget (by omega)]
      exact List.pairwise_iff_getElem.1 hasc r m _ _ hr
    · refine tileHolds_commitTile_same ?_ ..
      rw [hget (by omega)]
      exact hlt _ (List.getElem_mem _)

/-- Commits of tiles change the tiles and their bytes alone. -/
theorem foldl_commitTile_spec (w : Quad) (k : Nat → Nat) (bs : Nat → List Byte) (l : List Nat) :
    ∃ tiles mem, l.foldl (fun s r => s.commitTile (k r) w (bs r)) s = { s with tiles := tiles, tileMem := mem } := by
  induction l generalizing s with
  | nil => exact ⟨_, _, rfl⟩
  | cons r l ih =>
    obtain ⟨tiles, mem, h⟩ := ih (s := s.commitTile (k r) w (bs r))
    exact ⟨tiles, mem, h⟩

/-! Last uses (03 R90). -/

/-- Last uses change the states of tiles that are no destinations, and nothing else. -/
theorem lastUses_spec (dests : List Nat) (l : List (Nat × Bool)) :
    ∃ tiles, s.lastUses dests l = { s with tiles := tiles } ∧ ∀ k ∈ dests, (s.lastUses dests l).tile k = s.tile k := by
  induction l generalizing s with
  | nil => exact ⟨_, rfl, fun _ _ => rfl⟩
  | cons p l ih =>
    obtain ⟨j, last⟩ := p
    unfold State.lastUses
    split
    next h =>
      obtain ⟨tiles, hs, hk⟩ := ih (s := s.lastUse j)
      refine ⟨tiles, hs, fun k hd => (hk k hd).trans (tile_setTile_other _ ?_)⟩
      rintro rfl
      simp [hd] at h
    next => exact ih

/-! What a completion leaves (06 R190). -/

theorem settle_rchk (x : Ctx) : x.settle.rchk = x.rchk := by
  unfold Ctx.settle
  dsimp only
  repeat' split
  all_goals rfl

/-- A trail digest changes the Korni state alone. -/
theorem trail_spec (c : CtxId) (n : Seq) (opcode : Nat) (parts : List (List Byte)) :
    ∃ k, s.trail c n opcode parts = { s with korni := k } := by
  unfold State.trail
  split
  · split
    · exact korniPut_spec ..
    · exact ⟨_, rfl⟩
  · exact ⟨_, rfl⟩

/-- A completion leaves the Vat, the tiles and the context's check value. -/
theorem completes_leaves (c : CtxId) (e : Entry) : (s.completes c e).vat = s.vat ∧ (s.completes c e).tiles = s.tiles ∧
    (s.completes c e).tileMem = s.tileMem ∧ ((s.completes c e).ctx c).rchk = (s.ctx c).rchk := by
  obtain ⟨k, hk⟩ := trail_spec (s := s) c e.seq e.insn.opcode (s.trailParts e)
  obtain ⟨tel, dbg, screen, xlats, bad, hc⟩ := complete_spec (s := { s with korni := k }) c e
  rw [State.completes, hk, hc]
  refine ⟨rfl, rfl, rfl, ?_⟩
  simp only [State.ctx, Fin.getElem_fin, Vector.getElem_set_self, settle_rchk]

theorem rchk_putRchk : ((s.putRchk c e).ctx c).rchk = s.rchkAfter c e e.rchk := by
  rw [State.putRchk, ctx_upCtx_same]
  rfl

/-! A run of one unit. -/

theorem seq_of_poised (hp : s.poised c n e = true) : e.seq = n := by
  obtain ⟨_, h, _⟩ := poised_iff.1 hp
  have := List.find?_some h
  exact eq_of_beq this

/-- Nothing has been reported of the reads of a poised instruction. -/
theorem hitOf_poised (hp : s.poised c n e = true) : s.hitOf c e.seq = .clean := by
  rw [seq_of_poised hp]
  obtain ⟨_, h, _, _, _, _, _, hh, _⟩ := poised_iff.1 hp
  rw [State.hitOf, h]
  exact hh

/-- The translations that an instruction held do not decide whether an access of the Vat is ready. -/
theorem vatReady_dropXlats (who : Nat) (rs : List Run) : (s.dropXlats c who).vatReady c rs = s.vatReady c rs :=
  vatReady_congr rs rfl rfl rfl rfl rfl

/-- What a read of the Vat gives goes by the Vat alone. -/
theorem readBytes_congr {rs : List Run} (who : Nat) (h : ∀ r ∈ rs, inVat r.addr = true) (hv : t.vat = s.vat) :
    t.readBytes c who rs = s.readBytes c who rs := by
  rw [State.readBytes, State.readBytes, List.flatMap_def, List.flatMap_def]
  refine congrArg List.flatten (List.map_congr_left fun r hr => ?_)
  rw [State.runBytes, State.runBytes, if_pos (h r hr), if_pos (h r hr), hv]

/-- The commit of a unit leaves what an entry holds but for its progress. -/
theorem commitUnit_keeps (e : Entry) (k : Nat) : (e.commitUnit k).seq = e.seq ∧ (e.commitUnit k).insn = e.insn ∧
    (e.commitUnit k).started = e.started ∧ (e.commitUnit k).rchk = e.rchk := by
  unfold Entry.commitUnit
  repeat' split
  all_goals exact ⟨rfl, rfl, rfl, rfl⟩

/-- A poised instruction whose checks pass and whose one unit commits completes with what the unit leaves. -/
theorem runInsn_one {P : Parts} (hP : P.Tame) {kind : Insn → Bool} (hp : s.poised c n e = true) (hk : kind e.insn = true) (h0 : e.upTo = 0)
    (hs : P.start c s e = .ok s e) (h1 : P.units (s.dropXlats c n.toNat) e.begun = 1)
    (hu : P.unit c (s.dropXlats c n.toNat) e.begun 0 = .ok t f) (ht : t.trailReady = true) :
    whenUp s (State.runInsn P kind c n s) =
      .next ((P.finish c (t.dropXlats c f.seq.toNat) (f.commitUnit 0)).completes c (f.commitUnit 0)) := by
  obtain rfl := seq_of_poised hp
  obtain ⟨hup, _, _, _, hf, hx, _⟩ := poised_iff.1 hp
  have hl : P.left (s.dropXlats c e.seq.toNat) e.begun = [0] := by
    rw [Parts.left, h1, Entry.begun, h0]
    rfl
  have hc : P.commits c (P.left (s.dropXlats c e.seq.toNat) e.begun) (s.dropXlats c e.seq.toNat) e.begun =
      some (t.dropXlats c f.seq.toNat, f.commitUnit 0) := by
    rw [hl, Parts.commits, hu]
    rfl
  rw [whenUp_up hup, runInsn_whole hP hp hk hs hx hf hc ht]

end Sys2Proof.Machine
end

section
/-! Writes of the Vat and of dense images in it (11 R358; 04 R139; 07 R220), and what follows
where an access lets its unit commit. -/

namespace Sys2Proof.Machine

variable {s t : State} {c : CtxId} {e f : Entry}

/-! Stores. -/

/-- Pieces of no bytes store nothing. -/
theorem vatAfter_nonempty (m : Bytes) (ps : List (Run × List Byte)) : vatAfter m (ps.filter fun p => p.1.len != 0) = vatAfter m ps := by
  induction ps generalizing m with
  | nil => rfl
  | cons p r ih =>
    by_cases h : p.1.len = 0
    · have hp : putBytes m (vatOffset p.1.addr) (p.2.take p.1.len) = m := by rw [h, List.take_zero, putBytes_nil]
      rw [List.filter_cons_of_neg (by simp [h]), ih]
      exact congrArg (vatAfter · r) hp.symm
    · rw [List.filter_cons_of_pos (by simp [h])]
      exact ih _

theorem foldl_storeRun_vat {ps : List (Run × List Byte)} (who : Nat) (h : ∀ p ∈ ps, inVat p.1.addr = true) :
    ps.foldl (fun s p => s.storeRun c who p) s = { s with vat := vatAfter s.vat ps } := by
  induction ps generalizing s with
  | nil => rfl
  | cons p r ih =>
    rw [List.foldl_cons, State.storeRun, if_pos (h p (List.mem_cons_self ..)), ih fun q hq => h q (List.mem_cons_of_mem _ hq)]
    rfl

/-- A store of pieces of the Vat writes them in order; a write to acknowledge and the telemetry are all else that changes. -/
theorem store_vat {ps : List (Run × List Byte)} (k : Carrier) (n : Seq) (h : ∀ p ∈ ps, inVat p.1.addr = true) :
    ∃ tel unacked, s.store k c n ps = { s with vat := vatAfter s.vat ps, tel := tel, unacked := unacked } := by
  have hne : ∀ p ∈ ps.filter fun p => p.1.len != 0, inVat p.1.addr = true := fun p hp => h p (List.mem_filter.1 hp).1
  have hchips : (ps.filter fun p => p.1.len != 0).filter (fun p => !inVat p.1.addr) = [] :=
    List.filter_eq_nil_iff.2 fun p hp => by simp [hne p hp]
  unfold State.store
  simp only [foldl_storeRun_vat _ hne, vatAfter_nonempty, hchips]
  exact ⟨_, _, rfl⟩

/-- What an entry has noted for its trail is all that a note changes. -/
theorem note_spec (j : Nat) (ps : List (Run × List Byte)) : ∃ outs, e.note s j ps = { e with outs := outs } := by
  unfold Entry.note
  split
  · exact ⟨_, rfl⟩
  · exact ⟨_, rfl⟩

/-! Dense images. -/

/-- A piece of a dense image: its base, container width, first element and codes. -/
abbrev DensePiece := Int × Nat × Nat × List Nat

def DensePiece.edges (p : DensePiece) : List Run := denseEdges p.1 p.2.1 p.2.2.1 p.2.2.2.length
def DensePiece.run (p : DensePiece) : Run := denseRun p.1 p.2.1 p.2.2.1 p.2.2.2.length

/-- The store of a piece, whose edge bytes are read from `s`. -/
def State.denseStore (s : State) (c : CtxId) (who : Nat) (p : DensePiece) : Run × List Byte :=
  (p.run, denseBytes p.2.1 p.2.2.1 p.2.2.2 (s.readBytes c who p.edges))

/-- Pieces of dense images in the Vat whose places and edges are ready are written. -/
theorem writingDense_vat {k : Carrier} {pieces : List DensePiece} (hh : s.hitOf c e.seq = .clean)
    (hv : s.vatReady c ((pieces.map DensePiece.edges).flatten ++ pieces.map DensePiece.run) = true) (img : Option Nat) (r : State → Entry → Res) :
    writingDense k c s e img pieces r = writing k c s e img (pieces.map (s.denseStore c e.seq.toNat)) r := by
  have hedges : s.vatReady c (pieces.map DensePiece.edges).flatten = true := vatReady_subset hv fun q hq => List.mem_append_left _ hq
  have hzip : ((pieces.map DensePiece.run).zip (pieces.zip (pieces.map DensePiece.edges))).map (fun p =>
      (p.1, denseBytes p.2.1.2.1 p.2.1.2.2.1 p.2.1.2.2.2 (s.readBytes c e.seq.toNat p.2.2))) =
      pieces.map (s.denseStore c e.seq.toNat) := by
    clear hv hedges
    induction pieces with
    | nil => rfl
    | cons p l ih => exact congrArg (s.denseStore c e.seq.toNat p :: ·) ih
  exact (judging_vat hv _).trans ((reading_vat hh hedges _).trans (congrArg (writing k c s e img · r) hzip))

/-! Units that commit. -/

/-- The progress of an entry is that of another. -/
def Entry.SameProgress (f e : Entry) : Prop := f.seq = e.seq ∧ f.upTo = e.upTo ∧ f.extra = e.extra ∧ f.failed = e.failed

/-- A read that lets a unit commit has gone on. -/
theorem reading_ok {rs : List Run} {r : State → List Byte → Res} (h : reading c s e rs r = .ok t f) : ∃ s1 bs, r s1 bs = .ok t f := by
  unfold reading at h
  repeat' split at h
  all_goals first
    | exact ⟨_, _, h⟩
    | cases h

theorem judging_ok {rs ws : List Run} {r : State → Res} (h : judging c s e rs ws r = .ok t f) : ∃ s1, r s1 = .ok t f := by
  unfold judging at h
  split at h
  · exact ⟨_, h⟩
  · cases h
  · cases h

theorem writing_ok {k : Carrier} {img : Option Nat} {ps : List (Run × List Byte)} {r : State → Entry → Res}
    (h : writing k c s e img ps r = .ok t f) : ∃ s1 e1, e1.SameProgress e ∧ r s1 e1 = .ok t f := by
  unfold writing at h
  split at h
  next s1 _ =>
    refine ⟨_, _, ?_, h⟩
    cases img with
    | none => exact ⟨rfl, rfl, rfl, rfl⟩
    | some j =>
      obtain ⟨outs, hn⟩ := note_spec (s := s1) (e := e) j ps
      simp only [hn]
      exact ⟨rfl, rfl, rfl, rfl⟩
  · cases h
  · cases h

theorem writingDense_ok {k : Carrier} {img : Option Nat} {pieces : List DensePiece} {r : State → Entry → Res}
    (h : writingDense k c s e img pieces r = .ok t f) : ∃ s1 e1, e1.SameProgress e ∧ r s1 e1 = .ok t f := by
  obtain ⟨s0, h⟩ := judging_ok h
  obtain ⟨s1, _, h⟩ := reading_ok h
  exact writing_ok h

end Sys2Proof.Machine
end

section
/-! PERM and PERM.X (04 R127 to R131, R136, R137; 06 R211). -/

namespace Sys2Proof.Machine

variable {s t : State} {c : CtxId} {n : Seq} {e f : Entry}

/-! The bytes of a tile laid out whole (03 R80 to R84). -/

theorem lineBytes_le_pitch (sh : Shape) : sh.lineBytes ≤ sh.pitch := by
  simp only [Shape.pitch, pitchPow]
  repeat' split
  all_goals omega

theorem length_lineBytesOf (sh : Shape) (codes : Array Nat) (l : Nat) : (lineBytesOf sh codes l).length = sh.pitch := by
  have := lineBytes_le_pitch sh
  simp only [lineBytesOf, List.length_append, length_leBytes, List.length_replicate]
  omega

/-- A tile laid out whole fills its slots. -/
theorem length_layTile (sh : Shape) (codes scales : Array Nat) : (layTile sh codes scales).length = 256 * sh.slots := by
  have helems : ((List.range sh.d.lines).flatMap (lineBytesOf sh codes)).length = sh.area := by
    simp only [List.length_flatMap, length_lineBytesOf, List.map_const', List.length_range, List.sum_replicate_nat, Shape.area]
  unfold layTile
  simp only [List.length_append, List.length_replicate]
  unfold Shape.slots Shape.footprint Shape.scaleBase
  split
  · rw [helems]
    omega
  · simp only [List.length_append, List.length_replicate, List.length_map, List.length_range, helems]
    omega

theorem firstOf_none {a : Option FaultRec} {b : Unit → Option FaultRec} : firstOf a b = none ↔ a = none ∧ b () = none := by
  cases a <;> simp [firstOf]

/-- A legal deckle's tile lies in its 32 KiB (03 R85). -/
theorem length_layTile_legal {w : Quad} {prog : List Quad} (h : wordLegal prog w = true) (codes scales : Array Nat) :
    (layTile (shapeOf prog (deckleOf w)) codes scales).length ≤ 32768 := by
  simp only [wordLegal, deckleLegal, Bool.and_eq_true, decide_eq_true_eq] at h
  obtain ⟨_, hfoot⟩ := h
  rw [length_layTile, Shape.slots]
  omega

/-- Checks that pass show the instruction's own deckle legal (04 R126). -/
theorem wordLegal_of_permChecks {os : List Operand} (h : s.permChecks e os = none) : wordLegal e.fmts (e.insn.q 1) = true := by
  obtain ⟨hown, _⟩ := firstOf_none.1 h
  simpa [ownWord, ownCheck] using hown

/-! Reams. -/

/-- The tiles of a ream ascend (04 R137). -/
theorem reamTiles_ascend (k : Nat) (mask : Quad) : (reamTiles k mask).Pairwise (· < ·) := by
  refine List.Pairwise.map _ (fun a b h => ?_) (List.Pairwise.filter _ List.pairwise_lt_range)
  omega

theorem reamTiles_lt {k j : Nat} {mask : Quad} (h : j ∈ reamTiles k mask) : j < 512 := by
  obtain ⟨i, hi, rfl⟩ := List.mem_map.1 h
  have := List.mem_range.1 (List.mem_filter.1 hi).1
  omega

theorem td_lt (i : Insn) : i.td < 512 := Nat.mod_lt _ (by decide)

/-! What a permutation of a ream delivers. -/

/-- Element `d` is the source element that the chain's pull map gives (04 R123, R131). -/
theorem permuteReam_codes {prog : List Quad} {ch : Chain} {own : Shape} {os : List Operand} {es : List Nat} {p : Permuted}
    (h : s.permuteReam prog ch own os es = some p) {d : Nat} (hd : d < own.d.count * os.length) :
    p.codes[d]? = some ((s.reamCodes prog os).getD (chainPull es ch.links d) 0) := by
  have hcodes : p.codes = (pullArray ch (own.d.count * os.length) es).map fun k => (s.reamCodes prog os).getD k 0 := by
    unfold State.permuteReam at h
    dsimp only at h
    split at h
    · rw [← Option.some.inj h]
    · split at h
      · cases h
      · rw [← Option.some.inj h]
  simp [hcodes, pullArray, hd]

theorem commitReam_spec (w : Quad) (own : Shape) (p : Permuted) (ts : List Nat) :
    ∃ tiles mem, s.commitReam w own p ts = { s with tiles := tiles, tileMem := mem } :=
  foldl_commitTile_spec ..

/-- The destination ream, written at one point, holds the delivered elements tile by tile (04 R136). -/
theorem commitReam_holds {ts : List Nat} (hlt : ∀ k ∈ ts, k < 512) (hasc : ts.Pairwise (· < ·)) (w : Quad) {own : Shape} (p : Permuted)
    (hlen : ∀ codes scales, (layTile own codes scales).length ≤ 32768) {r k : Nat} (hk : ts[r]? = some k) :
    (s.commitReam w own p ts).tileHolds k w (layTile own (slice p.codes r own.d.count) (slice p.scales r own.d.groups)) := by
  obtain ⟨hr, rfl⟩ := List.getElem?_eq_some_iff.1 hk
  have := foldl_commitTile_holds (s := s) hlt hasc w (fun r => hlen (slice p.codes r own.d.count) (slice p.scales r own.d.groups)) _
    (Nat.le_refl _) r hr
  rwa [List.getD_eq_getElem?_getD, hk, Option.getD_some] at this

theorem permuteReam_dropXlats (who : Nat) (prog : List Quad) (ch : Chain) (own : Shape) (os : List Operand) (es : List Nat) :
    (s.dropXlats c who).permuteReam prog ch own os es = s.permuteReam prog ch own os es := rfl

/-! The instruction. -/

/-- The unit of a permutation leaves its entry's progress alone. -/
theorem permUnit_keeps {os : List Operand} {ts : List Nat} (h : permUnit c s e os ts = .ok t f) : f.SameProgress e := by
  unfold permUnit at h
  obtain ⟨s1, bs, h⟩ := reading_ok h
  unfold checked at h
  dsimp only at h
  split at h
  · cases h
  · split at h
    · cases h
    · obtain ⟨rfl, rfl⟩ := Res.ok.inj h
      exact ⟨rfl, rfl, rfl, rfl⟩

/-- The unit of a permutation whose list can be read and is one: the ream is committed, and the check value added. -/
theorem permUnit_commits {os : List Operand} (ts : List Nat) {p : Permuted} (hh : s.hitOf c e.seq = .clean)
    (hv : s.vatReady c (e.chain.listRuns (os.length * e.insn.deckle.count)) = true)
    (hl : listFault e.chain (os.length * e.insn.deckle.count) (listEntries (os.length * e.insn.deckle.count)
      (s.readBytes c e.seq.toNat (e.chain.listRuns (os.length * e.insn.deckle.count)))) = none)
    (hp : s.permuteReam e.fmts e.chain e.shape os (listEntries (os.length * e.insn.deckle.count)
      (s.readBytes c e.seq.toNat (e.chain.listRuns (os.length * e.insn.deckle.count)))) = some p) :
    permUnit c s e os ts = .ok (s.commitReam (e.insn.q 1) e.shape p ts) { e with rchk := e.rchk + p.check, wrote := true } := by
  unfold permUnit
  dsimp only
  rw [reading_vat hh hv, hl, checked, hp]

/-- PERM and PERM.X as one: an instruction that permutes the source ream `os` into the tiles `ts`, with the last uses `uses`. -/
def reamParts (os : Insn → List Operand) (ts : Insn → List Nat) (uses : Insn → List (Nat × Bool)) : Parts where
  start := fun _ s e => checked (s.permChecks e (os e.insn)) s fun _ => .ok s e
  units := fun _ _ => 1
  unit := fun c s e _ => permUnit c s e (os e.insn) (ts e.insn)
  finish := fun c s e => (s.lastUses (ts e.insn) (uses e.insn)).putRchk c e

theorem permParts_eq : permParts = reamParts (fun i => [i.srcA (i.q 1)]) (fun i => [i.td]) fun i => [(i.ta, i.lastA)] := rfl

theorem permXParts_eq : permXParts = reamParts Insn.permXSources (fun i => reamTiles i.td (i.q 3))
    fun i => (reamTiles i.ta (i.q 2)).map fun t => (t, i.lastA) := rfl

theorem reamParts_tame (os : Insn → List Operand) (ts : Insn → List Nat) (uses : Insn → List (Nat × Bool)) : (reamParts os ts uses).Tame :=
  fun _ _ _ _ _ _ h => permUnit_keeps h

/-- The end of a permutation leaves its destinations as its unit has left them, and takes the entry's check value (log 64). -/
theorem reamParts_ends (os : Insn → List Operand) (ts : Insn → List Nat) (uses : Insn → List (Nat × Bool)) {u : State}
    (hu : u = ((reamParts os ts uses).finish c s f).completes c f) : u.vat = s.vat ∧ u.tileMem = s.tileMem ∧
      (u.ctx c).rchk = s.rchkAfter c f f.rchk ∧ ∀ k ∈ ts f.insn, u.tile k = s.tile k := by
  obtain ⟨tiles, hs, hk⟩ := lastUses_spec (s := s) (ts f.insn) (uses f.insn)
  obtain ⟨hvat, htiles, hmem, hrchk⟩ := completes_leaves (s := (reamParts os ts uses).finish c s f) c f
  subst hu
  refine ⟨hvat.trans ?_, hmem.trans ?_, hrchk.trans (rchk_putRchk.trans ?_), fun k hd => Eq.trans ?_ (hk k hd)⟩
  · exact (congrArg State.vat hs :)
  · exact (congrArg State.tileMem hs :)
  · rw [hs]
    rfl
  · rw [State.tile, htiles]
    rfl

/-- A permutation into ascending tiles that runs: the tiles hold the delivered elements, and the check value is added (05 R160). -/
theorem reamParts_runs {os : Insn → List Operand} {ts : Insn → List Nat} {uses : Insn → List (Nat × Bool)} {kind : Insn → Bool}
    (hlt : ∀ k ∈ ts e.insn, k < 512) (hasc : (ts e.insn).Pairwise (· < ·)) (hp : s.poised c n e = true) (hk : kind e.insn = true)
    (h0 : e.upTo = 0) (hchk : s.permChecks e (os e.insn) = none) {es : List Nat} {p : Permuted}
    (hv : s.vatReady c (e.chain.listRuns ((os e.insn).length * e.insn.deckle.count)) = true)
    (hes : es = listEntries ((os e.insn).length * e.insn.deckle.count)
      (s.readBytes c n.toNat (e.chain.listRuns ((os e.insn).length * e.insn.deckle.count))))
    (hl : listFault e.chain ((os e.insn).length * e.insn.deckle.count) es = none)
    (hperm : s.permuteReam e.fmts e.chain e.shape (os e.insn) es = some p) (ht : s.trailReady = true) :
    ∃ t, whenUp s (State.runInsn (reamParts os ts uses) kind c n s) = .next t ∧
      (∀ r k, (ts e.insn)[r]? = some k → t.tileHolds k (e.insn.q 1)
        (layTile e.shape (slice p.codes r e.shape.d.count) (slice p.scales r e.shape.d.groups))) ∧
      (t.ctx c).rchk = s.rchkAfter c e (e.rchk + p.check) ∧ t.vat = s.vat := by
  obtain rfl := seq_of_poised hp
  rw [← readBytes_congr (s := s) (t := s.dropXlats c e.seq.toNat) _ (vatReady_iff.1 hv).1 rfl] at hes
  subst hes
  rw [← vatReady_dropXlats e.seq.toNat] at hv
  rw [← permuteReam_dropXlats e.seq.toNat] at hperm
  have hh : (s.dropXlats c e.seq.toNat).hitOf c e.seq = .clean := hitOf_poised hp
  have hunit : (reamParts os ts uses).unit c (s.dropXlats c e.seq.toNat) e.begun 0 =
      .ok ((s.dropXlats c e.seq.toNat).commitReam (e.insn.q 1) e.shape p (ts e.insn))
        { e.begun with rchk := e.rchk + p.check, wrote := true } :=
    permUnit_commits (e := e.begun) (ts e.insn) hh hv hl hperm
  obtain ⟨tiles, mem, hcommit⟩ := commitReam_spec (s := s.dropXlats c e.seq.toNat) (e.insn.q 1) e.shape p (ts e.insn)
  obtain ⟨hseq, hinsn, _, hrchk⟩ := commitUnit_keeps { e.begun with rchk := e.rchk + p.check, wrote := true } 0
  have hroom : ((s.dropXlats c e.seq.toNat).commitReam (e.insn.q 1) e.shape p (ts e.insn)).trailReady = true := by
    rw [hcommit]
    exact ht
  have hstart : (reamParts os ts uses).start c s e = .ok s e := by
    simp only [reamParts, hchk, checked]
  refine ⟨_, runInsn_one (reamParts_tame os ts uses) hp hk h0 hstart rfl hunit hroom, ?_⟩
  obtain ⟨hvat, hmem, hval, htile⟩ := reamParts_ends os ts uses rfl
  refine ⟨fun r k hr => ?tiles, hval.trans ?rchk, hvat.trans ?vat⟩
  case tiles =>
    refine (commitReam_holds hlt hasc (e.insn.q 1) p (length_layTile_legal (wordLegal_of_permChecks hchk)) hr).congr (htile k ?_) hmem
    rw [hinsn]
    exact List.mem_of_getElem? hr
  case rchk =>
    rw [State.rchkAfter, hseq, hrchk, hcommit]
    rfl
  case vat =>
    rw [hcommit]
    rfl

/-- Settles O30: PERM and PERM.X are each a permutation of a ream (`reamParts`), whose run is said once; what an element of the ream is
comes from the permutation itself. -/
theorem permMoves : Obligations.PermMoves := by
  unfold Obligations.PermMoves
  rintro i s c n e os ts es p hi hp h0 hchk hv hes hl hperm ht
  have hcodes : ∀ d, d < e.shape.d.count * os.length →
      p.codes[d]? = some ((s.reamCodes e.fmts os).getD (chainPull es e.chain.links d) 0) := fun d => permuteReam_codes hperm
  obtain ⟨rfl, hop, rfl, rfl⟩ | ⟨rfl, hop, rfl, rfl⟩ := hi
  · obtain ⟨t, hrun, htiles, hrest⟩ := reamParts_runs (os := fun i => [i.srcA (i.q 1)]) (ts := fun i => [i.td])
      (uses := fun i => [(i.ta, i.lastA)]) (by simp [td_lt]) (List.pairwise_singleton ..) hp hop h0 hchk hv hes hl hperm ht
    exact ⟨t, hrun, htiles, hcodes, hrest⟩
  · obtain ⟨t, hrun, htiles, hrest⟩ := reamParts_runs (ts := fun i => reamTiles i.td (i.q 3))
      (uses := fun i => (reamTiles i.ta (i.q 2)).map fun t => (t, i.lastA))
      (fun _ => reamTiles_lt) (reamTiles_ascend ..) hp hop h0 hchk hv hes hl hperm ht
    exact ⟨t, hrun, htiles, hcodes, hrest⟩

end Sys2Proof.Machine
end

section
/-! SPERM whose domain fits its ream (04 R139 to R142; 06 R212). -/

namespace Sys2Proof.Machine

variable {s t : State} {c : CtxId} {n : Seq} {e f : Entry}

/-! What its units leave of the entry. -/

theorem spermAccess_ok {list src : List Run} {known : List Piece} {reason : List Byte → Option FaultRec} {pieces : List Byte → List Piece}
    {r : State → Res} (h : spermAccess c s e list src known reason pieces r = .ok t f) : ∃ s1, r s1 = .ok t f := by
  unfold spermAccess at h
  dsimp only at h
  split at h
  · cases h
  · split at h
    · cases h
    · obtain ⟨s1, h⟩ := judging_ok h
      cases h
  · split at h
    · obtain ⟨s1, h⟩ := judging_ok h
      cases h
    · exact judging_ok h

/-- A unit that reads, stores dense pieces and adds to the check value leaves its entry's progress alone. -/
theorem spermAccess_keeps {list src rs : List Run} {known : List Piece} {reason : List Byte → Option FaultRec} {places : List Byte → List Piece}
    {k : Carrier} {img : Option Nat} {pieces : State → List Byte → List DensePiece} {g : State → State} {v : State → List Byte → Quad}
    (h : spermAccess c s e list src known reason places (fun s0 => reading c s0 e rs fun s1 bs =>
      writingDense k c s1 e img (pieces s1 bs) fun s2 e2 => .ok (g s2) { e2 with rchk := e2.rchk + v s1 bs }) = .ok t f) : f.SameProgress e := by
  obtain ⟨s0, h⟩ := spermAccess_ok h
  obtain ⟨s1, bs, h⟩ := reading_ok h
  obtain ⟨s2, e2, he, h⟩ := writingDense_ok h
  obtain ⟨_, rfl⟩ := Res.ok.inj h
  exact he

theorem spermParts_tame : spermParts.Tame := by
  intro c s e k t f h
  replace h : spermUnit c s e k = .ok t f := h
  unfold spermUnit spermWhole spermFirst spermSecond at h
  split at h
  · exact spermAccess_keeps h
  · split at h
    · exact spermAccess_keeps h
    · split at h
      · cases h
      · exact spermAccess_keeps h

/-! The one unit. -/

/-- A unit whose list proves good, and whose reads and writes lie ready in the Vat, goes on. -/
theorem spermAccess_vat {list src : List Run} {known : List Piece} {reason : List Byte → Option FaultRec} {places : List Byte → List Piece}
    {r : State → Res} (hn : reason (s.readBytes c e.seq.toNat list) = none)
    (hv : s.vatReady c (list ++ src ++ (places (s.readBytes c e.seq.toNat list)).flatMap Piece.edges ++
      (places (s.readBytes c e.seq.toNat list)).map Piece.run) = true) : spermAccess c s e list src known reason places r = r s := by
  have hlist : s.vatReady c list = true := vatReady_subset hv fun q hq => by simp [hq]
  unfold spermAccess
  simp only [reachRead_vat _ hlist, hn, judging_vat hv]

theorem pullArray_getD {ch : Chain} {m d : Nat} (h : d < m) (es : List Nat) : (pullArray ch m es).getD d 0 = chainPull es ch.links d := by
  simp [pullArray, h]

/-- A SPERM whose domain fits its ream writes the delivered codes as one dense image, and adds its check value (04 R140, R142). -/
theorem spermWhole_writes (hh : s.hitOf c e.seq = .clean) (ho : e.spermOverlap = false)
    (hv : s.vatReady c (e.chain.listRuns e.spermN ++ [e.spermFrom, e.spermTo] ++ e.spermEdges) = true)
    (hl : listFault e.chain e.spermN (listEntries e.spermN (s.readBytes c e.seq.toNat (e.chain.listRuns e.spermN))) = none) :
    spermWhole c s e = writingDense (e.insn.carrier c) c s e (some 0) [((e.insn.spermDst : Int), e.spermC, 0, s.spermCodes c e)] fun s2 e2 =>
      .ok s2.fresh { e2 with rchk := e2.rchk + s.spermCheck c e } := by
  have hread : s.vatReady c (e.chain.listRuns e.spermN ++ [e.spermFrom]) = true := vatReady_subset hv fun q hq => by
    simp only [List.mem_append, List.mem_cons, List.not_mem_nil, or_false] at hq ⊢
    exact .inl (hq.imp_right .inl)
  have hcodes (codes : Array Nat) (es : List Nat) : (List.range e.spermN).map (fun d => codes.getD ((pullArray e.chain e.spermN es).getD d 0) 0) =
      (List.range e.spermN).map fun d => codes.getD (chainPull es e.chain.links d) 0 :=
    List.map_congr_left fun d hd => by rw [pullArray_getD (List.mem_range.1 hd)]
  unfold spermWhole
  dsimp only
  rw [spermAccess_vat hl (vatReady_subset hv fun q hq => ?sub)]
  case sub =>
    have hq' : q ∈ e.chain.listRuns e.spermN ++ [e.spermFrom] ++ (e.spermEdges ++ []) ++ [e.spermTo] := hq
    simp only [List.mem_append, List.mem_cons, List.not_mem_nil, or_false] at hq' ⊢
    grind
  refine (reading_vat hh hread _).trans ?_
  rw [ho, orFree, if_neg (by decide), hcodes]
  rfl

/-- The store of a SPERM whose domain fits its ream. -/
def State.spermStore (s : State) (c : CtxId) (e : Entry) : Run × List Byte :=
  (e.spermTo, denseBytes e.spermC 0 (s.spermCodes c e) (s.readBytes c e.seq.toNat e.spermEdges))

/-- The unit of a SPERM whose domain fits its ream: the delivered codes are stored, and the check value added (04 R140, R142). -/
theorem spermWhole_commits (hh : s.hitOf c e.seq = .clean) (ho : e.spermOverlap = false)
    (hv : s.vatReady c (e.chain.listRuns e.spermN ++ [e.spermFrom, e.spermTo] ++ e.spermEdges) = true)
    (hl : listFault e.chain e.spermN (listEntries e.spermN (s.readBytes c e.seq.toNat (e.chain.listRuns e.spermN))) = none) :
    ∃ tel unacked outs, spermWhole c s e =
      .ok { s with vat := vatAfter s.vat [s.spermStore c e], tel := tel, unacked := unacked, freeCtr := s.freeCtr + 1 }
        { e with outs := outs, wrote := true, rchk := e.rchk + s.spermCheck c e } := by
  have hlen : (s.spermCodes c e).length = e.spermN := by simp [State.spermCodes]
  have hedges : DensePiece.edges ((e.insn.spermDst : Int), e.spermC, 0, s.spermCodes c e) = e.spermEdges := by
    rw [DensePiece.edges, hlen]
    rfl
  have hrun : DensePiece.run ((e.insn.spermDst : Int), e.spermC, 0, s.spermCodes c e) = e.spermTo := by
    rw [DensePiece.run, hlen]
    rfl
  have hstore : s.denseStore c e.seq.toNat ((e.insn.spermDst : Int), e.spermC, 0, s.spermCodes c e) = s.spermStore c e := by
    rw [State.denseStore, hrun, hedges]
    rfl
  have hready : s.vatReady c ([e.spermEdges].flatten ++ [e.spermTo]) = true := vatReady_subset hv fun q hq => by
    simp only [List.flatten_singleton, List.mem_append, List.mem_cons, List.not_mem_nil, or_false] at hq ⊢
    grind
  have hplace : s.vatReady c ([s.spermStore c e].map Prod.fst) = true := vatReady_subset hready fun q hq => List.mem_append_right _ hq
  obtain ⟨tel, unacked, hs⟩ := store_vat (s := s) (c := c) (ps := [s.spermStore c e]) (e.insn.carrier c) e.seq fun p hp =>
    (vatReady_iff.1 hplace).1 p.1 (List.mem_map_of_mem hp)
  obtain ⟨outs, hn⟩ := note_spec (s := s) (e := e) 0 [s.spermStore c e]
  refine ⟨tel, unacked, outs, ?_⟩
  rw [spermWhole_writes hh ho hv hl, writingDense_vat hh (by rw [List.map_singleton, List.map_singleton, hedges, hrun]; exact hready),
    List.map_singleton, hstore, writing_vat hplace]
  simp only [hs, hn]
  rfl

/-! The working ream. -/

theorem tile_upTile_empty (k : Nat) : (s.upTile k fun _ => {}).tile k = {} := by
  by_cases h : k < 512
  · exact tile_setTile_same _ h
  · simp [State.tile, h]

/-- A ream that is left changes its tiles, their bytes and the number of the next free value alone (04 R142). -/
theorem freeReam_spec (ts : List Nat) : ∃ tiles mem ctr, s.freeReam ts = { s with tiles := tiles, tileMem := mem, freeCtr := ctr } := by
  unfold State.freeReam
  induction ts generalizing s with
  | nil => exact ⟨_, _, _, rfl⟩
  | cons k r ih => exact ih

/-- No tile of a ream that is left is in use, and no other tile comes into use. -/
theorem inUse_freeReam {ts : List Nat} {k : Nat} (h : k ∈ ts ∨ (s.tile k).inUse = false) : ((s.freeReam ts).tile k).inUse = false := by
  unfold State.freeReam
  induction ts generalizing s with
  | nil => exact h.resolve_left List.not_mem_nil
  | cons j r ih =>
    by_cases hkj : k = j
    · subst hkj
      exact ih (.inr (congrArg Tile.inUse (tile_upTile_empty k)))
    · refine ih (h.imp (fun hm => (List.mem_cons.1 hm).resolve_left hkj) fun hu => ?_)
      exact (congrArg Tile.inUse (tile_setTile_other _ hkj)).trans hu

/-! The instruction. -/

/-- The end of a SPERM leaves the Vat, takes the entry's check value (log 64) and leaves its ream. -/
theorem sperm_ends (hs : f.started = true) (ho : f.insn.op = some .sperm) {u : State} (hu : u = (spermParts.finish c s f).completes c f) :
    u.vat = s.vat ∧ (u.ctx c).rchk = s.rchkAfter c f f.rchk ∧ ∀ k ∈ f.insn.spermReam, (u.tile k).inUse = false := by
  obtain ⟨tiles, mem, ctr, hfree⟩ := freeReam_spec (s := s) f.insn.spermReam
  obtain ⟨hvat, htiles, _, hrchk⟩ := completes_leaves (s := spermParts.finish c s f) c f
  have hfin : spermParts.finish c s f = (s.freeReam f.insn.spermReam).putRchk c f :=
    congrArg (State.putRchk · c f) (if_pos ⟨hs, ho, rfl⟩)
  subst hu
  refine ⟨hvat.trans ?_, hrchk.trans ?_, fun k hk => Eq.trans ?_ (inUse_freeReam (s := s) (.inl hk))⟩
  · rw [hfin, hfree]
    rfl
  · rw [hfin, rchk_putRchk, hfree]
    rfl
  · rw [State.tile, htiles, hfin]
    rfl

/-- What a SPERM stores, and its check value, go by the Vat alone where its list and images lie there. -/
theorem spermStore_congr (hv : t.vat = s.vat)
    (h : ∀ r ∈ e.chain.listRuns e.spermN ++ [e.spermFrom, e.spermTo] ++ e.spermEdges, inVat r.addr = true) :
    t.spermStore c e = s.spermStore c e ∧ t.spermCheck c e = s.spermCheck c e := by
  have hfrom : inVat e.spermFrom.addr = true := h _ (by simp)
  have hbytes : t.runBytes c e.seq.toNat e.spermFrom = s.runBytes c e.seq.toNat e.spermFrom := by
    rw [State.runBytes, State.runBytes, if_pos hfrom, if_pos hfrom, hv]
  have hlist := readBytes_congr (c := c) (rs := e.chain.listRuns e.spermN) e.seq.toNat (fun r hr => h r (by simp [hr])) hv
  have hedges := readBytes_congr (c := c) (rs := e.spermEdges) e.seq.toNat (fun r hr => h r (by simp [hr])) hv
  simp only [State.spermStore, State.spermCodes, State.spermCheck, hlist, hbytes, hedges, and_self]

/-- Settles O31: the one unit stores the codes that the pull map delivers (`spermWhole_commits`), and the end leaves the ream. -/
theorem spermDelivers : Obligations.SpermDelivers := by
  unfold Obligations.SpermDelivers
  intro s c n e hp hop h0 hstream hchain hout hfit ho hv hl ht
  obtain rfl := seq_of_poised hp
  have hstart : spermParts.start c s e = .ok s e := by
    simp only [spermParts, spermStart, hstream, hchain, hout, firstOf3, firstOf, checked]
  have hplaces := (vatReady_iff.1 hv).1
  obtain ⟨hstore, hcheck⟩ := spermStore_congr (s := s) (t := s.dropXlats c e.seq.toNat) (c := c) rfl hplaces
  have hh : (s.dropXlats c e.seq.toNat).hitOf c e.seq = .clean := hitOf_poised hp
  rw [← vatReady_dropXlats e.seq.toNat] at hv
  rw [← readBytes_congr (s := s) (t := s.dropXlats c e.seq.toNat) _ (fun r hr => hplaces r (by simp [hr])) rfl] at hl
  obtain ⟨tel, unacked, outs, hwhole⟩ := spermWhole_commits (e := e.begun) hh ho hv hl
  have hunit : spermParts.unit c (s.dropXlats c e.seq.toNat) e.begun 0 = _ := (if_pos hfit).trans hwhole
  obtain ⟨hseq, hinsn, hstarted, hrchk⟩ :=
    commitUnit_keeps { e.begun with outs := outs, wrote := true, rchk := e.rchk + (s.dropXlats c e.seq.toNat).spermCheck c e } 0
  obtain ⟨hvat, hval, hream⟩ := sperm_ends (c := c) (hstarted.trans rfl) ((congrArg Insn.op hinsn).trans (eq_of_beq hop)) rfl
  refine ⟨_, runInsn_one spermParts_tame hp hop h0 hstart (if_pos hfit) hunit ht, hvat.trans ?vat, hval.trans ?rchk, fun k hk => hream k ?ream⟩
  case vat => exact congrArg (fun p => vatAfter s.vat [p]) hstore
  case rchk =>
    rw [State.rchkAfter, hseq, hrchk, hcheck]
    rfl
  case ream =>
    rw [hinsn]
    exact hk

end Sys2Proof.Machine
end
